-- ==== Sys2Proof/Word.lean ====
section
/-! DEFINITION. Words, bytes and the field records of the three instruction streams and of the micro-op word
(spec/03_streams.md R47 to R67, spec/17_control_store.md R329). -/

namespace Sys2Proof

/-- A 64-bit register value. -/
abbrev Word := BitVec 64

/-- A byte of memory. -/
abbrev Byte := BitVec 8

/-- A 32-bit lane of a tile row. -/
abbrev Lane := BitVec 32

/-- A 24-bit operand field of a vector word, decoded (R60). -/
inductive Operand where
  /-- a row, column, diagonal or antidiagonal of a tile; `low` is bits [4:0], the source type of VCVT and VMOV -/
  | tile (dir : BitVec 2) (tile : BitVec 3) (index : BitVec 6) (stride : BitVec 5) (rot : Bool) (low : BitVec 5)
  /-- a streaming port -/
  | port (p : BitVec 3)
  /-- an x register -/
  | xreg (n : BitVec 4)
  /-- a 21-bit immediate -/
  | imm (v : BitVec 21)
  /-- lane index, mask top, all-ones or zero -/
  | special (id : BitVec 2)
  deriving DecidableEq, Repr

/-- The operand of a field of 24 zero bits, which is what an unused field holds (R116). -/
def Operand.unused : Operand := .tile 0 0 0 0 false 0

/-- A packet as it reaches the device: the device that sends it, its epoch, path and sequence number there, and the context that it
names (R350). -/
structure Inbound where
  src : Nat
  epoch : Nat
  path : Nat
  seq : Nat
  ctx : Nat
  deriving DecidableEq, Repr

/-- A group as a packet names it: its number and its hash (R355, R368). -/
structure GroupName where
  g : Nat
  hash : Nat
  deriving DecidableEq, Repr

/-- A rotated block with the number of steps of its call and the rank whose block it is (R363). -/
structure Rotated where
  steps : Nat
  origin : Nat
  data : List (BitVec 8)
  deriving DecidableEq, Repr

/-- The bytes of a response, and the places of those that carry poison (R350, R397). -/
structure Marked where
  bytes : List (BitVec 8)
  pois : List Nat
  deriving DecidableEq, Repr

/-- A sector of DRAM as its controller's patrol reads it: address, stack, pseudo-channel (R393, R400). -/
structure DramSector where
  addr : Nat
  stack : Nat
  pc : Nat
  deriving DecidableEq, Repr

/-- A page of a context's range, and whether an access of another cell claims its capture (R404). -/
structure CaptureClaim where
  page : Nat
  other : Bool
  deriving DecidableEq, Repr

/-- What the patrol finds in a sector (R397, R400). -/
inductive ScrubFound where
  | clean | corrected | uncorrectable
  deriving DecidableEq, Repr

/-- The queue that a packet belongs to, and the virtual channel that carries it (R350, R354). -/
structure Carrier where
  q : Nat
  vc : Nat
  /-- the port that it has come over, out of the payload of the oldest flit of its channel that has been delivered there; none for a packet
  of the device itself -/
  port : Option Nat
  deriving DecidableEq, Repr

/-- The parts of an arriving flit that its other fields do not give: virtual channel, control word, the payload as it came, which is
ciphertext with E = 1, and the check (R411). -/
structure FlitBody where
  vc : Nat
  ctl : Nat
  payload : List (BitVec 8)
  check : List (BitVec 8)
  deriving DecidableEq, Repr

/-- A key that the security block has derived, with its slot: false A, true B (R413). -/
structure LinkKey where
  slot : Bool
  key : BitVec 256
  deriving DecidableEq, Repr

/-- The fields of a write of TLBINV that names a context, with the page that it holds (R292). -/
structure TlbTarget where
  ctx : Nat
  vpn : Nat
  deriving DecidableEq, Repr

/-- The fields of a vector word other than the opcode (R56). -/
structure VWord where
  w : BitVec 3
  x : Bool
  m : Bool
  s : Bool
  stg : BitVec 3
  t : BitVec 4
  rep : BitVec 3
  d : Operand
  a : Operand
  b : Operand
  deriving DecidableEq, Repr

/-- The fields of a matrix word other than the opcode (R66). -/
structure MWord where
  flg : BitVec 8
  ra : BitVec 4
  rb : BitVec 4
  fda : BitVec 4
  fdb : BitVec 4
  acc : BitVec 10
  cnt : BitVec 10
  sco : BitVec 8
  nst : BitVec 4
  prt : BitVec 8
  tor : BitVec 32
  toc : BitVec 32
  tid : BitVec 24
  aux : BitVec 32
  deriving DecidableEq, Repr

/-- The fields of a micro-op word other than the micro-op code (R329). -/
structure UWord where
  ut : BitVec 4
  dst : BitVec 5
  s1 : BitVec 5
  s2 : BitVec 5
  s3 : BitVec 5
  fin : Bool
  imm : BitVec 16
  deriving DecidableEq, Repr

/-- The vector word whose every field is zero. -/
def VWord.zero : VWord :=
  { w := 0, x := false, m := false, s := false, stg := 0, t := 0, rep := 0,
    d := Operand.unused, a := Operand.unused, b := Operand.unused }

/-- The matrix word whose every field is zero. -/
def MWord.zero : MWord :=
  { flg := 0, ra := 0, rb := 0, fda := 0, fdb := 0, acc := 0, cnt := 0, sco := 0, nst := 0, prt := 0,
    tor := 0, toc := 0, tid := 0, aux := 0 }

/-- The micro-op word whose every field is zero. -/
def UWord.zero : UWord := { ut := 0, dst := 0, s1 := 0, s2 := 0, s3 := 0, fin := false, imm := 0 }

end Sys2Proof
end

