-- ==== Sys2Proof/Syntax.lean ====
section
/-! DEFINITION. The abstract syntax: one constructor for each row of spec/opcode_table.json. Reeve words carry the
fields of their form (R50); vector, matrix and micro-op words carry the field records of Word.lean; an event row has no
encoding, and its arguments say what arrives (spec/95_what_each_step_holds.md). Reeve words and events stand first:
the compiler builds values of the first 245 constructors only, and step builds no others. -/

namespace Sys2Proof

/-- One constructor per row of the opcode table. -/
inductive Instr where
  /-- NOP (R97) -/
  | nop (y : Bool) (w : BitVec 2)
  /-- HALT (R98) -/
  | halt (y : Bool) (w : BitVec 2)
  /-- WFE (R99) -/
  | wfe (y : Bool) (w : BitVec 2)
  /-- TRAP (R100) -/
  | trap (y : Bool) (w : BitVec 2) (c : BitVec 5)
  /-- ERET (R101) -/
  | eret (y : Bool) (w : BitVec 2)
  /-- SEGB (R102) -/
  | segb (y : Bool) (w : BitVec 2) (a : BitVec 5)
  /-- SEGE (R262) -/
  | sege (y : Bool) (w : BitVec 2)
  /-- REPLAY (R198) -/
  | replay (y : Bool) (w : BitVec 2) (a : BitVec 5)
  /-- PPT (R104) -/
  | ppt (y : Bool) (w : BitVec 2) (d : BitVec 5)
  /-- CSLOAD (R327) -/
  | csload (y : Bool) (w : BitVec 2) (d : BitVec 5) (a : BitVec 5) (b : BitVec 5)
  /-- ADD (R79) -/
  | add (y : Bool) (w : BitVec 2) (d : BitVec 5) (a : BitVec 5) (b : BitVec 5)
  /-- SUB (R79) -/
  | sub (y : Bool) (w : BitVec 2) (d : BitVec 5) (a : BitVec 5) (b : BitVec 5)
  /-- AND (R79) -/
  | and (y : Bool) (w : BitVec 2) (d : BitVec 5) (a : BitVec 5) (b : BitVec 5)
  /-- OR (R79) -/
  | or (y : Bool) (w : BitVec 2) (d : BitVec 5) (a : BitVec 5) (b : BitVec 5)
  /-- XOR (R79) -/
  | xor (y : Bool) (w : BitVec 2) (d : BitVec 5) (a : BitVec 5) (b : BitVec 5)
  /-- ANDN (R79) -/
  | andn (y : Bool) (w : BitVec 2) (d : BitVec 5) (a : BitVec 5) (b : BitVec 5)
  /-- SHL (R79) -/
  | shl (y : Bool) (w : BitVec 2) (d : BitVec 5) (a : BitVec 5) (b : BitVec 5)
  /-- SHRL (R79) -/
  | shrl (y : Bool) (w : BitVec 2) (d : BitVec 5) (a : BitVec 5) (b : BitVec 5)
  /-- SHRA (R79) -/
  | shra (y : Bool) (w : BitVec 2) (d : BitVec 5) (a : BitVec 5) (b : BitVec 5)
  /-- ROTL (R79) -/
  | rotl (y : Bool) (w : BitVec 2) (d : BitVec 5) (a : BitVec 5) (b : BitVec 5)
  /-- MIN (R79) -/
  | min (y : Bool) (w : BitVec 2) (d : BitVec 5) (a : BitVec 5) (b : BitVec 5)
  /-- MAX (R79) -/
  | max (y : Bool) (w : BitVec 2) (d : BitVec 5) (a : BitVec 5) (b : BitVec 5)
  /-- MINN (R79) -/
  | minn (y : Bool) (w : BitVec 2) (d : BitVec 5) (a : BitVec 5) (b : BitVec 5)
  /-- MAXN (R79) -/
  | maxn (y : Bool) (w : BitVec 2) (d : BitVec 5) (a : BitVec 5) (b : BitVec 5)
  /-- CMPEQ (R79) -/
  | cmpeq (y : Bool) (w : BitVec 2) (d : BitVec 5) (a : BitVec 5) (b : BitVec 5)
  /-- CMPNE (R79) -/
  | cmpne (y : Bool) (w : BitVec 2) (d : BitVec 5) (a : BitVec 5) (b : BitVec 5)
  /-- CMPLT (R79) -/
  | cmplt (y : Bool) (w : BitVec 2) (d : BitVec 5) (a : BitVec 5) (b : BitVec 5)
  /-- CMPLTN (R79) -/
  | cmpltn (y : Bool) (w : BitVec 2) (d : BitVec 5) (a : BitVec 5) (b : BitVec 5)
  /-- CLZ (R79) -/
  | clz (y : Bool) (w : BitVec 2) (d : BitVec 5) (a : BitVec 5)
  /-- POPC (R79) -/
  | popc (y : Bool) (w : BitVec 2) (d : BitVec 5) (a : BitVec 5)
  /-- SEL (R79) -/
  | sel (y : Bool) (w : BitVec 2) (d : BitVec 5) (a : BitVec 5) (b : BitVec 5)
  /-- MUL (R80) -/
  | mul (y : Bool) (w : BitVec 2) (d : BitVec 5) (a : BitVec 5) (b : BitVec 5)
  /-- MULH (R80) -/
  | mulh (y : Bool) (w : BitVec 2) (d : BitVec 5) (a : BitVec 5) (b : BitVec 5)
  /-- MULHN (R80) -/
  | mulhn (y : Bool) (w : BitVec 2) (d : BitVec 5) (a : BitVec 5) (b : BitVec 5)
  /-- DIV (R80) -/
  | div (y : Bool) (w : BitVec 2) (d : BitVec 5) (a : BitVec 5) (b : BitVec 5)
  /-- DIVN (R80) -/
  | divn (y : Bool) (w : BitVec 2) (d : BitVec 5) (a : BitVec 5) (b : BitVec 5)
  /-- REM (R80) -/
  | rem (y : Bool) (w : BitVec 2) (d : BitVec 5) (a : BitVec 5) (b : BitVec 5)
  /-- REMN (R80) -/
  | remn (y : Bool) (w : BitVec 2) (d : BitVec 5) (a : BitVec 5) (b : BitVec 5)
  /-- ADDI (R81) -/
  | addi (y : Bool) (w : BitVec 2) (d : BitVec 5) (a : BitVec 5) (i : BitVec 13)
  /-- ANDI (R81) -/
  | andi (y : Bool) (w : BitVec 2) (d : BitVec 5) (a : BitVec 5) (i : BitVec 13)
  /-- ORI (R81) -/
  | ori (y : Bool) (w : BitVec 2) (d : BitVec 5) (a : BitVec 5) (i : BitVec 13)
  /-- XORI (R81) -/
  | xori (y : Bool) (w : BitVec 2) (d : BitVec 5) (a : BitVec 5) (i : BitVec 13)
  /-- SHLI (R81) -/
  | shli (y : Bool) (w : BitVec 2) (d : BitVec 5) (a : BitVec 5) (i : BitVec 6)
  /-- SHRLI (R81) -/
  | shrli (y : Bool) (w : BitVec 2) (d : BitVec 5) (a : BitVec 5) (i : BitVec 6)
  /-- SHRAI (R81) -/
  | shrai (y : Bool) (w : BitVec 2) (d : BitVec 5) (a : BitVec 5) (i : BitVec 6)
  /-- CMPEQI (R81) -/
  | cmpeqi (y : Bool) (w : BitVec 2) (d : BitVec 5) (a : BitVec 5) (i : BitVec 13)
  /-- CMPLTI (R81) -/
  | cmplti (y : Bool) (w : BitVec 2) (d : BitVec 5) (a : BitVec 5) (i : BitVec 13)
  /-- LIMM (R82) -/
  | limm (y : Bool) (w : BitVec 2) (d : BitVec 5) (i : BitVec 18)
  /-- LIMMS (R82) -/
  | limms (y : Bool) (w : BitVec 2) (d : BitVec 5) (i : BitVec 18)
  /-- MFSR (R83) -/
  | mfsr (y : Bool) (w : BitVec 2) (d : BitVec 5) (r : BitVec 13)
  /-- MTSR (R83) -/
  | mtsr (y : Bool) (w : BitVec 2) (a : BitVec 5) (r : BitVec 13)
  /-- LDB (R85) -/
  | ldb (y : Bool) (w : BitVec 2) (d : BitVec 5) (a : BitVec 5) (i : BitVec 13)
  /-- LDH (R85) -/
  | ldh (y : Bool) (w : BitVec 2) (d : BitVec 5) (a : BitVec 5) (i : BitVec 13)
  /-- LDW (R85) -/
  | ldw (y : Bool) (w : BitVec 2) (d : BitVec 5) (a : BitVec 5) (i : BitVec 13)
  /-- LDD (R85) -/
  | ldd (y : Bool) (w : BitVec 2) (d : BitVec 5) (a : BitVec 5) (i : BitVec 13)
  /-- LDWS (R85) -/
  | ldws (y : Bool) (w : BitVec 2) (d : BitVec 5) (a : BitVec 5) (i : BitVec 13)
  /-- STB (R85) -/
  | stb (y : Bool) (w : BitVec 2) (v : BitVec 5) (a : BitVec 5) (o : BitVec 13)
  /-- STH (R85) -/
  | sth (y : Bool) (w : BitVec 2) (v : BitVec 5) (a : BitVec 5) (o : BitVec 13)
  /-- STW (R85) -/
  | stw (y : Bool) (w : BitVec 2) (v : BitVec 5) (a : BitVec 5) (o : BitVec 13)
  /-- STD (R85) -/
  | std (y : Bool) (w : BitVec 2) (v : BitVec 5) (a : BitVec 5) (o : BitVec 13)
  /-- STF (R88) -/
  | stf (y : Bool) (w : BitVec 2) (v : BitVec 5) (a : BitVec 5) (o : BitVec 13)
  /-- AMO_ADD (R90) -/
  | amoAdd (y : Bool) (w : BitVec 2) (d : BitVec 5) (a : BitVec 5) (b : BitVec 5) (z : Bool)
  /-- AMO_AND (R90) -/
  | amoAnd (y : Bool) (w : BitVec 2) (d : BitVec 5) (a : BitVec 5) (b : BitVec 5) (z : Bool)
  /-- AMO_OR (R90) -/
  | amoOr (y : Bool) (w : BitVec 2) (d : BitVec 5) (a : BitVec 5) (b : BitVec 5) (z : Bool)
  /-- AMO_XOR (R90) -/
  | amoXor (y : Bool) (w : BitVec 2) (d : BitVec 5) (a : BitVec 5) (b : BitVec 5) (z : Bool)
  /-- AMO_MIN (R90) -/
  | amoMin (y : Bool) (w : BitVec 2) (d : BitVec 5) (a : BitVec 5) (b : BitVec 5) (z : Bool)
  /-- AMO_MAX (R90) -/
  | amoMax (y : Bool) (w : BitVec 2) (d : BitVec 5) (a : BitVec 5) (b : BitVec 5) (z : Bool)
  /-- AMO_MINN (R90) -/
  | amoMinn (y : Bool) (w : BitVec 2) (d : BitVec 5) (a : BitVec 5) (b : BitVec 5) (z : Bool)
  /-- AMO_MAXN (R90) -/
  | amoMaxn (y : Bool) (w : BitVec 2) (d : BitVec 5) (a : BitVec 5) (b : BitVec 5) (z : Bool)
  /-- AMO_SWAP (R90) -/
  | amoSwap (y : Bool) (w : BitVec 2) (d : BitVec 5) (a : BitVec 5) (b : BitVec 5) (z : Bool)
  /-- CAS (R91) -/
  | cas (y : Bool) (w : BitVec 2) (d : BitVec 5) (a : BitVec 5) (b : BitVec 5) (z : Bool)
  /-- QALIGN (R93) -/
  | qalign (y : Bool) (w : BitVec 2)
  /-- FENCE_CELL (R94) -/
  | fenceCell (y : Bool) (w : BitVec 2)
  /-- FENCE_QUAD (R94) -/
  | fenceQuad (y : Bool) (w : BitVec 2)
  /-- FENCE_DIE (R94) -/
  | fenceDie (y : Bool) (w : BitVec 2)
  /-- FENCE_DEV (R94) -/
  | fenceDev (y : Bool) (w : BitVec 2)
  /-- FENCE_SYS (R94) -/
  | fenceSys (y : Bool) (w : BitVec 2)
  /-- FENCE_MS (R94) -/
  | fenceMs (y : Bool) (w : BitVec 2)
  /-- BR (R95) -/
  | br (y : Bool) (w : BitVec 2) (o : BitVec 23)
  /-- BEQZ (R95) -/
  | beqz (y : Bool) (w : BitVec 2) (a : BitVec 5) (o : BitVec 18)
  /-- BNEZ (R95) -/
  | bnez (y : Bool) (w : BitVec 2) (a : BitVec 5) (o : BitVec 18)
  /-- BLTZ (R95) -/
  | bltz (y : Bool) (w : BitVec 2) (a : BitVec 5) (o : BitVec 18)
  /-- BGEZ (R95) -/
  | bgez (y : Bool) (w : BitVec 2) (a : BitVec 5) (o : BitVec 18)
  /-- CALL (R95) -/
  | call (y : Bool) (w : BitVec 2) (o : BitVec 23)
  /-- JR (R95) -/
  | jr (y : Bool) (w : BitVec 2) (a : BitVec 5)
  /-- JTAB (R96) -/
  | jtab (y : Bool) (w : BitVec 2) (d : BitVec 5) (a : BitVec 5) (n : BitVec 8)
  /-- MARK (R222) -/
  | mark (y : Bool) (w : BitVec 2) (m : BitVec 5) (k : BitVec 8)
  /-- RDV_ARM (R224) -/
  | rdvArm (y : Bool) (w : BitVec 2) (m : BitVec 5) (i : BitVec 3) (k : BitVec 8)
  /-- RDV_WAIT (R224) -/
  | rdvWait (y : Bool) (w : BitVec 2) (i : BitVec 3)
  /-- RDV_AW (R224) -/
  | rdvAw (y : Bool) (w : BitVec 2) (m : BitVec 5) (i : BitVec 3) (k : BitVec 8)
  /-- FORK (R226) -/
  | fork (y : Bool) (w : BitVec 2) (d : BitVec 5) (a : BitVec 5) (b : BitVec 5)
  /-- FORK_V (R226) -/
  | forkV (y : Bool) (w : BitVec 2) (d : BitVec 5) (a : BitVec 5)
  /-- FORK_M (R226) -/
  | forkM (y : Bool) (w : BitVec 2) (d : BitVec 5) (b : BitVec 5)
  /-- FORK_E (R226) -/
  | forkE (y : Bool) (w : BitVec 2) (d : BitVec 5)
  /-- FORK_E_V (R226) -/
  | forkEV (y : Bool) (w : BitVec 2) (d : BitVec 5)
  /-- FORK_E_M (R226) -/
  | forkEM (y : Bool) (w : BitVec 2) (d : BitVec 5)
  /-- EVSET_LOAD (R232) -/
  | evsetLoad (y : Bool) (w : BitVec 2) (d : BitVec 5) (a : BitVec 5)
  /-- EVSET_ZERO (R232) -/
  | evsetZero (y : Bool) (w : BitVec 2) (d : BitVec 5)
  /-- EVSET_CLEAR (R232) -/
  | evsetClear (y : Bool) (w : BitVec 2) (d : BitVec 5)
  /-- EVSET_COUNT (R232) -/
  | evsetCount (y : Bool) (w : BitVec 2) (d : BitVec 5) (a : BitVec 5)
  /-- JOB (R237) -/
  | job (y : Bool) (w : BitVec 2) (d : BitVec 5) (a : BitVec 5)
  /-- SWINIT (R235) -/
  | swinit (y : Bool) (w : BitVec 2) (d : BitVec 5) (a : BitVec 5) (b : BitVec 5)
  /-- SWINIT_Z (R235) -/
  | swinitZ (y : Bool) (w : BitVec 2) (d : BitVec 5) (a : BitVec 5) (b : BitVec 5)
  /-- SWAIT (R235) -/
  | swait (y : Bool) (w : BitVec 2) (d : BitVec 5) (a : BitVec 5) (b : BitVec 5)
  /-- SWADD_CELL (R235) -/
  | swaddCell (y : Bool) (w : BitVec 2) (d : BitVec 5) (a : BitVec 5) (b : BitVec 5)
  /-- SWADD_QUAD (R235) -/
  | swaddQuad (y : Bool) (w : BitVec 2) (d : BitVec 5) (a : BitVec 5) (b : BitVec 5)
  /-- TLOOK (R207) -/
  | tlook (y : Bool) (w : BitVec 2) (d : BitVec 5) (a : BitVec 5)
  /-- TSET (R207) -/
  | tset (y : Bool) (w : BitVec 2) (d : BitVec 5) (a : BitVec 5) (b : BitVec 5)
  /-- TINV_SLOT (R207) -/
  | tinvSlot (y : Bool) (w : BitVec 2) (d : BitVec 5) (a : BitVec 5)
  /-- TINV_KEY (R207) -/
  | tinvKey (y : Bool) (w : BitVec 2) (d : BitVec 5) (a : BitVec 5)
  /-- TINV_ALL (R207) -/
  | tinvAll (y : Bool) (w : BitVec 2) (d : BitVec 5)
  /-- RINGSET (R210) -/
  | ringset (y : Bool) (w : BitVec 2) (d : BitVec 5) (a : BitVec 5) (b : BitVec 5) (r : BitVec 4)
  /-- RINGADV_P (R211) -/
  | ringadvP (y : Bool) (w : BitVec 2) (d : BitVec 5) (a : BitVec 5) (r : BitVec 4)
  /-- RINGADV_C (R211) -/
  | ringadvC (y : Bool) (w : BitVec 2) (d : BitVec 5) (a : BitVec 5) (r : BitVec 4)
  /-- CSBIND (R334) -/
  | csbind (y : Bool) (w : BitVec 2) (d : BitVec 5) (a : BitVec 5) (b : BitVec 5) (n : BitVec 4)
  /-- CSBIND_U (R334) -/
  | csbindU (y : Bool) (w : BitVec 2) (d : BitVec 5) (n : BitVec 4)
  /-- CSBIND_R (R334) -/
  | csbindR (y : Bool) (w : BitVec 2) (d : BitVec 5) (n : BitVec 4)
  /-- CGRP (R355) -/
  | cgrp (y : Bool) (w : BitVec 2) (d : BitVec 5) (a : BitVec 5) (g : BitVec 4)
  /-- CGRP_D (R355) -/
  | cgrpD (y : Bool) (w : BitVec 2) (d : BitVec 5) (g : BitVec 4)
  /-- CGRP_Q (R355) -/
  | cgrpQ (y : Bool) (w : BitVec 2) (d : BitVec 5) (g : BitVec 4)
  /-- CGRP_L (R355) -/
  | cgrpL (y : Bool) (w : BitVec 2) (d : BitVec 5) (g : BitVec 4)
  /-- CLDRED (R361) -/
  | cldred (y : Bool) (w : BitVec 2) (d : BitVec 5) (a : BitVec 5)
  /-- CROT (R363) -/
  | crot (y : Bool) (w : BitVec 2) (d : BitVec 5) (a : BitVec 5)
  /-- CPAIR (R364) -/
  | cpair (y : Bool) (w : BitVec 2) (d : BitVec 5) (a : BitVec 5)
  /-- LOGAPP (R378) -/
  | logapp (y : Bool) (w : BitVec 2) (d : BitVec 5) (a : BitVec 5)
  /-- LOGAPP_A (R379) -/
  | logappA (y : Bool) (w : BitVec 2) (d : BitVec 5) (a : BitVec 5)
  /-- LOGPULL (R380) -/
  | logpull (y : Bool) (w : BitVec 2) (d : BitVec 5) (a : BitVec 5)
  /-- MSUPD (R381) -/
  | msupd (y : Bool) (w : BitVec 2) (d : BitVec 5) (a : BitVec 5)
  /-- CAPT_S (R403) -/
  | captS (y : Bool) (w : BitVec 2) (d : BitVec 5)
  /-- CAPT_W (R403) -/
  | captW (y : Bool) (w : BitVec 2) (d : BitVec 5) (a : BitVec 5)
  /-- DIGEST (R408) -/
  | digest (y : Bool) (w : BitVec 2) (d : BitVec 5) (a : BitVec 5) (l : BitVec 4)
  /-- DIGEST_N (R408) -/
  | digestN (y : Bool) (w : BitVec 2) (d : BitVec 5) (l : BitVec 4)
  /-- CLUSTERGO_WRITE (R78) -/
  | clustergoWrite (c : Fin 4) (mask : BitVec 4)
  /-- PREEMPT_YIELD (R322) -/
  | preemptYield
  /-- PREEMPT_HOLD_EXPIRY (R322) -/
  | preemptHoldExpiry
  /-- LOGBASE_WRITE (R372) -/
  | logbaseWrite (c : Fin 4) (v : BitVec 64)
  /-- REGISTER_WRITE (R2) -/
  | registerWrite (fn off : Nat) (v : BitVec 64)
  /-- TRAP_DELIVERY (R107) -/
  | trapDelivery
  /-- WFE_WAKE (R99) -/
  | wfeWake (c : Fin 4)
  /-- LOAD_DATA_RETURN (R87) -/
  | loadDataReturn (c : Fin 4)
  /-- GLOBAL_RESPONSE_RETURN (R367) -/
  | globalResponseReturn (q dev epoch path seq : Nat) (ok : Bool) (data : Marked)
  /-- WALK_COMPLETE (R290) -/
  | walkComplete (k : Nat)
  /-- FAULT_QUEUE_ROOM (R293) -/
  | faultQueueRoom
  /-- PFRES_RETRY (R294) -/
  | pfresRetry (id : Nat)
  /-- PFRES_INVALID (R294) -/
  | pfresInvalid (id : Nat)
  /-- TLBINV_PAGE (R292) -/
  | tlbinvPage (ctx vpn : Nat)
  /-- TLBINV_CONTEXT (R292) -/
  | tlbinvContext (at_ : TlbTarget)
  /-- TLBINV_ALL; its write's other fields are not named (R292) -/
  | tlbinvAll
  /-- TLBINV_COMPLETE (R292) -/
  | tlbinvComplete
  /-- VECTOR_RESULT_LAND (R112) -/
  | vectorResultLand
  /-- VECTOR_LOAD_LANE_ARRIVE (R157) -/
  | vectorLoadLaneArrive (lane : Nat)
  /-- VECTOR_STORE_LAND (R157) -/
  | vectorStoreLand
  /-- PORT_ELEMENT_FETCH (R216) -/
  | portElementFetch (p : Fin 8)
  /-- PORT_ELEMENT_WRITE (R217) -/
  | portElementWrite (p : Fin 8)
  /-- MATRIX_WORD_COMPLETE (R168) -/
  | matrixWordComplete
  /-- MATRIX_WORD_START (R167) -/
  | matrixWordStart
  /-- RDV_WAIT_RELEASE (R225) -/
  | rdvWaitRelease (eng : Nat)
  /-- SYNC_WAIT_RELEASE (R236) -/
  | syncWaitRelease (eng : Nat)
  /-- SLUICE_PULSE (R227) -/
  | sluicePulse
  /-- SLUICE_TERM_FIRE (R230) -/
  | sluiceTermFire (term : Fin 8)
  /-- SLUICE_VECTOR_RESUME (R231) -/
  | sluiceVectorResume
  /-- SLUICE_MATRIX_RESUME (R231) -/
  | sluiceMatrixResume
  /-- SLUICE_JOB_RELEASE (R231) -/
  | sluiceJobRelease (line : Fin 8)
  /-- SLUICE_COLL_RELEASE (R231) -/
  | sluiceCollRelease
  /-- SLUICE_WAKE (R231) -/
  | sluiceWake (mask : BitVec 4)
  /-- JOB_START (R241) -/
  | jobStart (adm : Nat)
  /-- JOB_CHUNK_COMPLETE (R242) -/
  | jobChunkComplete (adm : Nat)
  /-- JOB_COMPLETE (R242) -/
  | jobComplete (adm : Nat)
  /-- COLL_CMD_START (R358) -/
  | collCmdStart (adm : Nat)
  /-- COLL_CMD_COMPLETE (R358) -/
  | collCmdComplete (adm : Nat)
  /-- PRESENCE_REQUEST_RECEIVE (R368) -/
  | presenceRequestReceive (p : Inbound) (grp : GroupName) (call rank kind elems : Nat) (out32 : Bool)
  /-- PRESENCE_REPORT_RECEIVE (R368) -/
  | presenceReportReceive (p : Inbound) (g call rank : Nat) (absent : List Nat) (kind elems : Nat) (out32 : Bool)
  /-- COLL_VERDICT_RECEIVE (R362) -/
  | collVerdictReceive (p : Inbound) (g call : Nat) (absent : List Nat)
  /-- COLL_DATA_CHUNK_RECEIVE (R362) -/
  | collDataChunkReceive (p : Inbound) (g call rank chunk : Nat) (data : List (BitVec 32))
  /-- COLL_FAULT_NOTICE (R359) -/
  | collFaultNotice (p : Inbound) (g call : Nat) (mismatch : Bool)
  /-- CROT_BLOCK_RECEIVE (R363) -/
  | crotBlockReceive (p : Inbound) (grp : GroupName) (call : Nat) (block : Rotated)
  /-- CROT_ABORT_RECEIVE (R363) -/
  | crotAbortReceive (p : Inbound) (g call : Nat) (absent : List Nat)
  /-- LOG_RECEIVE (R365) -/
  | logReceive (p : Inbound) (entry : List (BitVec 8)) (original : Bool)
  /-- LOGPULL_REQUEST_RECEIVE (R380) -/
  | logpullRequestReceive (p : Inbound) (adm step slot : Nat)
  /-- LOGPULL_ANSWER_RECEIVE (R380) -/
  | logpullAnswerReceive (ctx adm step slot : Nat) (answer : Option (List (BitVec 8))) (gone : Bool)
  /-- MENDERS_CMD_START (R385) -/
  | mendersCmdStart (adm : Nat)
  /-- MENDERS_CHUNK (R383) -/
  | mendersChunk (adm : Nat)
  /-- MENDERS_CMD_COMPLETE (R385) -/
  | mendersCmdComplete (adm : Nat)
  /-- REQUEST_PACKET_ARRIVE (R351) -/
  | requestPacketArrive (src q ctx epoch path seq : Nat) (sup : Bool) (kind va : Nat) (data : List (BitVec 8)) (sp : List Nat)
  /-- PACKET_FORWARD (R349) -/
  | packetForward (dst tag hops src : Nat) (by_ : Carrier) (epoch seq : Nat)
  /-- PACKET_ACK_RECEIVE (R353) -/
  | packetAckReceive (q dev epoch path seq bytes : Nat)
  /-- REROUTE_NOTICE (R353) -/
  | rerouteNotice (q dev epoch path seq : Nat)
  /-- UNREACHABLE_NOTICE (R353) -/
  | unreachableNotice (q dev epoch path seq : Nat)
  /-- BUSY_NOTICE (R351) -/
  | busyNotice (q dev epoch path seq : Nat)
  /-- CANCEL_RECEIVE (R353) -/
  | cancelReceive (src q epoch path seq : Nat)
  /-- CLOSE_RECEIVE (R351) -/
  | closeReceive (src q epoch : Nat)
  /-- FLIT_RECEIVE (R412) -/
  | flitReceive (port : Fin 24) (kind seq ack : Nat) (enc : Bool) (body : FlitBody) (slot : Bool)
  /-- NAK_RECEIVE (R412) -/
  | nakReceive (port : Fin 24) (seq : Nat)
  /-- RETRY_BUFFER_RESEND (R412) -/
  | retryBufferResend (port : Fin 24)
  /-- LINK_DEATH (R412) -/
  | linkDeath (port : Fin 24)
  /-- LINK_TRAINED (R412) -/
  | linkTrained (port : Fin 24)
  /-- KEY_MARKER_RECEIVE (R414) -/
  | keyMarkerReceive (port : Fin 24)
  /-- KEY_LOAD (R413) -/
  | keyLoad (port : Fin 24) (slot : LinkKey)
  /-- LKCTL_SWITCH (R414) -/
  | lkctlSwitch (port : Fin 24)
  /-- KEYLIM_REACHED (R414) -/
  | keylimReached (port : Fin 24)
  /-- FRTLOAD (R348) -/
  | frtload
  /-- FLINKDN (R349) -/
  | flinkdn (ports : BitVec 24)
  /-- LAUNCH_ARRIVAL (R313) -/
  | launchArrival (fn q tail : Nat) (slots : List (List (BitVec 8)))
  /-- FIRMWARE_BIND (R317) -/
  | firmwareBind (q num : Nat) (gangs : Nat) (cells : List Nat)
  /-- ARMED_WITHDRAW (R318) -/
  | armedWithdraw (q : Nat)
  /-- TASK_RETIRE (R14) -/
  | taskRetire (cell : Nat)
  /-- LAUNCH_END (R320) -/
  | launchEnd (q num : Nat)
  /-- QSHEAD_WRITE (R320) -/
  | qsheadWrite (fn q v : Nat)
  /-- SYNCADD_WRITE (R314) -/
  | syncaddWrite (ctx index n : Nat)
  /-- LCTL_KILL (R324) -/
  | lctlKill (fn q num : Nat)
  /-- LCTL_PREEMPT (R324) -/
  | lctlPreempt (fn q num : Nat)
  /-- LCTL_RELEASE (R324) -/
  | lctlRelease (fn q num : Nat)
  /-- PREEMPT_REQUEST (R323) -/
  | preemptRequest (q num : Nat)
  /-- PREEMPT_SAVE (R323) -/
  | preemptSave (q num : Nat)
  /-- QUAD_GATE (R22) -/
  | quadGate (quad : Nat)
  /-- QUAD_WAKE_COMPLETE (R22) -/
  | quadWakeComplete (quad : Nat)
  /-- UOP_RESULT_LAND (R338) -/
  | uopResultLand
  /-- DRAM_READ_CORRECTED (R397) -/
  | dramReadCorrected (addr symbol stack pc cell eng : Nat)
  /-- DRAM_READ_UNCORRECTABLE (R397) -/
  | dramReadUncorrectable (addr symbol stack pc cell eng : Nat)
  /-- DRAM_PARITY_ERROR (R398) -/
  | dramParityError (addr stack pc lane retry cell eng : Nat)
  /-- LANE_COUNT_DECAY (R398) -/
  | laneCountDecay (stack pc lane : Nat)
  /-- SRAM_CORRECTED (R399) -/
  | sramCorrected (kind index : Nat)
  /-- SRAM_UNCORRECTABLE (R399) -/
  | sramUncorrectable (kind index : Nat)
  /-- SCRUB_READ (R400) -/
  | scrubRead (at_ : DramSector) (symbol : Nat) (found : ScrubFound) (last : Bool)
  /-- EB_CLR (R393) -/
  | ebClr (bank : Fin 16)
  /-- EB_CLRCNT (R393) -/
  | ebClrcnt (bank : Fin 16)
  /-- PAGE_CAPTURE (R404) -/
  | pageCapture (ctx : Nat) (claim : CaptureClaim)
  /-- CAPTURE_COMPLETE (R404) -/
  | captureComplete (ctx page : Nat) (ok : Bool)
  /-- SWEEP_END (R405) -/
  | sweepEnd (ctx : Nat)
  /-- HOST_BAR2_ACCESS (R415) -/
  | hostBar2Access (write : Bool) (addr : Nat) (data : List (BitVec 8))
  /-- POWER_ON (R418) -/
  | powerOn (failPhase : Nat)
  /-- BOOTCTL_COLD (R418) -/
  | bootctlCold (failPhase : Nat)
  /-- BOOTCTL_WARM (R418) -/
  | bootctlWarm (failPhase : Nat) (recordVerifies : Bool)
  /-- VOLTAGE_STEP (R420) -/
  | voltageStep (quad : Nat) (up : Bool)
  /-- CLOCK_STRETCH (R420) -/
  | clockStretch
  /-- CONTEXT_DEPARTURE (R291) -/
  | contextDeparture (ctx : Nat)
  /-- FIRMWARE_ARM (R318) -/
  | firmwareArm (q : Nat) (header : List (BitVec 8)) (gangs : Nat) (cells : List Nat)
  /-- REEVE_RESULT_LAND (R77) -/
  | reeveResultLand (c : Fin 4)
  /-- PCIE_ERROR (R390) -/
  | pcieError (addr info : BitVec 64)
  /-- INTERNAL_ERROR (R390) -/
  | internalError (info : BitVec 64)
  /-- VNOP (R147) -/
  | vnop (f : VWord)
  /-- VHALT (R147) -/
  | vhalt (f : VWord)
  /-- VBR (R147) -/
  | vbr (f : VWord)
  /-- VBRZ (R147) -/
  | vbrz (f : VWord)
  /-- VCALL (R148) -/
  | vcall (f : VWord)
  /-- VRET (R148) -/
  | vret (f : VWord)
  /-- VLOOP (R252) -/
  | vloop (f : VWord)
  /-- VLEXIT_D (R255) -/
  | vlexitD (f : VWord)
  /-- VLEXIT_I (R255) -/
  | vlexitI (f : VWord)
  /-- VWAIT (R149) -/
  | vwait (f : VWord)
  /-- VSIG (R149) -/
  | vsig (f : VWord)
  /-- VRDV (R149) -/
  | vrdv (f : VWord)
  /-- VSEG_OPEN (R149) -/
  | vsegOpen (f : VWord)
  /-- VSEG_CLOSE (R262) -/
  | vsegClose (f : VWord)
  /-- VTRAP (R149) -/
  | vtrap (f : VWord)
  /-- VPPT (R149) -/
  | vppt (f : VWord)
  /-- VQALIGN (R150) -/
  | vqalign (f : VWord)
  /-- VFENCE (R150) -/
  | vfence (f : VWord)
  /-- XADD (R151) -/
  | xadd (f : VWord)
  /-- XSUB (R151) -/
  | xsub (f : VWord)
  /-- XMUL (R151) -/
  | xmul (f : VWord)
  /-- XSHL (R151) -/
  | xshl (f : VWord)
  /-- XSHRA (R151) -/
  | xshra (f : VWord)
  /-- XAND (R151) -/
  | xand (f : VWord)
  /-- XIOR (R151) -/
  | xior (f : VWord)
  /-- XLIMM (R151) -/
  | xlimm (f : VWord)
  /-- XLIMM_SHIFT (R151) -/
  | xlimmShift (f : VWord)
  /-- XGET (R151) -/
  | xget (f : VWord)
  /-- XPUT (R151) -/
  | xput (f : VWord)
  /-- XFSR (R152) -/
  | xfsr (f : VWord)
  /-- XTSR (R152) -/
  | xtsr (f : VWord)
  /-- XCMP (R151) -/
  | xcmp (f : VWord)
  /-- VADD (R120) -/
  | vadd (f : VWord)
  /-- VSUB (R120) -/
  | vsub (f : VWord)
  /-- VMUL (R120) -/
  | vmul (f : VWord)
  /-- VFMA (R120) -/
  | vfma (f : VWord)
  /-- VFMS (R120) -/
  | vfms (f : VWord)
  /-- VFNMA (R120) -/
  | vfnma (f : VWord)
  /-- VMIN (R121) -/
  | vmin (f : VWord)
  /-- VMAX (R121) -/
  | vmax (f : VWord)
  /-- VABS (R122) -/
  | vabs (f : VWord)
  /-- VNEG (R122) -/
  | vneg (f : VWord)
  /-- VCPYS (R122) -/
  | vcpys (f : VWord)
  /-- VCMPEQ (R128) -/
  | vcmpeq (f : VWord)
  /-- VCMPLT (R128) -/
  | vcmplt (f : VWord)
  /-- VCMPLE (R128) -/
  | vcmple (f : VWord)
  /-- VCMPNE (R128) -/
  | vcmpne (f : VWord)
  /-- VCMPUN (R128) -/
  | vcmpun (f : VWord)
  /-- VSEL (R129) -/
  | vsel (f : VWord)
  /-- VRND (R123) -/
  | vrnd (f : VWord)
  /-- VCVT (R124) -/
  | vcvt (f : VWord)
  /-- VDOT (R125) -/
  | vdot (f : VWord)
  /-- VSCALE (R126) -/
  | vscale (f : VWord)
  /-- VEXPO (R126) -/
  | vexpo (f : VWord)
  /-- VCLAMP (R127) -/
  | vclamp (f : VWord)
  /-- VDIV (R120) -/
  | vdiv (f : VWord)
  /-- VSQRT (R120) -/
  | vsqrt (f : VWord)
  /-- VIADD (R130) -/
  | viadd (f : VWord)
  /-- VISUB (R130) -/
  | visub (f : VWord)
  /-- VIMUL (R130) -/
  | vimul (f : VWord)
  /-- VIMAD (R130) -/
  | vimad (f : VWord)
  /-- VAND (R131) -/
  | vand (f : VWord)
  /-- VIOR (R131) -/
  | vior (f : VWord)
  /-- VXOR (R131) -/
  | vxor (f : VWord)
  /-- VSHL (R132) -/
  | vshl (f : VWord)
  /-- VSHR (R132) -/
  | vshr (f : VWord)
  /-- VSHRA (R132) -/
  | vshra (f : VWord)
  /-- VPOPC (R131) -/
  | vpopc (f : VWord)
  /-- VCLZ (R131) -/
  | vclz (f : VWord)
  /-- VIABS (R130) -/
  | viabs (f : VWord)
  /-- VADDS (R130) -/
  | vadds (f : VWord)
  /-- VSUBS (R130) -/
  | vsubs (f : VWord)
  /-- VBSEL (R131) -/
  | vbsel (f : VWord)
  /-- VEXP2_F (R135) -/
  | vexp2F (f : VWord)
  /-- VEXP2_R (R135) -/
  | vexp2R (f : VWord)
  /-- VLOG2_F (R135) -/
  | vlog2F (f : VWord)
  /-- VLOG2_R (R135) -/
  | vlog2R (f : VWord)
  /-- VRCP_F (R135) -/
  | vrcpF (f : VWord)
  /-- VRCP_R (R135) -/
  | vrcpR (f : VWord)
  /-- VRSQ_F (R135) -/
  | vrsqF (f : VWord)
  /-- VRSQ_R (R135) -/
  | vrsqR (f : VWord)
  /-- VSINPI_F (R135) -/
  | vsinpiF (f : VWord)
  /-- VSINPI_R (R135) -/
  | vsinpiR (f : VWord)
  /-- VCOSPI_F (R135) -/
  | vcospiF (f : VWord)
  /-- VCOSPI_R (R135) -/
  | vcospiR (f : VWord)
  /-- VTANH_F (R135) -/
  | vtanhF (f : VWord)
  /-- VTANH_R (R135) -/
  | vtanhR (f : VWord)
  /-- VSIGM_F (R135) -/
  | vsigmF (f : VWord)
  /-- VSIGM_R (R135) -/
  | vsigmR (f : VWord)
  /-- VMOV (R136) -/
  | vmov (f : VWord)
  /-- VBCAST (R137) -/
  | vbcast (f : VWord)
  /-- VPERM (R137) -/
  | vperm (f : VWord)
  /-- VROT (R137) -/
  | vrot (f : VWord)
  /-- VSUM (R139) -/
  | vsum (f : VWord)
  /-- VMAXR (R139) -/
  | vmaxr (f : VWord)
  /-- VAMAX (R142) -/
  | vamax (f : VWord)
  /-- VAMRD (R143) -/
  | vamrd (f : VWord)
  /-- VSCAN (R140) -/
  | vscan (f : VWord)
  /-- VCOMP (R138) -/
  | vcomp (f : VWord)
  /-- VRNG (R144) -/
  | vrng (f : VWord)
  /-- VNOISE (R144) -/
  | vnoise (f : VWord)
  /-- MPUSH (R145) -/
  | mpush (f : VWord)
  /-- MINV (R145) -/
  | minv (f : VWord)
  /-- MPOP (R145) -/
  | mpop (f : VWord)
  /-- MAND (R145) -/
  | mand (f : VWord)
  /-- MRD (R145) -/
  | mrd (f : VWord)
  /-- MSET (R145) -/
  | mset (f : VWord)
  /-- VLD (R153) -/
  | vld (f : VWord)
  /-- VST (R153) -/
  | vst (f : VWord)
  /-- VLDG (R156) -/
  | vldg (f : VWord)
  /-- VSTG (R366) -/
  | vstg (f : VWord)
  /-- VGATH (R155) -/
  | vgath (f : VWord)
  /-- VSCAT (R155) -/
  | vscat (f : VWord)
  /-- PORTCFG (R214) -/
  | portcfg (f : VWord)
  /-- PORTRST (R214) -/
  | portrst (f : VWord)
  /-- CXN (R336) -/
  | cxn (n : BitVec 4) (f : VWord)
  /-- MNOP (R182) -/
  | mnop (f : MWord)
  /-- MHALT (R182) -/
  | mhalt (f : MWord)
  /-- MBR (R182) -/
  | mbr (f : MWord)
  /-- MLOOP (R183) -/
  | mloop (f : MWord)
  /-- MWAIT (R182) -/
  | mwait (f : MWord)
  /-- MSIG (R182) -/
  | msig (f : MWord)
  /-- MRDV (R182) -/
  | mrdv (f : MWord)
  /-- MSEG_OPEN (R182) -/
  | msegOpen (f : MWord)
  /-- MSEG_CLOSE (R262) -/
  | msegClose (f : MWord)
  /-- MLOADW (R172) -/
  | mloadw (f : MWord)
  /-- MSTEP_ROW (R175) -/
  | mstepRow (f : MWord)
  /-- MSTEP_COL (R175) -/
  | mstepCol (f : MWord)
  /-- MSTEP_OUTER (R175) -/
  | mstepOuter (f : MWord)
  /-- MSTEP_SAMP (R275) -/
  | mstepSamp (f : MWord)
  /-- MOUTER (R176) -/
  | mouter (f : MWord)
  /-- MDRAIN (R180) -/
  | mdrain (f : MWord)
  /-- MSCLD (R177) -/
  | mscld (f : MWord)
  /-- MZERO (R178) -/
  | mzero (f : MWord)
  /-- MSWAP (R174) -/
  | mswap (f : MWord)
  /-- MNSET (R245) -/
  | mnset (f : MWord)
  /-- MNEST (R246) -/
  | mnest (f : MWord)
  /-- MNORM (R270) -/
  | mnorm (f : MWord)
  /-- MALIAS (R272) -/
  | malias (f : MWord)
  /-- MSAMP (R275) -/
  | msamp (f : MWord)
  /-- MSTAT (R277) -/
  | mstat (f : MWord)
  /-- UNOP (R331) -/
  | unop (f : UWord)
  /-- UADD (R332) -/
  | uadd (f : UWord)
  /-- USUB (R332) -/
  | usub (f : UWord)
  /-- UMUL (R332) -/
  | umul (f : UWord)
  /-- UFMA (R332) -/
  | ufma (f : UWord)
  /-- UFMS (R332) -/
  | ufms (f : UWord)
  /-- UFNMA (R332) -/
  | ufnma (f : UWord)
  /-- UMIN (R332) -/
  | umin (f : UWord)
  /-- UMAX (R332) -/
  | umax (f : UWord)
  /-- UABS (R332) -/
  | uabs (f : UWord)
  /-- UNEG (R332) -/
  | uneg (f : UWord)
  /-- UCPYS (R332) -/
  | ucpys (f : UWord)
  /-- UCMP (R332) -/
  | ucmp (f : UWord)
  /-- USEL (R332) -/
  | usel (f : UWord)
  /-- URND (R332) -/
  | urnd (f : UWord)
  /-- UCVT (R332) -/
  | ucvt (f : UWord)
  /-- UDOT (R332) -/
  | udot (f : UWord)
  /-- USCALE (R332) -/
  | uscale (f : UWord)
  /-- UEXPO (R332) -/
  | uexpo (f : UWord)
  /-- UCLAMP (R332) -/
  | uclamp (f : UWord)
  /-- UIADD (R332) -/
  | uiadd (f : UWord)
  /-- UISUB (R332) -/
  | uisub (f : UWord)
  /-- UIMUL (R332) -/
  | uimul (f : UWord)
  /-- UIMAD (R332) -/
  | uimad (f : UWord)
  /-- UAND (R332) -/
  | uand (f : UWord)
  /-- UIOR (R332) -/
  | uior (f : UWord)
  /-- UXOR (R332) -/
  | uxor (f : UWord)
  /-- USHL (R332) -/
  | ushl (f : UWord)
  /-- USHR (R332) -/
  | ushr (f : UWord)
  /-- USHRA (R332) -/
  | ushra (f : UWord)
  /-- UPOPC (R332) -/
  | upopc (f : UWord)
  /-- UCLZ (R332) -/
  | uclz (f : UWord)
  /-- UIABS (R332) -/
  | uiabs (f : UWord)
  /-- UADDS (R332) -/
  | uadds (f : UWord)
  /-- USUBS (R332) -/
  | usubs (f : UWord)
  /-- UBSEL (R332) -/
  | ubsel (f : UWord)
  /-- UROT (R332) -/
  | urot (f : UWord)
  /-- UBCAST (R332) -/
  | ubcast (f : UWord)
  /-- UPERM (R332) -/
  | uperm (f : UWord)
  /-- USUM (R332) -/
  | usum (f : UWord)
  /-- UMAXR (R332) -/
  | umaxr (f : UWord)
  /-- ULOOP (R333) -/
  | uloop (f : UWord)
  /-- ULEND (R333) -/
  | ulend (f : UWord)
  /-- USKIP (R333) -/
  | uskip (f : UWord)
  /-- UMPUSH (R333) -/
  | umpush (f : UWord)
  /-- UMPOP (R333) -/
  | umpop (f : UWord)
  /-- UMINV (R333) -/
  | uminv (f : UWord)
  /-- UEXP2_F (R332) -/
  | uexp2F (f : UWord)
  /-- UEXP2_R (R332) -/
  | uexp2R (f : UWord)
  /-- ULOG2_F (R332) -/
  | ulog2F (f : UWord)
  /-- ULOG2_R (R332) -/
  | ulog2R (f : UWord)
  /-- URCP_F (R332) -/
  | urcpF (f : UWord)
  /-- URCP_R (R332) -/
  | urcpR (f : UWord)
  /-- URSQ_F (R332) -/
  | ursqF (f : UWord)
  /-- URSQ_R (R332) -/
  | ursqR (f : UWord)
  /-- USINPI_F (R332) -/
  | usinpiF (f : UWord)
  /-- USINPI_R (R332) -/
  | usinpiR (f : UWord)
  /-- UCOSPI_F (R332) -/
  | ucospiF (f : UWord)
  /-- UCOSPI_R (R332) -/
  | ucospiR (f : UWord)
  /-- UTANH_F (R332) -/
  | utanhF (f : UWord)
  /-- UTANH_R (R332) -/
  | utanhR (f : UWord)
  /-- USIGM_F (R332) -/
  | usigmF (f : UWord)
  /-- USIGM_R (R332) -/
  | usigmR (f : UWord)
  deriving DecidableEq, Repr

end Sys2Proof
end

