-- ==== Sys2Proof/Machine/Legal.lean ====
section
/-! DEFINITION. Which field values make an instruction of each stream (spec/03_streams.md R52, R58 to R64, R69;
spec/05_vector_arith.md R117, R118; spec/06_vector_flow.md R133, R134, R145, R147, R151; spec/07_matrix.md R169;
spec/12_sampled.md R269; spec/17_control_store.md R328, R331). A word outside these sets is not an instruction. -/

namespace Sys2Proof.Machine

open Sys2Proof

/-- The stream and the opcode of an instruction, with the variant that shares the opcode. -/
inductive View where
  | reeve
  | vec (op sub : Nat) (f : VWord)
  | mat (op sub : Nat) (f : MWord)
  | uop (code : Nat) (f : UWord)
  | event
  deriving DecidableEq, Repr

/-- The opcode of every instruction (R55, R65, R68, R331). -/
def view : Instr → View
  | .nop _ _ => .reeve
  | .halt _ _ => .reeve
  | .wfe _ _ => .reeve
  | .trap _ _ _ => .reeve
  | .eret _ _ => .reeve
  | .segb _ _ _ => .reeve
  | .sege _ _ => .reeve
  | .replay _ _ _ => .reeve
  | .ppt _ _ _ => .reeve
  | .csload _ _ _ _ _ => .reeve
  | .add _ _ _ _ _ => .reeve
  | .sub _ _ _ _ _ => .reeve
  | .and _ _ _ _ _ => .reeve
  | .or _ _ _ _ _ => .reeve
  | .xor _ _ _ _ _ => .reeve
  | .andn _ _ _ _ _ => .reeve
  | .shl _ _ _ _ _ => .reeve
  | .shrl _ _ _ _ _ => .reeve
  | .shra _ _ _ _ _ => .reeve
  | .rotl _ _ _ _ _ => .reeve
  | .min _ _ _ _ _ => .reeve
  | .max _ _ _ _ _ => .reeve
  | .minn _ _ _ _ _ => .reeve
  | .maxn _ _ _ _ _ => .reeve
  | .cmpeq _ _ _ _ _ => .reeve
  | .cmpne _ _ _ _ _ => .reeve
  | .cmplt _ _ _ _ _ => .reeve
  | .cmpltn _ _ _ _ _ => .reeve
  | .clz _ _ _ _ => .reeve
  | .popc _ _ _ _ => .reeve
  | .sel _ _ _ _ _ => .reeve
  | .mul _ _ _ _ _ => .reeve
  | .mulh _ _ _ _ _ => .reeve
  | .mulhn _ _ _ _ _ => .reeve
  | .div _ _ _ _ _ => .reeve
  | .divn _ _ _ _ _ => .reeve
  | .rem _ _ _ _ _ => .reeve
  | .remn _ _ _ _ _ => .reeve
  | .addi _ _ _ _ _ => .reeve
  | .andi _ _ _ _ _ => .reeve
  | .ori _ _ _ _ _ => .reeve
  | .xori _ _ _ _ _ => .reeve
  | .shli _ _ _ _ _ => .reeve
  | .shrli _ _ _ _ _ => .reeve
  | .shrai _ _ _ _ _ => .reeve
  | .cmpeqi _ _ _ _ _ => .reeve
  | .cmplti _ _ _ _ _ => .reeve
  | .limm _ _ _ _ => .reeve
  | .limms _ _ _ _ => .reeve
  | .mfsr _ _ _ _ => .reeve
  | .mtsr _ _ _ _ => .reeve
  | .ldb _ _ _ _ _ => .reeve
  | .ldh _ _ _ _ _ => .reeve
  | .ldw _ _ _ _ _ => .reeve
  | .ldd _ _ _ _ _ => .reeve
  | .ldws _ _ _ _ _ => .reeve
  | .stb _ _ _ _ _ => .reeve
  | .sth _ _ _ _ _ => .reeve
  | .stw _ _ _ _ _ => .reeve
  | .std _ _ _ _ _ => .reeve
  | .stf _ _ _ _ _ => .reeve
  | .amoAdd _ _ _ _ _ _ => .reeve
  | .amoAnd _ _ _ _ _ _ => .reeve
  | .amoOr _ _ _ _ _ _ => .reeve
  | .amoXor _ _ _ _ _ _ => .reeve
  | .amoMin _ _ _ _ _ _ => .reeve
  | .amoMax _ _ _ _ _ _ => .reeve
  | .amoMinn _ _ _ _ _ _ => .reeve
  | .amoMaxn _ _ _ _ _ _ => .reeve
  | .amoSwap _ _ _ _ _ _ => .reeve
  | .cas _ _ _ _ _ _ => .reeve
  | .qalign _ _ => .reeve
  | .fenceCell _ _ => .reeve
  | .fenceQuad _ _ => .reeve
  | .fenceDie _ _ => .reeve
  | .fenceDev _ _ => .reeve
  | .fenceSys _ _ => .reeve
  | .fenceMs _ _ => .reeve
  | .br _ _ _ => .reeve
  | .beqz _ _ _ _ => .reeve
  | .bnez _ _ _ _ => .reeve
  | .bltz _ _ _ _ => .reeve
  | .bgez _ _ _ _ => .reeve
  | .call _ _ _ => .reeve
  | .jr _ _ _ => .reeve
  | .jtab _ _ _ _ _ => .reeve
  | .mark _ _ _ _ => .reeve
  | .rdvArm _ _ _ _ _ => .reeve
  | .rdvWait _ _ _ => .reeve
  | .rdvAw _ _ _ _ _ => .reeve
  | .fork _ _ _ _ _ => .reeve
  | .forkV _ _ _ _ => .reeve
  | .forkM _ _ _ _ => .reeve
  | .forkE _ _ _ => .reeve
  | .forkEV _ _ _ => .reeve
  | .forkEM _ _ _ => .reeve
  | .evsetLoad _ _ _ _ => .reeve
  | .evsetZero _ _ _ => .reeve
  | .evsetClear _ _ _ => .reeve
  | .evsetCount _ _ _ _ => .reeve
  | .job _ _ _ _ => .reeve
  | .swinit _ _ _ _ _ => .reeve
  | .swinitZ _ _ _ _ _ => .reeve
  | .swait _ _ _ _ _ => .reeve
  | .swaddCell _ _ _ _ _ => .reeve
  | .swaddQuad _ _ _ _ _ => .reeve
  | .tlook _ _ _ _ => .reeve
  | .tset _ _ _ _ _ => .reeve
  | .tinvSlot _ _ _ _ => .reeve
  | .tinvKey _ _ _ _ => .reeve
  | .tinvAll _ _ _ => .reeve
  | .ringset _ _ _ _ _ _ => .reeve
  | .ringadvP _ _ _ _ _ => .reeve
  | .ringadvC _ _ _ _ _ => .reeve
  | .csbind _ _ _ _ _ _ => .reeve
  | .csbindU _ _ _ _ => .reeve
  | .csbindR _ _ _ _ => .reeve
  | .cgrp _ _ _ _ _ => .reeve
  | .cgrpD _ _ _ _ => .reeve
  | .cgrpQ _ _ _ _ => .reeve
  | .cgrpL _ _ _ _ => .reeve
  | .cldred _ _ _ _ => .reeve
  | .crot _ _ _ _ => .reeve
  | .cpair _ _ _ _ => .reeve
  | .logapp _ _ _ _ => .reeve
  | .logappA _ _ _ _ => .reeve
  | .logpull _ _ _ _ => .reeve
  | .msupd _ _ _ _ => .reeve
  | .captS _ _ _ => .reeve
  | .captW _ _ _ _ => .reeve
  | .digest _ _ _ _ _ => .reeve
  | .digestN _ _ _ _ => .reeve
  | .vnop f => .vec 0x00 0 f
  | .vhalt f => .vec 0x01 0 f
  | .vbr f => .vec 0x02 0 f
  | .vbrz f => .vec 0x03 0 f
  | .vcall f => .vec 0x04 0 f
  | .vret f => .vec 0x05 0 f
  | .vloop f => .vec 0x06 0 f
  | .vlexitD f => .vec 0x07 0 f
  | .vlexitI f => .vec 0x07 1 f
  | .vwait f => .vec 0x08 0 f
  | .vsig f => .vec 0x09 0 f
  | .vrdv f => .vec 0x0A 0 f
  | .vsegOpen f => .vec 0x0B 0 f
  | .vsegClose f => .vec 0x0B 1 f
  | .vtrap f => .vec 0x0C 0 f
  | .vppt f => .vec 0x0D 0 f
  | .vqalign f => .vec 0x0E 0 f
  | .vfence f => .vec 0x0F 0 f
  | .xadd f => .vec 0x10 0 f
  | .xsub f => .vec 0x11 0 f
  | .xmul f => .vec 0x12 0 f
  | .xshl f => .vec 0x13 0 f
  | .xshra f => .vec 0x14 0 f
  | .xand f => .vec 0x15 0 f
  | .xior f => .vec 0x16 0 f
  | .xlimm f => .vec 0x17 0 f
  | .xlimmShift f => .vec 0x17 1 f
  | .xget f => .vec 0x18 0 f
  | .xput f => .vec 0x19 0 f
  | .xfsr f => .vec 0x1A 0 f
  | .xtsr f => .vec 0x1B 0 f
  | .xcmp f => .vec 0x1C 0 f
  | .vadd f => .vec 0x20 0 f
  | .vsub f => .vec 0x21 0 f
  | .vmul f => .vec 0x22 0 f
  | .vfma f => .vec 0x23 0 f
  | .vfms f => .vec 0x24 0 f
  | .vfnma f => .vec 0x25 0 f
  | .vmin f => .vec 0x26 0 f
  | .vmax f => .vec 0x27 0 f
  | .vabs f => .vec 0x28 0 f
  | .vneg f => .vec 0x29 0 f
  | .vcpys f => .vec 0x2A 0 f
  | .vcmpeq f => .vec 0x2B 0 f
  | .vcmplt f => .vec 0x2C 0 f
  | .vcmple f => .vec 0x2D 0 f
  | .vcmpne f => .vec 0x2E 0 f
  | .vcmpun f => .vec 0x2F 0 f
  | .vsel f => .vec 0x30 0 f
  | .vrnd f => .vec 0x31 0 f
  | .vcvt f => .vec 0x32 0 f
  | .vdot f => .vec 0x33 0 f
  | .vscale f => .vec 0x34 0 f
  | .vexpo f => .vec 0x35 0 f
  | .vclamp f => .vec 0x36 0 f
  | .vdiv f => .vec 0x37 0 f
  | .vsqrt f => .vec 0x38 0 f
  | .viadd f => .vec 0x40 0 f
  | .visub f => .vec 0x41 0 f
  | .vimul f => .vec 0x42 0 f
  | .vimad f => .vec 0x43 0 f
  | .vand f => .vec 0x44 0 f
  | .vior f => .vec 0x45 0 f
  | .vxor f => .vec 0x46 0 f
  | .vshl f => .vec 0x47 0 f
  | .vshr f => .vec 0x48 0 f
  | .vshra f => .vec 0x49 0 f
  | .vpopc f => .vec 0x4A 0 f
  | .vclz f => .vec 0x4B 0 f
  | .viabs f => .vec 0x4C 0 f
  | .vadds f => .vec 0x4D 0 f
  | .vsubs f => .vec 0x4E 0 f
  | .vbsel f => .vec 0x4F 0 f
  | .vexp2F f => .vec 0x50 0 f
  | .vexp2R f => .vec 0x51 0 f
  | .vlog2F f => .vec 0x52 0 f
  | .vlog2R f => .vec 0x53 0 f
  | .vrcpF f => .vec 0x54 0 f
  | .vrcpR f => .vec 0x55 0 f
  | .vrsqF f => .vec 0x56 0 f
  | .vrsqR f => .vec 0x57 0 f
  | .vsinpiF f => .vec 0x58 0 f
  | .vsinpiR f => .vec 0x59 0 f
  | .vcospiF f => .vec 0x5A 0 f
  | .vcospiR f => .vec 0x5B 0 f
  | .vtanhF f => .vec 0x5C 0 f
  | .vtanhR f => .vec 0x5D 0 f
  | .vsigmF f => .vec 0x5E 0 f
  | .vsigmR f => .vec 0x5F 0 f
  | .vmov f => .vec 0x60 0 f
  | .vbcast f => .vec 0x61 0 f
  | .vperm f => .vec 0x62 0 f
  | .vrot f => .vec 0x63 0 f
  | .vsum f => .vec 0x64 0 f
  | .vmaxr f => .vec 0x65 0 f
  | .vamax f => .vec 0x66 0 f
  | .vamrd f => .vec 0x67 0 f
  | .vscan f => .vec 0x68 0 f
  | .vcomp f => .vec 0x69 0 f
  | .vrng f => .vec 0x6A 0 f
  | .vnoise f => .vec 0x6B 0 f
  | .mpush f => .vec 0x70 0 f
  | .minv f => .vec 0x71 0 f
  | .mpop f => .vec 0x72 0 f
  | .mand f => .vec 0x73 0 f
  | .mrd f => .vec 0x74 0 f
  | .mset f => .vec 0x75 0 f
  | .vld f => .vec 0x78 0 f
  | .vst f => .vec 0x79 0 f
  | .vldg f => .vec 0x7A 0 f
  | .vstg f => .vec 0x7B 0 f
  | .vgath f => .vec 0x7C 0 f
  | .vscat f => .vec 0x7D 0 f
  | .portcfg f => .vec 0x7E 0 f
  | .portrst f => .vec 0x7F 0 f
  | .cxn n f => .vec (0xF0 + n.toNat) 0 f
  | .mnop f => .mat 0x00 0 f
  | .mhalt f => .mat 0x01 0 f
  | .mbr f => .mat 0x02 0 f
  | .mloop f => .mat 0x03 0 f
  | .mwait f => .mat 0x04 0 f
  | .msig f => .mat 0x05 0 f
  | .mrdv f => .mat 0x06 0 f
  | .msegOpen f => .mat 0x07 0 f
  | .msegClose f => .mat 0x07 1 f
  | .mloadw f => .mat 0x10 0 f
  | .mstepRow f => .mat 0x11 0 f
  | .mstepCol f => .mat 0x11 1 f
  | .mstepOuter f => .mat 0x11 2 f
  | .mstepSamp f => .mat 0x11 3 f
  | .mouter f => .mat 0x12 0 f
  | .mdrain f => .mat 0x13 0 f
  | .mscld f => .mat 0x14 0 f
  | .mzero f => .mat 0x15 0 f
  | .mswap f => .mat 0x1B 0 f
  | .mnset f => .mat 0x16 0 f
  | .mnest f => .mat 0x17 0 f
  | .mnorm f => .mat 0x18 0 f
  | .malias f => .mat 0x19 0 f
  | .msamp f => .mat 0x1A 0 f
  | .mstat f => .mat 0x1C 0 f
  | .unop f => .uop 0x00 f
  | .uadd f => .uop 0x01 f
  | .usub f => .uop 0x02 f
  | .umul f => .uop 0x03 f
  | .ufma f => .uop 0x04 f
  | .ufms f => .uop 0x05 f
  | .ufnma f => .uop 0x06 f
  | .umin f => .uop 0x07 f
  | .umax f => .uop 0x08 f
  | .uabs f => .uop 0x09 f
  | .uneg f => .uop 0x0A f
  | .ucpys f => .uop 0x0B f
  | .ucmp f => .uop 0x0C f
  | .usel f => .uop 0x0D f
  | .urnd f => .uop 0x0E f
  | .ucvt f => .uop 0x0F f
  | .udot f => .uop 0x10 f
  | .uscale f => .uop 0x11 f
  | .uexpo f => .uop 0x12 f
  | .uclamp f => .uop 0x13 f
  | .uiadd f => .uop 0x14 f
  | .uisub f => .uop 0x15 f
  | .uimul f => .uop 0x16 f
  | .uimad f => .uop 0x17 f
  | .uand f => .uop 0x18 f
  | .uior f => .uop 0x19 f
  | .uxor f => .uop 0x1A f
  | .ushl f => .uop 0x1B f
  | .ushr f => .uop 0x1C f
  | .ushra f => .uop 0x1D f
  | .upopc f => .uop 0x1E f
  | .uclz f => .uop 0x1F f
  | .uiabs f => .uop 0x20 f
  | .uadds f => .uop 0x21 f
  | .usubs f => .uop 0x22 f
  | .ubsel f => .uop 0x23 f
  | .urot f => .uop 0x24 f
  | .ubcast f => .uop 0x25 f
  | .uperm f => .uop 0x26 f
  | .usum f => .uop 0x27 f
  | .umaxr f => .uop 0x28 f
  | .uloop f => .uop 0x29 f
  | .ulend f => .uop 0x2A f
  | .uskip f => .uop 0x2B f
  | .umpush f => .uop 0x2C f
  | .umpop f => .uop 0x2D f
  | .uminv f => .uop 0x2E f
  | .uexp2F f => .uop 0x30 f
  | .uexp2R f => .uop 0x31 f
  | .ulog2F f => .uop 0x32 f
  | .ulog2R f => .uop 0x33 f
  | .urcpF f => .uop 0x34 f
  | .urcpR f => .uop 0x35 f
  | .ursqF f => .uop 0x36 f
  | .ursqR f => .uop 0x37 f
  | .usinpiF f => .uop 0x38 f
  | .usinpiR f => .uop 0x39 f
  | .ucospiF f => .uop 0x3A f
  | .ucospiR f => .uop 0x3B f
  | .utanhF f => .uop 0x3C f
  | .utanhR f => .uop 0x3D f
  | .usigmF f => .uop 0x3E f
  | .usigmR f => .uop 0x3F f
  | .clustergoWrite _ _ => .event
  | .preemptYield => .event
  | .preemptHoldExpiry => .event
  | .logbaseWrite _ _ => .event
  | .registerWrite _ _ _ => .event
  | .trapDelivery => .event
  | .wfeWake _ => .event
  | .loadDataReturn _ => .event
  | .globalResponseReturn _ _ _ _ _ _ _ => .event
  | .walkComplete _ => .event
  | .faultQueueRoom => .event
  | .pfresRetry _ => .event
  | .pfresInvalid _ => .event
  | .tlbinvPage _ _ => .event
  | .tlbinvContext _ => .event
  | .tlbinvAll => .event
  | .tlbinvComplete => .event
  | .vectorResultLand => .event
  | .vectorLoadLaneArrive _ => .event
  | .vectorStoreLand => .event
  | .portElementFetch _ => .event
  | .portElementWrite _ => .event
  | .matrixWordComplete => .event
  | .matrixWordStart => .event
  | .rdvWaitRelease _ => .event
  | .syncWaitRelease _ => .event
  | .sluicePulse => .event
  | .sluiceTermFire _ => .event
  | .sluiceVectorResume => .event
  | .sluiceMatrixResume => .event
  | .sluiceJobRelease _ => .event
  | .sluiceCollRelease => .event
  | .sluiceWake _ => .event
  | .jobStart _ => .event
  | .jobChunkComplete _ => .event
  | .jobComplete _ => .event
  | .collCmdStart _ => .event
  | .collCmdComplete _ => .event
  | .presenceRequestReceive _ _ _ _ _ _ _ => .event
  | .presenceReportReceive _ _ _ _ _ _ _ _ => .event
  | .collVerdictReceive _ _ _ _ => .event
  | .collDataChunkReceive _ _ _ _ _ _ => .event
  | .collFaultNotice _ _ _ _ => .event
  | .crotBlockReceive _ _ _ _ => .event
  | .crotAbortReceive _ _ _ _ => .event
  | .logReceive _ _ _ => .event
  | .logpullRequestReceive _ _ _ _ => .event
  | .logpullAnswerReceive _ _ _ _ _ _ => .event
  | .mendersCmdStart _ => .event
  | .mendersChunk _ => .event
  | .mendersCmdComplete _ => .event
  | .requestPacketArrive _ _ _ _ _ _ _ _ _ _ _ => .event
  | .packetForward _ _ _ _ _ _ _ => .event
  | .packetAckReceive _ _ _ _ _ _ => .event
  | .rerouteNotice _ _ _ _ _ => .event
  | .unreachableNotice _ _ _ _ _ => .event
  | .busyNotice _ _ _ _ _ => .event
  | .cancelReceive _ _ _ _ _ => .event
  | .closeReceive _ _ _ => .event
  | .flitReceive _ _ _ _ _ _ _ => .event
  | .nakReceive _ _ => .event
  | .retryBufferResend _ => .event
  | .linkDeath _ => .event
  | .linkTrained _ => .event
  | .keyMarkerReceive _ => .event
  | .keyLoad _ _ => .event
  | .lkctlSwitch _ => .event
  | .keylimReached _ => .event
  | .frtload => .event
  | .flinkdn _ => .event
  | .launchArrival _ _ _ _ => .event
  | .firmwareBind _ _ _ _ => .event
  | .armedWithdraw _ => .event
  | .taskRetire _ => .event
  | .launchEnd _ _ => .event
  | .qsheadWrite _ _ _ => .event
  | .syncaddWrite _ _ _ => .event
  | .lctlKill _ _ _ => .event
  | .lctlPreempt _ _ _ => .event
  | .lctlRelease _ _ _ => .event
  | .preemptRequest _ _ => .event
  | .preemptSave _ _ => .event
  | .quadGate _ => .event
  | .quadWakeComplete _ => .event
  | .uopResultLand => .event
  | .dramReadCorrected _ _ _ _ _ _ => .event
  | .dramReadUncorrectable _ _ _ _ _ _ => .event
  | .dramParityError _ _ _ _ _ _ _ => .event
  | .laneCountDecay _ _ _ => .event
  | .sramCorrected _ _ => .event
  | .sramUncorrectable _ _ => .event
  | .scrubRead _ _ _ _ => .event
  | .ebClr _ => .event
  | .ebClrcnt _ => .event
  | .pageCapture _ _ => .event
  | .captureComplete _ _ _ => .event
  | .sweepEnd _ => .event
  | .hostBar2Access _ _ _ => .event
  | .powerOn _ => .event
  | .bootctlCold _ => .event
  | .bootctlWarm _ _ => .event
  | .voltageStep _ _ => .event
  | .clockStretch => .event
  | .contextDeparture _ => .event
  | .firmwareArm _ _ _ _ => .event
  | .reeveResultLand _ => .event
  | .pcieError _ _ => .event
  | .internalError _ => .event

/-! ### Vector words -/

/-- What a field of a vector word may hold (R117, R133, R145, R147, R151). -/
inductive Field where
  /-- 24 zero bits -/
  | none
  /-- a destination: a tile or a write port -/
  | dst
  /-- a tile that is read and written -/
  | tile
  /-- a tile whose low bits hold a source type -/
  | typed
  /-- a source: tile, read port, scalar or special -/
  | src
  /-- a tile or a read port -/
  | lanes
  /-- an x register -/
  | x
  /-- an immediate -/
  | imm
  /-- an x register or an immediate -/
  | xImm
  /-- checked by the word's own rule -/
  | own
  deriving DecidableEq, Repr

/-- Whether an operand stands in a field of a kind (R60, R64). -/
def fieldOk (k : Field) (o : Operand) : Bool :=
  match k, o with
  | .none, o => decide (o = Operand.unused)
  | .dst, .tile _ _ _ _ _ low => decide (low = 0)
  | .dst, .port p => decide (6 ≤ p.toNat)
  | .tile, .tile _ _ _ _ _ low => decide (low = 0)
  | .typed, .tile _ _ _ _ _ _ => true
  | .src, .tile _ _ _ _ _ low => decide (low = 0)
  | .src, .port p => decide (p.toNat < 6)
  | .src, _ => true
  | .lanes, .tile _ _ _ _ _ low => decide (low = 0)
  | .lanes, .port p => decide (p.toNat < 6)
  | .x, .xreg _ => true
  | .imm, .imm _ => true
  | .xImm, .xreg _ => true
  | .xImm, .imm _ => true
  | .own, _ => true
  | _, _ => false

/-- The accepted types and field kinds of an opcode, and whether it may repeat, be predicated by the mask, and carry X. -/
structure VShape where
  types : List Nat
  d : Field
  a : Field
  b : Field
  rep : Bool
  m : Bool
  x : Bool

/-- FL of R117. -/
def tFL : List Nat := [0, 10, 1, 2]

/-- IN of R117. -/
def tIN : List Nat := [3, 4, 5, 6, 7, 8]

/-- f32 and q. -/
def tF32 : List Nat := [0, 10]

/-- "any" of R133. -/
def tAny : List Nat := [0, 1, 2, 3, 4, 5, 6, 7, 8, 9, 10]

/-- The shape of an arithmetic or movement word. -/
def arith (types : List Nat) (d a b : Field) : VShape := { types, d, a, b, rep := true, m := true, x := true }

/-- The shape of a control, x-register or mask-stack word (R134). -/
def plain (d a b : Field) (x : Bool) : VShape := { types := [0], d, a, b, rep := false, m := false, x }

/-- The shape of each vector opcode; none where it is reserved (R65). -/
def vShape (op : Nat) : Option VShape :=
  match op with
  | 0x00 => some (plain .none .none .none true)
  | 0x01 => some (plain .none .none .none true)
  | 0x02 => some (plain .none .none .imm true)
  | 0x03 => some (plain .none .none .imm true)
  | 0x04 => some (plain .none .none .imm true)
  | 0x05 => some (plain .none .none .none true)
  | 0x06 => some (plain .own .x .imm true)
  | 0x07 => some (plain .none .own .imm true)
  | 0x08 => some (plain .none .x .xImm false)
  | 0x09 => some (plain .none .none .imm false)
  | 0x0A => some (plain .none .none .imm false)
  | 0x0B => some (plain .none .own .imm false)
  | 0x0C => some (plain .none .none .imm true)
  | 0x0D => some (plain .none .none .none false)
  | 0x0E => some (plain .none .none .none false)
  | 0x0F => some (plain .none .none .imm false)
  | 0x10 => some (plain .x .x .xImm true)
  | 0x11 => some (plain .x .x .xImm true)
  | 0x12 => some (plain .x .x .xImm true)
  | 0x13 => some (plain .x .x .xImm true)
  | 0x14 => some (plain .x .x .xImm true)
  | 0x15 => some (plain .x .x .xImm true)
  | 0x16 => some (plain .x .x .xImm true)
  | 0x17 => some (plain .x .own .imm true)
  | 0x18 => some (plain .x .lanes .xImm true)
  | 0x19 => some (plain .tile .x .xImm true)
  | 0x1A => some (plain .x .none .imm true)
  | 0x1B => some (plain .imm .x .none true)
  | 0x1C => some { plain .x .x .xImm true with types := [0, 1, 2, 3] }
  | 0x20 => some (arith tFL .dst .src .src)
  | 0x21 => some (arith tFL .dst .src .src)
  | 0x22 => some (arith tFL .dst .src .src)
  | 0x23 => some (arith tFL .tile .src .src)
  | 0x24 => some (arith tFL .tile .src .src)
  | 0x25 => some (arith tFL .tile .src .src)
  | 0x26 => some (arith (tFL ++ tIN) .dst .src .src)
  | 0x27 => some (arith (tFL ++ tIN) .dst .src .src)
  | 0x28 => some (arith tFL .dst .src .none)
  | 0x29 => some (arith tFL .dst .src .none)
  | 0x2A => some (arith tFL .dst .src .src)
  | 0x2B => some (arith (tFL ++ tIN ++ [9]) .dst .src .src)
  | 0x2C => some (arith (tFL ++ tIN) .dst .src .src)
  | 0x2D => some (arith (tFL ++ tIN) .dst .src .src)
  | 0x2E => some (arith (tFL ++ tIN ++ [9]) .dst .src .src)
  | 0x2F => some (arith tFL .dst .src .src)
  | 0x30 => some (arith (tFL ++ tIN ++ [9]) .dst .src .src)
  | 0x31 => some (arith tFL .dst .src .imm)
  | 0x32 => some (arith ([0, 1, 2] ++ tIN) .dst .typed .xImm)
  | 0x33 => some (arith [1, 2, 5, 6, 7, 8] .tile .src .src)
  | 0x34 => some (arith tF32 .dst .src .src)
  | 0x35 => some (arith tF32 .dst .src .none)
  | 0x36 => some (arith (tFL ++ tIN) .tile .src .src)
  | 0x37 => some (arith tF32 .dst .src .src)
  | 0x38 => some (arith tF32 .dst .src .none)
  | 0x40 => some (arith tIN .dst .src .src)
  | 0x41 => some (arith tIN .dst .src .src)
  | 0x42 => some (arith tIN .dst .src .src)
  | 0x43 => some (arith tIN .tile .src .src)
  | 0x44 => some (arith (tIN ++ [9]) .dst .src .src)
  | 0x45 => some (arith (tIN ++ [9]) .dst .src .src)
  | 0x46 => some (arith (tIN ++ [9]) .dst .src .src)
  | 0x47 => some (arith (tIN ++ [9]) .dst .src .src)
  | 0x48 => some (arith (tIN ++ [9]) .dst .src .src)
  | 0x49 => some (arith (tIN ++ [9]) .dst .src .src)
  | 0x4A => some (arith (tIN ++ [9]) .dst .src .none)
  | 0x4B => some (arith (tIN ++ [9]) .dst .src .none)
  | 0x4C => some (arith [3, 5, 7] .dst .src .none)
  | 0x4D => some (arith tIN .dst .src .src)
  | 0x4E => some (arith tIN .dst .src .src)
  | 0x4F => some (arith (tIN ++ [9]) .tile .src .src)
  | 0x60 => some (arith (tAny ++ [11]) .dst .own .none)
  | 0x61 => some (arith tAny .dst .src .xImm)
  | 0x62 => some (arith tAny .dst .src .src)
  | 0x63 => some (arith tAny .dst .src .xImm)
  | 0x64 => some (arith [0, 10, 3, 4] .dst .src .none)
  | 0x65 => some (arith [0, 10, 3, 4] .dst .src .none)
  | 0x66 => some (arith tFL .imm .src .none)
  | 0x67 => some { arith [0] .dst .imm .none with rep := false }
  | 0x68 => some (arith [0, 10, 3, 4] .dst .src .none)
  | 0x69 => some (arith tAny .dst .src .src)
  | 0x6A => some (arith [4, 0] .dst .src .x)
  | 0x6B => some (arith [3, 0] .dst .src .x)
  | 0x70 => some (plain .none .src .none true)
  | 0x71 => some (plain .none .none .none true)
  | 0x72 => some (plain .none .none .none true)
  | 0x73 => some (plain .none .src .none true)
  | 0x74 => some (plain .x .imm .none true)
  | 0x75 => some (plain .none .x .imm true)
  | 0x78 => some (arith tAny .dst .x .imm)
  | 0x79 => some (arith tAny .tile .x .imm)
  | 0x7A => some (arith tAny .dst .x .imm)
  | 0x7B => some (arith tAny .tile .x .imm)
  | 0x7C => some (arith tAny .dst .x .src)
  | 0x7D => some (arith tAny .tile .x .src)
  | 0x7E => some (plain .own .x .imm true)
  | 0x7F => some (plain .own .none .imm true)
  | _ =>
    if 0x50 ≤ op ∧ op ≤ 0x5F then some (arith tF32 .dst .src .none)
    else if 0xF0 ≤ op ∧ op ≤ 0xFF then some { plain .dst .src .src false with m := true }
    else none

/-- Elements per lane of a type code (R30, R59). -/
def perLane (t : Nat) : Nat :=
  if t = 1 ∨ t = 2 ∨ t = 5 ∨ t = 6 then 2 else if t = 7 ∨ t = 8 then 4 else 1

/-- The IMM21 of an immediate operand as an unsigned number, 0 for other operands. -/
def immNat : Operand → Nat
  | .imm v => v.toNat
  | _ => 0

/-- The source type of a typed tile operand; T for an operand that has no place for one (log 22). -/
def sourceType (t : Nat) : Operand → Nat
  | .tile _ _ _ _ _ low => low.toNat
  | _ => t

/-- Whether an operand names an even tile, as an a40 operand must (R136). -/
def evenTile : Operand → Bool
  | .tile _ t _ _ _ _ => decide (t.toNat % 2 = 0)
  | _ => false

/-- The rules of single words beyond their shape (R123, R124, R134, R136, R143 to R147, R151, R214, R252, R255). -/
def vOwn (op sub : Nat) (f : VWord) : Bool :=
  let t := f.t.toNat
  let bi := immNat f.b
  match op with
  | 0x06 =>
    decide (bi / 16 % 2 = 0) && decide (bi / 32 ≠ 0) &&
      (match f.d with
       | .special id => decide (id = 3)
       | .xreg _ => decide (bi / 8 % 2 = 1)
       | _ => false)
  | 0x07 =>
    decide (bi = sub) && decide (sub ≤ 1) &&
      (match f.a with
       | .special id => decide (id = 2)
       | .xreg _ => true
       | _ => false)
  | 0x09 => decide (bi < 256)
  | 0x0A => decide (bi < 8)
  | 0x0B =>
    decide (bi = sub) && decide (sub ≤ 1) &&
      (match f.a with
       | .special id => decide (id = 3) && decide (sub = 1)
       | .xreg _ => decide (sub = 0)
       | _ => false)
  | 0x0C => decide (bi < 32)
  | 0x0F => decide (bi < 6)
  | 0x17 =>
    (match f.a with
     | .special id => decide (id = 3) && decide (sub = 0)
     | .xreg _ => decide (f.a = f.d) && decide (sub = 1)
     | _ => false)
  | 0x1B => decide (0x100 ≤ immNat f.d) && decide (immNat f.d < 0x200)
  | 0x31 => decide (bi < 4)
  | 0x32 =>
    let s := sourceType t f.a
    let ns := perLane s
    let nd := perLane t
    let isTile := match f.d with
      | .tile _ _ _ _ _ _ => true
      | _ => false
    decide (s ≤ 8) && (decide (nd ≤ ns) || isTile) &&
      (match f.b with
       | .imm v =>
         decide (v.toNat < 16) && decide (v.toNat % 4 < 2) &&
           decide (v.toNat / 4 < (if nd > ns then nd / ns else ns / nd))
       | _ => true)
  | 0x60 =>
    let s := sourceType t f.a
    let low5 := fieldOk .src (match f.a with
      | .tile a b c d e _ => .tile a b c d e 0
      | o => o)
    low5 &&
      (if t = 11 then evenTile f.d && ((decide (s = 11) && evenTile f.a) || decide (s = 0)) &&
          (match f.a with
           | .tile _ _ _ _ _ _ => true
           | _ => false)
       else if s = 11 then decide (t = 0) && evenTile f.a
       else decide (s = t))
  | 0x61 => (match f.b with
     | .imm v => decide (v.toNat < 64)
     | _ => true)
  | 0x63 => (match f.b with
     | .imm v => decide (-63 ≤ v.toInt) && decide (v.toInt ≤ 63)
     | _ => true)
  | 0x66 => decide (immNat f.d < 8)
  | 0x67 => decide (immNat f.a < 32)
  | 0x74 => decide (immNat f.a < 2)
  | 0x75 => decide (bi < 2)
  | 0x7E => decide (bi < 16) && decide (bi / 2 % 4 ≠ 3) &&
      (match f.d with
       | .port _ => true
       | _ => false)
  | 0x7F => decide (bi < 2) &&
      (match f.d with
       | .port _ => true
       | _ => false)
  | _ => decide (sub = 0)

/-- Whether a vector word is an instruction (R69, R118, R134, R190). -/
def vLegal (op sub : Nat) (f : VWord) : Bool :=
  match vShape op with
  | none => false
  | some h =>
    h.types.contains f.t.toNat && fieldOk h.d f.d && fieldOk h.a f.a && fieldOk h.b f.b &&
      (h.rep || decide (f.rep = 0)) && (h.m || !f.m) && (h.x || !f.x) && (f.s || decide (f.stg = 0)) && vOwn op sub f

/-! ### Matrix words -/

/-- Which fields a matrix word uses: FLG mask, then RA, RB, FDA, FDB, ACC, CNT, SCO, NST, PRT, TOR, TOC, TID, AUX
(R169, R245, R246, R269). -/
structure MUse where
  flg : Nat
  ra : Bool
  rb : Bool
  fda : Bool
  fdb : Bool
  acc : Bool
  cnt : Bool
  sco : Bool
  nst : Bool
  prt : Bool
  org : Bool
  tid : Bool
  aux : Bool

/-- No field used. -/
def mUse0 : MUse :=
  { flg := 0, ra := false, rb := false, fda := false, fdb := false, acc := false, cnt := false, sco := false, nst := false,
    prt := false, org := false, tid := false, aux := false }

/-- The use of a step in each mode (R169, R269). -/
def mStepUse (mode : Nat) (nst ext : Bool) : MUse :=
  match mode with
  | 2 => { mUse0 with flg := 5, ra := true, rb := true, fda := true, fdb := true, acc := true, cnt := true, nst }
  | 3 =>
    if ext then { mUse0 with flg := 0x15, ra := true, rb := true, acc := true, cnt := true, aux := true, nst }
    else { mUse0 with flg := 0x15, rb := true, acc := true, cnt := true, prt := true, org := true, tid := true,
                      aux := true, nst }
  | _ => { mUse0 with flg := 7, ra := true, rb := true, fda := true, acc := true, cnt := true, sco := true, nst }

/-- The use of each matrix opcode; none where it is reserved (R68). -/
def mUseOf (op : Nat) (f : MWord) : Option MUse :=
  let mode := f.rb.toNat / 4
  let ext := f.flg.getLsbD 4
  match op with
  | 0x00 => some mUse0
  | 0x01 => some mUse0
  | 0x02 => some { mUse0 with aux := true }
  | 0x03 => some { mUse0 with cnt := true, aux := true }
  | 0x04 => some { mUse0 with org := true, aux := true }
  | 0x05 => some { mUse0 with aux := true }
  | 0x06 => some { mUse0 with aux := true }
  | 0x07 => some { mUse0 with org := true, aux := true }
  | 0x10 => some { mUse0 with flg := 2, ra := true, fda := true, fdb := true, cnt := true, sco := true, prt := true,
                              org := true, tid := true, aux := true }
  | 0x11 => some (mStepUse mode false ext)
  | 0x12 => some { mUse0 with flg := 5, ra := true, rb := true, fda := true, fdb := true, acc := true, cnt := true }
  | 0x13 => some { mUse0 with flg := 8, ra := true, rb := true, fda := true, acc := true, cnt := true, sco := true,
                              aux := true }
  | 0x14 => some { mUse0 with cnt := true, sco := true, aux := true }
  | 0x15 => some { mUse0 with acc := true, cnt := true }
  | 0x16 => some { mUse0 with nst := true, aux := true }
  | 0x17 => some (mStepUse mode true ext)
  | 0x18 => some { mUse0 with fda := true, fdb := true, org := true, aux := true }
  | 0x19 => some mUse0
  | 0x1A =>
    if ext then some { mUse0 with flg := 0x15, rb := true, acc := true, cnt := true, aux := true }
    else some { mUse0 with flg := 0x15, acc := true, cnt := true, prt := true, org := true, tid := true, aux := true }
  | 0x1B => some mUse0
  | 0x1C => some { mUse0 with aux := true }
  | _ => none

/-- Whether a matrix word is an instruction (R69, R169, R269). -/
def mLegal (op sub : Nat) (f : MWord) : Bool :=
  match mUseOf op f with
  | none => false
  | some u =>
    let z {n : Nat} (used : Bool) (v : BitVec n) : Bool := used || decide (v = 0)
    decide (f.flg.toNat &&& (255 - u.flg) = 0) && z u.ra f.ra && z u.rb f.rb && z u.fda f.fda && z u.fdb f.fdb &&
      z u.acc f.acc && z u.cnt f.cnt && z u.sco f.sco && z u.nst f.nst && z u.prt f.prt && z u.org f.tor &&
      z (u.org && !decide (op = 0x04)) f.toc && z u.tid f.tid && z u.aux f.aux && decide (f.prt.toNat % 4 ≠ 3) &&
      (match op with
       | 0x05 => decide (f.aux.toNat < 256)
       | 0x06 => decide (f.aux.toNat < 8)
       | 0x07 => decide (f.aux.toNat = sub) && decide (sub ≤ 1)
       | 0x10 => decide (f.prt.toNat % 4 ≠ 0) || decide (f.prt = 0)
       | 0x11 => decide (f.rb.toNat / 4 = sub) && decide (f.rb.toNat % 4 = 0) &&
           (decide (sub ≠ 3) || decide (f.prt.toNat % 32 = 0))
       | 0x17 => decide (sub = 0) && decide (f.rb.toNat % 4 = 0) &&
           (decide (f.rb.toNat / 4 ≠ 3) || decide (f.prt.toNat % 32 = 0)) 
       | 0x1A => decide (sub = 0) && decide (f.prt.toNat % 32 = 0)
       | _ => decide (sub = 0))

/-! ### Micro-op words -/

/-- The types and the used sources and immediate bits of a micro-op: FL without q (R331). -/
structure UShape where
  types : List Nat
  dst : Bool
  srcs : Nat
  imm : Nat → Nat → Bool

/-- FL of R331: f32, bf16x2 and h16x2. -/
def uFL : List Nat := [0, 1, 2]

/-- "any" of R331. -/
def uAny : List Nat := [0, 1, 2, 3, 4, 5, 6, 7, 8, 9]

/-- No immediate. -/
def immZero : Nat → Nat → Bool := fun _ v => decide (v = 0)

/-- The immediate of UCVT: source type, rounding and part (R124, R331). -/
def cvtImm (t v : Nat) : Bool :=
  let ns := perLane (v % 16)
  let nd := perLane t
  decide (v < 256) && decide (v % 16 ≤ 8) && decide (v / 16 % 4 < 2) &&
    decide (v / 64 < (if nd > ns then nd / ns else ns / nd))

/-- The shape of each computing micro-op; none for a control micro-op or a reserved code (R331). -/
def uShape (code : Nat) : Option UShape :=
  let mk (types : List Nat) (srcs : Nat) : UShape := { types, dst := true, srcs, imm := immZero }
  match code with
  | 0x00 => some { types := [0], dst := false, srcs := 0, imm := immZero }
  | 0x01 => some (mk uFL 2)
  | 0x02 => some (mk uFL 2)
  | 0x03 => some (mk uFL 2)
  | 0x04 => some (mk uFL 3)
  | 0x05 => some (mk uFL 3)
  | 0x06 => some (mk uFL 3)
  | 0x07 => some (mk (uFL ++ tIN) 2)
  | 0x08 => some (mk (uFL ++ tIN) 2)
  | 0x09 => some (mk uFL 1)
  | 0x0A => some (mk uFL 1)
  | 0x0B => some (mk uFL 2)
  | 0x0C => some { mk (uFL ++ tIN ++ [9]) 2 with imm := fun t v => decide (v < 4) || (decide (v = 4) && uFL.contains t) }
  | 0x0D => some (mk (uFL ++ tIN ++ [9]) 2)
  | 0x0E => some { mk uFL 1 with imm := fun _ v => decide (v < 4) }
  | 0x0F => some { mk ([0, 1, 2] ++ tIN) 1 with imm := cvtImm }
  | 0x10 => some (mk [1, 2, 5, 6, 7, 8] 3)
  | 0x11 => some (mk [0] 2)
  | 0x12 => some (mk [0] 1)
  | 0x13 => some (mk (uFL ++ tIN) 3)
  | 0x14 => some (mk tIN 2)
  | 0x15 => some (mk tIN 2)
  | 0x16 => some (mk tIN 2)
  | 0x17 => some (mk tIN 3)
  | 0x18 => some (mk (tIN ++ [9]) 2)
  | 0x19 => some (mk (tIN ++ [9]) 2)
  | 0x1A => some (mk (tIN ++ [9]) 2)
  | 0x1B => some (mk (tIN ++ [9]) 2)
  | 0x1C => some (mk (tIN ++ [9]) 2)
  | 0x1D => some (mk (tIN ++ [9]) 2)
  | 0x1E => some (mk (tIN ++ [9]) 1)
  | 0x1F => some (mk (tIN ++ [9]) 1)
  | 0x20 => some (mk [3, 5, 7] 1)
  | 0x21 => some (mk tIN 2)
  | 0x22 => some (mk tIN 2)
  | 0x23 => some (mk (tIN ++ [9]) 3)
  | 0x24 => some { mk uAny 1 with imm := fun _ v => decide (v < 64) }
  | 0x25 => some { mk uAny 1 with imm := fun _ v => decide (v < 64) }
  | 0x26 => some (mk uAny 2)
  | 0x27 => some (mk [0, 3, 4] 1)
  | 0x28 => some (mk [0, 3, 4] 1)
  | _ => if 0x30 ≤ code ∧ code ≤ 0x3F then some (mk [0] 1) else none

/-- Code 3 of R328 for one word: whether a reserved code, type, field or immediate is broken. -/
def uBreaks3 (code : Nat) (f : UWord) : Bool :=
  let t := f.ut.toNat
  let z (n : Nat) : Bool := decide (n = 0)
  let s1 := f.s1.toNat
  let s2 := f.s2.toNat
  let s3 := f.s3.toNat
  let v := f.imm.toNat
  match uShape code with
  | some h =>
    !(h.types.contains t && (h.dst || z f.dst.toNat) && (decide (1 ≤ h.srcs) || z s1) && (decide (2 ≤ h.srcs) || z s2) &&
      (decide (3 ≤ h.srcs) || z s3) && h.imm t v)
  | none =>
    match code with
    | 0x29 =>
      !(z t && z f.dst.toNat && (decide (s1 = 11) || (decide (16 ≤ s1) && z v)) && decide (1 ≤ 32 * s2 + s3) &&
        decide (32 * s2 + s3 ≤ 255))
    | 0x2A => !(z t && z f.dst.toNat && z s1 && z s2 && z s3 && z v)
    | 0x2B => !(z t && z f.dst.toNat && z s1 && z s2 && z s3 && decide (v < 512))
    | 0x2C => !(z t && z f.dst.toNat && z s2 && z s3 && z v)
    | 0x2D => !(z t && z f.dst.toNat && z s1 && z s2 && z s3 && z v)
    | 0x2E => !(z t && z f.dst.toNat && z s1 && z s2 && z s3 && z v)
    | _ => true

/-- Code 4 of R328 for one word: an operand rule of R330. The two source fields of ULOOP that hold its length are no
operands. -/
def uBreaks4 (code : Nat) (f : UWord) : Bool :=
  let d := f.dst.toNat
  let loop := decide (code = 0x29)
  decide (9 ≤ d) || decide (f.s1.toNat = 15) || (!loop && decide (f.s2.toNat = 15)) || (!loop && decide (f.s3.toNat = 15))

/-- Whether a micro-op word is an instruction (R328 codes 3 and 4). -/
def uLegal (code : Nat) (f : UWord) : Bool := !uBreaks3 code f && !uBreaks4 code f

/-- Whether the fields of an instruction make one word of its encoding (R69). -/
def legal (i : Instr) : Bool :=
  match view i with
  | .reeve =>
    (match i with
     | .mark _ _ m _ => decide (m ≠ 0)
     | _ => true)
  | .vec op sub f => vLegal op sub f
  | .mat op sub f => mLegal op sub f
  | .uop code f => uLegal code f
  | .event => true

/-- Whether an instruction of the table is an event: something that happens to the machine, and no word of a stream. -/
def isEvent (i : Instr) : Bool :=
  match view i with
  | .event => true
  | _ => false

end Sys2Proof.Machine
end

