-- ==== Sys2Proof/WellFormed.lean ====
section
/-! DEFINITION. Well-formed instructions: those whose fields make an instruction under spec/03_streams.md R69. -/

namespace Sys2Proof

/-- An instruction is well formed when its fields are legal. -/
def Instr.wf (i : Instr) : Bool := Machine.legal i

/-- Whether an instruction has an encoding: an event has none. -/
def Instr.encodable (i : Instr) : Bool := decide (Machine.view i ≠ .event)

end Sys2Proof
end

