-- ==== Sys2Proof/Decode.lean ====
section
/-! DEFINITION. The decoder of the three streams and of the micro-op word, total on every word, and the encoder written
from the same formats (spec/03_streams.md R50 to R69, spec/17_control_store.md R329 to R331). A word is a number whose
bit 0 is bit 0 of its lowest-addressed byte (R1, R47). -/

namespace Sys2Proof

open Sys2Proof.Machine

/-- Bit `i` of a word. -/
def bit (w i : Nat) : Bool := decide (w / 2 ^ i % 2 = 1)

/-- The field of `n` bits whose lowest bit is bit `lo`. -/
def fld (w lo n : Nat) : BitVec n := BitVec.ofNat n (w / 2 ^ lo)

/-- A bit as a number. -/
def b2n (b : Bool) : Nat := if b then 1 else 0

/-! ### Reeve words -/

/-- Reeve words of OP 0x00 (R55). -/
def dec00 (w : Nat) : Option Instr :=
  if w / 1 % 8388608 = 0 then some (.nop (bit w 31) (fld w 29 2))
  else if w / 1 % 8388608 = 1 then some (.halt (bit w 31) (fld w 29 2))
  else if w / 1 % 8388608 = 2 then some (.wfe (bit w 31) (fld w 29 2))
  else if w / 1 % 256 = 3 ∧ w / 8192 % 1024 = 0 then some (.trap (bit w 31) (fld w 29 2) (fld w 8 5))
  else if w / 1 % 8388608 = 4 then some (.eret (bit w 31) (fld w 29 2))
  else if w / 1 % 8192 = 5 ∧ w / 262144 % 32 = 0 then some (.segb (bit w 31) (fld w 29 2) (fld w 13 5))
  else if w / 1 % 8388608 = 6 then some (.sege (bit w 31) (fld w 29 2))
  else if w / 1 % 8192 = 7 ∧ w / 262144 % 32 = 0 then some (.replay (bit w 31) (fld w 29 2) (fld w 13 5))
  else if w / 1 % 262144 = 8 then some (.ppt (bit w 31) (fld w 29 2) (fld w 18 5))
  else if w / 1 % 256 = 9 then some (.csload (bit w 31) (fld w 29 2) (fld w 18 5) (fld w 13 5) (fld w 8 5))
  else none

/-- Reeve words of OP 0x01 (R55). -/
def dec01 (w : Nat) : Option Instr :=
  if w / 1 % 256 = 0 then some (.add (bit w 31) (fld w 29 2) (fld w 18 5) (fld w 13 5) (fld w 8 5))
  else if w / 1 % 256 = 1 then some (.sub (bit w 31) (fld w 29 2) (fld w 18 5) (fld w 13 5) (fld w 8 5))
  else if w / 1 % 256 = 2 then some (.and (bit w 31) (fld w 29 2) (fld w 18 5) (fld w 13 5) (fld w 8 5))
  else if w / 1 % 256 = 3 then some (.or (bit w 31) (fld w 29 2) (fld w 18 5) (fld w 13 5) (fld w 8 5))
  else if w / 1 % 256 = 4 then some (.xor (bit w 31) (fld w 29 2) (fld w 18 5) (fld w 13 5) (fld w 8 5))
  else if w / 1 % 256 = 5 then some (.andn (bit w 31) (fld w 29 2) (fld w 18 5) (fld w 13 5) (fld w 8 5))
  else if w / 1 % 256 = 6 then some (.shl (bit w 31) (fld w 29 2) (fld w 18 5) (fld w 13 5) (fld w 8 5))
  else if w / 1 % 256 = 7 then some (.shrl (bit w 31) (fld w 29 2) (fld w 18 5) (fld w 13 5) (fld w 8 5))
  else if w / 1 % 256 = 8 then some (.shra (bit w 31) (fld w 29 2) (fld w 18 5) (fld w 13 5) (fld w 8 5))
  else if w / 1 % 256 = 9 then some (.rotl (bit w 31) (fld w 29 2) (fld w 18 5) (fld w 13 5) (fld w 8 5))
  else if w / 1 % 256 = 10 then some (.min (bit w 31) (fld w 29 2) (fld w 18 5) (fld w 13 5) (fld w 8 5))
  else if w / 1 % 256 = 11 then some (.max (bit w 31) (fld w 29 2) (fld w 18 5) (fld w 13 5) (fld w 8 5))
  else if w / 1 % 256 = 12 then some (.minn (bit w 31) (fld w 29 2) (fld w 18 5) (fld w 13 5) (fld w 8 5))
  else if w / 1 % 256 = 13 then some (.maxn (bit w 31) (fld w 29 2) (fld w 18 5) (fld w 13 5) (fld w 8 5))
  else if w / 1 % 256 = 14 then some (.cmpeq (bit w 31) (fld w 29 2) (fld w 18 5) (fld w 13 5) (fld w 8 5))
  else if w / 1 % 256 = 15 then some (.cmpne (bit w 31) (fld w 29 2) (fld w 18 5) (fld w 13 5) (fld w 8 5))
  else if w / 1 % 256 = 16 then some (.cmplt (bit w 31) (fld w 29 2) (fld w 18 5) (fld w 13 5) (fld w 8 5))
  else if w / 1 % 256 = 17 then some (.cmpltn (bit w 31) (fld w 29 2) (fld w 18 5) (fld w 13 5) (fld w 8 5))
  else if w / 1 % 8192 = 18 then some (.clz (bit w 31) (fld w 29 2) (fld w 18 5) (fld w 13 5))
  else if w / 1 % 8192 = 19 then some (.popc (bit w 31) (fld w 29 2) (fld w 18 5) (fld w 13 5))
  else if w / 1 % 256 = 20 then some (.sel (bit w 31) (fld w 29 2) (fld w 18 5) (fld w 13 5) (fld w 8 5))
  else none

/-- Reeve words of OP 0x02 (R55). -/
def dec02 (w : Nat) : Option Instr :=
  if w / 1 % 256 = 0 then some (.mul (bit w 31) (fld w 29 2) (fld w 18 5) (fld w 13 5) (fld w 8 5))
  else if w / 1 % 256 = 1 then some (.mulh (bit w 31) (fld w 29 2) (fld w 18 5) (fld w 13 5) (fld w 8 5))
  else if w / 1 % 256 = 2 then some (.mulhn (bit w 31) (fld w 29 2) (fld w 18 5) (fld w 13 5) (fld w 8 5))
  else if w / 1 % 256 = 3 then some (.div (bit w 31) (fld w 29 2) (fld w 18 5) (fld w 13 5) (fld w 8 5))
  else if w / 1 % 256 = 4 then some (.divn (bit w 31) (fld w 29 2) (fld w 18 5) (fld w 13 5) (fld w 8 5))
  else if w / 1 % 256 = 5 then some (.rem (bit w 31) (fld w 29 2) (fld w 18 5) (fld w 13 5) (fld w 8 5))
  else if w / 1 % 256 = 6 then some (.remn (bit w 31) (fld w 29 2) (fld w 18 5) (fld w 13 5) (fld w 8 5))
  else none

/-- Reeve words of OP 0x03 (R55). -/
def dec03 (w : Nat) : Option Instr :=
  some (.addi (bit w 31) (fld w 29 2) (fld w 18 5) (fld w 13 5) (fld w 0 13))

/-- Reeve words of OP 0x04 (R55). -/
def dec04 (w : Nat) : Option Instr :=
  some (.andi (bit w 31) (fld w 29 2) (fld w 18 5) (fld w 13 5) (fld w 0 13))

/-- Reeve words of OP 0x05 (R55). -/
def dec05 (w : Nat) : Option Instr :=
  some (.ori (bit w 31) (fld w 29 2) (fld w 18 5) (fld w 13 5) (fld w 0 13))

/-- Reeve words of OP 0x06 (R55). -/
def dec06 (w : Nat) : Option Instr :=
  some (.xori (bit w 31) (fld w 29 2) (fld w 18 5) (fld w 13 5) (fld w 0 13))

/-- Reeve words of OP 0x07 (R55). -/
def dec07 (w : Nat) : Option Instr :=
  if w / 64 % 128 = 0 then some (.shli (bit w 31) (fld w 29 2) (fld w 18 5) (fld w 13 5) (fld w 0 6))
  else none

/-- Reeve words of OP 0x08 (R55). -/
def dec08 (w : Nat) : Option Instr :=
  if w / 64 % 128 = 0 then some (.shrli (bit w 31) (fld w 29 2) (fld w 18 5) (fld w 13 5) (fld w 0 6))
  else none

/-- Reeve words of OP 0x09 (R55). -/
def dec09 (w : Nat) : Option Instr :=
  if w / 64 % 128 = 0 then some (.shrai (bit w 31) (fld w 29 2) (fld w 18 5) (fld w 13 5) (fld w 0 6))
  else none

/-- Reeve words of OP 0x0A (R55). -/
def dec0A (w : Nat) : Option Instr :=
  some (.cmpeqi (bit w 31) (fld w 29 2) (fld w 18 5) (fld w 13 5) (fld w 0 13))

/-- Reeve words of OP 0x0B (R55). -/
def dec0B (w : Nat) : Option Instr :=
  some (.cmplti (bit w 31) (fld w 29 2) (fld w 18 5) (fld w 13 5) (fld w 0 13))

/-- Reeve words of OP 0x0C (R55). -/
def dec0C (w : Nat) : Option Instr :=
  some (.limm (bit w 31) (fld w 29 2) (fld w 18 5) (fld w 0 18))

/-- Reeve words of OP 0x0D (R55). -/
def dec0D (w : Nat) : Option Instr :=
  some (.limms (bit w 31) (fld w 29 2) (fld w 18 5) (fld w 0 18))

/-- Reeve words of OP 0x0E (R55). -/
def dec0E (w : Nat) : Option Instr :=
  if w / 8192 % 32 = 0 then some (.mfsr (bit w 31) (fld w 29 2) (fld w 18 5) (fld w 0 13))
  else none

/-- Reeve words of OP 0x0F (R55). -/
def dec0F (w : Nat) : Option Instr :=
  if w / 262144 % 32 = 0 then some (.mtsr (bit w 31) (fld w 29 2) (fld w 13 5) (fld w 0 13))
  else none

/-- Reeve words of OP 0x10 (R55). -/
def dec10 (w : Nat) : Option Instr :=
  some (.ldb (bit w 31) (fld w 29 2) (fld w 18 5) (fld w 13 5) (fld w 0 13))

/-- Reeve words of OP 0x11 (R55). -/
def dec11 (w : Nat) : Option Instr :=
  some (.ldh (bit w 31) (fld w 29 2) (fld w 18 5) (fld w 13 5) (fld w 0 13))

/-- Reeve words of OP 0x12 (R55). -/
def dec12 (w : Nat) : Option Instr :=
  some (.ldw (bit w 31) (fld w 29 2) (fld w 18 5) (fld w 13 5) (fld w 0 13))

/-- Reeve words of OP 0x13 (R55). -/
def dec13 (w : Nat) : Option Instr :=
  some (.ldd (bit w 31) (fld w 29 2) (fld w 18 5) (fld w 13 5) (fld w 0 13))

/-- Reeve words of OP 0x14 (R55). -/
def dec14 (w : Nat) : Option Instr :=
  some (.ldws (bit w 31) (fld w 29 2) (fld w 18 5) (fld w 13 5) (fld w 0 13))

/-- Reeve words of OP 0x15 (R55). -/
def dec15 (w : Nat) : Option Instr :=
  some (.stb (bit w 31) (fld w 29 2) (fld w 18 5) (fld w 13 5) (fld w 0 13))

/-- Reeve words of OP 0x16 (R55). -/
def dec16 (w : Nat) : Option Instr :=
  some (.sth (bit w 31) (fld w 29 2) (fld w 18 5) (fld w 13 5) (fld w 0 13))

/-- Reeve words of OP 0x17 (R55). -/
def dec17 (w : Nat) : Option Instr :=
  some (.stw (bit w 31) (fld w 29 2) (fld w 18 5) (fld w 13 5) (fld w 0 13))

/-- Reeve words of OP 0x18 (R55). -/
def dec18 (w : Nat) : Option Instr :=
  some (.std (bit w 31) (fld w 29 2) (fld w 18 5) (fld w 13 5) (fld w 0 13))

/-- Reeve words of OP 0x19 (R55). -/
def dec19 (w : Nat) : Option Instr :=
  some (.stf (bit w 31) (fld w 29 2) (fld w 18 5) (fld w 13 5) (fld w 0 13))

/-- Reeve words of OP 0x1A (R55). -/
def dec1A (w : Nat) : Option Instr :=
  if w / 1 % 128 = 0 then some (.amoAdd (bit w 31) (fld w 29 2) (fld w 18 5) (fld w 13 5) (fld w 8 5) (bit w 7))
  else if w / 1 % 128 = 1 then some (.amoAnd (bit w 31) (fld w 29 2) (fld w 18 5) (fld w 13 5) (fld w 8 5) (bit w 7))
  else if w / 1 % 128 = 2 then some (.amoOr (bit w 31) (fld w 29 2) (fld w 18 5) (fld w 13 5) (fld w 8 5) (bit w 7))
  else if w / 1 % 128 = 3 then some (.amoXor (bit w 31) (fld w 29 2) (fld w 18 5) (fld w 13 5) (fld w 8 5) (bit w 7))
  else if w / 1 % 128 = 4 then some (.amoMin (bit w 31) (fld w 29 2) (fld w 18 5) (fld w 13 5) (fld w 8 5) (bit w 7))
  else if w / 1 % 128 = 5 then some (.amoMax (bit w 31) (fld w 29 2) (fld w 18 5) (fld w 13 5) (fld w 8 5) (bit w 7))
  else if w / 1 % 128 = 6 then some (.amoMinn (bit w 31) (fld w 29 2) (fld w 18 5) (fld w 13 5) (fld w 8 5) (bit w 7))
  else if w / 1 % 128 = 7 then some (.amoMaxn (bit w 31) (fld w 29 2) (fld w 18 5) (fld w 13 5) (fld w 8 5) (bit w 7))
  else if w / 1 % 128 = 8 then some (.amoSwap (bit w 31) (fld w 29 2) (fld w 18 5) (fld w 13 5) (fld w 8 5) (bit w 7))
  else none

/-- Reeve words of OP 0x1B (R55). -/
def dec1B (w : Nat) : Option Instr :=
  if w / 1 % 128 = 0 then some (.cas (bit w 31) (fld w 29 2) (fld w 18 5) (fld w 13 5) (fld w 8 5) (bit w 7))
  else none

/-- Reeve words of OP 0x1C (R55). -/
def dec1C (w : Nat) : Option Instr :=
  if w / 1 % 8388608 = 0 then some (.qalign (bit w 31) (fld w 29 2))
  else none

/-- Reeve words of OP 0x1D (R55). -/
def dec1D (w : Nat) : Option Instr :=
  if w / 1 % 8388608 = 0 then some (.fenceCell (bit w 31) (fld w 29 2))
  else if w / 1 % 8388608 = 1 then some (.fenceQuad (bit w 31) (fld w 29 2))
  else if w / 1 % 8388608 = 2 then some (.fenceDie (bit w 31) (fld w 29 2))
  else if w / 1 % 8388608 = 3 then some (.fenceDev (bit w 31) (fld w 29 2))
  else if w / 1 % 8388608 = 4 then some (.fenceSys (bit w 31) (fld w 29 2))
  else if w / 1 % 8388608 = 5 then some (.fenceMs (bit w 31) (fld w 29 2))
  else none

/-- Reeve words of OP 0x20 (R55). -/
def dec20 (w : Nat) : Option Instr :=
  some (.br (bit w 31) (fld w 29 2) (fld w 0 23))

/-- Reeve words of OP 0x21 (R55). -/
def dec21 (w : Nat) : Option Instr :=
  some (.beqz (bit w 31) (fld w 29 2) (fld w 18 5) (fld w 0 18))

/-- Reeve words of OP 0x22 (R55). -/
def dec22 (w : Nat) : Option Instr :=
  some (.bnez (bit w 31) (fld w 29 2) (fld w 18 5) (fld w 0 18))

/-- Reeve words of OP 0x23 (R55). -/
def dec23 (w : Nat) : Option Instr :=
  some (.bltz (bit w 31) (fld w 29 2) (fld w 18 5) (fld w 0 18))

/-- Reeve words of OP 0x24 (R55). -/
def dec24 (w : Nat) : Option Instr :=
  some (.bgez (bit w 31) (fld w 29 2) (fld w 18 5) (fld w 0 18))

/-- Reeve words of OP 0x25 (R55). -/
def dec25 (w : Nat) : Option Instr :=
  some (.call (bit w 31) (fld w 29 2) (fld w 0 23))

/-- Reeve words of OP 0x26 (R55). -/
def dec26 (w : Nat) : Option Instr :=
  if w / 1 % 8192 = 0 ∧ w / 262144 % 32 = 0 then some (.jr (bit w 31) (fld w 29 2) (fld w 13 5))
  else none

/-- Reeve words of OP 0x27 (R55). -/
def dec27 (w : Nat) : Option Instr :=
  if w / 256 % 32 = 0 then some (.jtab (bit w 31) (fld w 29 2) (fld w 18 5) (fld w 13 5) (fld w 0 8))
  else none

/-- Reeve words of OP 0x28 (R55). -/
def dec28 (w : Nat) : Option Instr :=
  if w / 256 % 1024 = 0 then if w / 262144 % 32 = 0 then none else some (.mark (bit w 31) (fld w 29 2) (fld w 18 5) (fld w 0 8))
  else none

/-- Reeve words of OP 0x29 (R55). -/
def dec29 (w : Nat) : Option Instr :=
  if w / 2048 % 128 = 0 then some (.rdvArm (bit w 31) (fld w 29 2) (fld w 18 5) (fld w 8 3) (fld w 0 8))
  else if w / 1 % 256 = 0 ∧ w / 2048 % 4096 = 1 then some (.rdvWait (bit w 31) (fld w 29 2) (fld w 8 3))
  else if w / 2048 % 128 = 2 then some (.rdvAw (bit w 31) (fld w 29 2) (fld w 18 5) (fld w 8 3) (fld w 0 8))
  else none

/-- Reeve words of OP 0x2A (R55). -/
def dec2A (w : Nat) : Option Instr :=
  if w / 1 % 256 = 3 then some (.fork (bit w 31) (fld w 29 2) (fld w 18 5) (fld w 13 5) (fld w 8 5))
  else if w / 1 % 8192 = 1 then some (.forkV (bit w 31) (fld w 29 2) (fld w 18 5) (fld w 13 5))
  else if w / 1 % 256 = 2 ∧ w / 8192 % 32 = 0 then some (.forkM (bit w 31) (fld w 29 2) (fld w 18 5) (fld w 8 5))
  else if w / 1 % 262144 = 7 then some (.forkE (bit w 31) (fld w 29 2) (fld w 18 5))
  else if w / 1 % 262144 = 5 then some (.forkEV (bit w 31) (fld w 29 2) (fld w 18 5))
  else if w / 1 % 262144 = 6 then some (.forkEM (bit w 31) (fld w 29 2) (fld w 18 5))
  else none

/-- Reeve words of OP 0x2B (R55). -/
def dec2B (w : Nat) : Option Instr :=
  if w / 1 % 8192 = 0 then some (.evsetLoad (bit w 31) (fld w 29 2) (fld w 18 5) (fld w 13 5))
  else if w / 1 % 262144 = 1 then some (.evsetZero (bit w 31) (fld w 29 2) (fld w 18 5))
  else if w / 1 % 262144 = 2 then some (.evsetClear (bit w 31) (fld w 29 2) (fld w 18 5))
  else if w / 1 % 8192 = 3 then some (.evsetCount (bit w 31) (fld w 29 2) (fld w 18 5) (fld w 13 5))
  else none

/-- Reeve words of OP 0x2C (R55). -/
def dec2C (w : Nat) : Option Instr :=
  if w / 1 % 8192 = 0 then some (.job (bit w 31) (fld w 29 2) (fld w 18 5) (fld w 13 5))
  else none

/-- Reeve words of OP 0x2D (R55). -/
def dec2D (w : Nat) : Option Instr :=
  if w / 1 % 256 = 0 then some (.swinit (bit w 31) (fld w 29 2) (fld w 18 5) (fld w 13 5) (fld w 8 5))
  else if w / 1 % 256 = 1 then some (.swinitZ (bit w 31) (fld w 29 2) (fld w 18 5) (fld w 13 5) (fld w 8 5))
  else none

/-- Reeve words of OP 0x2E (R55). -/
def dec2E (w : Nat) : Option Instr :=
  if w / 1 % 256 = 0 then some (.swait (bit w 31) (fld w 29 2) (fld w 18 5) (fld w 13 5) (fld w 8 5))
  else none

/-- Reeve words of OP 0x2F (R55). -/
def dec2F (w : Nat) : Option Instr :=
  if w / 1 % 256 = 0 then some (.swaddCell (bit w 31) (fld w 29 2) (fld w 18 5) (fld w 13 5) (fld w 8 5))
  else if w / 1 % 256 = 1 then some (.swaddQuad (bit w 31) (fld w 29 2) (fld w 18 5) (fld w 13 5) (fld w 8 5))
  else none

/-- Reeve words of OP 0x30 (R55). -/
def dec30 (w : Nat) : Option Instr :=
  if w / 1 % 8192 = 0 then some (.tlook (bit w 31) (fld w 29 2) (fld w 18 5) (fld w 13 5))
  else none

/-- Reeve words of OP 0x31 (R55). -/
def dec31 (w : Nat) : Option Instr :=
  if w / 1 % 256 = 0 then some (.tset (bit w 31) (fld w 29 2) (fld w 18 5) (fld w 13 5) (fld w 8 5))
  else none

/-- Reeve words of OP 0x32 (R55). -/
def dec32 (w : Nat) : Option Instr :=
  if w / 1 % 8192 = 0 then some (.tinvSlot (bit w 31) (fld w 29 2) (fld w 18 5) (fld w 13 5))
  else if w / 1 % 8192 = 1 then some (.tinvKey (bit w 31) (fld w 29 2) (fld w 18 5) (fld w 13 5))
  else if w / 1 % 262144 = 2 then some (.tinvAll (bit w 31) (fld w 29 2) (fld w 18 5))
  else none

/-- Reeve words of OP 0x33 (R55). -/
def dec33 (w : Nat) : Option Instr :=
  if w / 16 % 16 = 0 then some (.ringset (bit w 31) (fld w 29 2) (fld w 18 5) (fld w 13 5) (fld w 8 5) (fld w 0 4))
  else none

/-- Reeve words of OP 0x34 (R55). -/
def dec34 (w : Nat) : Option Instr :=
  if w / 16 % 512 = 0 then some (.ringadvP (bit w 31) (fld w 29 2) (fld w 18 5) (fld w 13 5) (fld w 0 4))
  else if w / 16 % 512 = 1 then some (.ringadvC (bit w 31) (fld w 29 2) (fld w 18 5) (fld w 13 5) (fld w 0 4))
  else none

/-- Reeve words of OP 0x35 (R55). -/
def dec35 (w : Nat) : Option Instr :=
  if w / 16 % 16 = 0 then some (.csbind (bit w 31) (fld w 29 2) (fld w 18 5) (fld w 13 5) (fld w 8 5) (fld w 0 4))
  else if w / 16 % 16384 = 1 then some (.csbindU (bit w 31) (fld w 29 2) (fld w 18 5) (fld w 0 4))
  else if w / 16 % 16384 = 2 then some (.csbindR (bit w 31) (fld w 29 2) (fld w 18 5) (fld w 0 4))
  else none

/-- Reeve words of OP 0x36 (R55). -/
def dec36 (w : Nat) : Option Instr :=
  if w / 16 % 512 = 0 then some (.cgrp (bit w 31) (fld w 29 2) (fld w 18 5) (fld w 13 5) (fld w 0 4))
  else if w / 16 % 16384 = 1 then some (.cgrpD (bit w 31) (fld w 29 2) (fld w 18 5) (fld w 0 4))
  else if w / 16 % 16384 = 2 then some (.cgrpQ (bit w 31) (fld w 29 2) (fld w 18 5) (fld w 0 4))
  else if w / 16 % 16384 = 3 then some (.cgrpL (bit w 31) (fld w 29 2) (fld w 18 5) (fld w 0 4))
  else none

/-- Reeve words of OP 0x37 (R55). -/
def dec37 (w : Nat) : Option Instr :=
  if w / 1 % 8192 = 0 then some (.cldred (bit w 31) (fld w 29 2) (fld w 18 5) (fld w 13 5))
  else none

/-- Reeve words of OP 0x38 (R55). -/
def dec38 (w : Nat) : Option Instr :=
  if w / 1 % 8192 = 0 then some (.crot (bit w 31) (fld w 29 2) (fld w 18 5) (fld w 13 5))
  else none

/-- Reeve words of OP 0x39 (R55). -/
def dec39 (w : Nat) : Option Instr :=
  if w / 1 % 8192 = 0 then some (.cpair (bit w 31) (fld w 29 2) (fld w 18 5) (fld w 13 5))
  else none

/-- Reeve words of OP 0x3A (R55). -/
def dec3A (w : Nat) : Option Instr :=
  if w / 1 % 8192 = 0 then some (.logapp (bit w 31) (fld w 29 2) (fld w 18 5) (fld w 13 5))
  else if w / 1 % 8192 = 1 then some (.logappA (bit w 31) (fld w 29 2) (fld w 18 5) (fld w 13 5))
  else none

/-- Reeve words of OP 0x3B (R55). -/
def dec3B (w : Nat) : Option Instr :=
  if w / 1 % 8192 = 0 then some (.logpull (bit w 31) (fld w 29 2) (fld w 18 5) (fld w 13 5))
  else none

/-- Reeve words of OP 0x3C (R55). -/
def dec3C (w : Nat) : Option Instr :=
  if w / 1 % 8192 = 0 then some (.msupd (bit w 31) (fld w 29 2) (fld w 18 5) (fld w 13 5))
  else none

/-- Reeve words of OP 0x3D (R55). -/
def dec3D (w : Nat) : Option Instr :=
  if w / 1 % 262144 = 0 then some (.captS (bit w 31) (fld w 29 2) (fld w 18 5))
  else if w / 1 % 8192 = 1 then some (.captW (bit w 31) (fld w 29 2) (fld w 18 5) (fld w 13 5))
  else none

/-- Reeve words of OP 0x3E (R55). -/
def dec3E (w : Nat) : Option Instr :=
  if w / 16 % 512 = 0 then some (.digest (bit w 31) (fld w 29 2) (fld w 18 5) (fld w 13 5) (fld w 0 4))
  else if w / 16 % 16384 = 1 then some (.digestN (bit w 31) (fld w 29 2) (fld w 18 5) (fld w 0 4))
  else none

/-- The Reeve instruction of a 32-bit word; none where the word is no instruction (R55, R69). -/
def decodeReeve (w : Nat) : Option Instr :=
  match w / 8388608 % 64 with
  | 0x00 => dec00 w
  | 0x01 => dec01 w
  | 0x02 => dec02 w
  | 0x03 => dec03 w
  | 0x04 => dec04 w
  | 0x05 => dec05 w
  | 0x06 => dec06 w
  | 0x07 => dec07 w
  | 0x08 => dec08 w
  | 0x09 => dec09 w
  | 0x0A => dec0A w
  | 0x0B => dec0B w
  | 0x0C => dec0C w
  | 0x0D => dec0D w
  | 0x0E => dec0E w
  | 0x0F => dec0F w
  | 0x10 => dec10 w
  | 0x11 => dec11 w
  | 0x12 => dec12 w
  | 0x13 => dec13 w
  | 0x14 => dec14 w
  | 0x15 => dec15 w
  | 0x16 => dec16 w
  | 0x17 => dec17 w
  | 0x18 => dec18 w
  | 0x19 => dec19 w
  | 0x1A => dec1A w
  | 0x1B => dec1B w
  | 0x1C => dec1C w
  | 0x1D => dec1D w
  | 0x20 => dec20 w
  | 0x21 => dec21 w
  | 0x22 => dec22 w
  | 0x23 => dec23 w
  | 0x24 => dec24 w
  | 0x25 => dec25 w
  | 0x26 => dec26 w
  | 0x27 => dec27 w
  | 0x28 => dec28 w
  | 0x29 => dec29 w
  | 0x2A => dec2A w
  | 0x2B => dec2B w
  | 0x2C => dec2C w
  | 0x2D => dec2D w
  | 0x2E => dec2E w
  | 0x2F => dec2F w
  | 0x30 => dec30 w
  | 0x31 => dec31 w
  | 0x32 => dec32 w
  | 0x33 => dec33 w
  | 0x34 => dec34 w
  | 0x35 => dec35 w
  | 0x36 => dec36 w
  | 0x37 => dec37 w
  | 0x38 => dec38 w
  | 0x39 => dec39 w
  | 0x3A => dec3A w
  | 0x3B => dec3B w
  | 0x3C => dec3C w
  | 0x3D => dec3D w
  | 0x3E => dec3E w
  | _ => none


/-! ### Vector words -/

/-- An operand field; none where a reserved bit is set (R60, R69). -/
def decodeOperand (v : Nat) : Option Operand :=
  match v / 4194304 % 4 with
  | 0 => some (.tile (fld v 20 2) (fld v 17 3) (fld v 11 6) (fld v 6 5) (bit v 5) (fld v 0 5))
  | 1 => if v % 524288 = 0 then some (.port (fld v 19 3)) else none
  | 2 =>
    if bit v 21 then some (.imm (fld v 0 21))
    else if v % 131072 = 0 then some (.xreg (fld v 17 4)) else none
  | _ => if v % 65536 = 0 ∧ v / 65536 % 64 < 4 then some (.special (fld v 16 2)) else none

/-- The vector instruction of an opcode (R65). -/
noncomputable def vecOf (op : Nat) (f : VWord) : Option Instr :=
  match op with
  | 0x00 => some (.vnop f)
  | 0x01 => some (.vhalt f)
  | 0x02 => some (.vbr f)
  | 0x03 => some (.vbrz f)
  | 0x04 => some (.vcall f)
  | 0x05 => some (.vret f)
  | 0x06 => some (.vloop f)
  | 0x07 => some (if immNat f.b = 1 then .vlexitI f else .vlexitD f)
  | 0x08 => some (.vwait f)
  | 0x09 => some (.vsig f)
  | 0x0A => some (.vrdv f)
  | 0x0B => some (if immNat f.b = 1 then .vsegClose f else .vsegOpen f)
  | 0x0C => some (.vtrap f)
  | 0x0D => some (.vppt f)
  | 0x0E => some (.vqalign f)
  | 0x0F => some (.vfence f)
  | 0x10 => some (.xadd f)
  | 0x11 => some (.xsub f)
  | 0x12 => some (.xmul f)
  | 0x13 => some (.xshl f)
  | 0x14 => some (.xshra f)
  | 0x15 => some (.xand f)
  | 0x16 => some (.xior f)
  | 0x17 => some (match f.a with
      | .xreg _ => .xlimmShift f
      | _ => .xlimm f)
  | 0x18 => some (.xget f)
  | 0x19 => some (.xput f)
  | 0x1A => some (.xfsr f)
  | 0x1B => some (.xtsr f)
  | 0x1C => some (.xcmp f)
  | 0x20 => some (.vadd f)
  | 0x21 => some (.vsub f)
  | 0x22 => some (.vmul f)
  | 0x23 => some (.vfma f)
  | 0x24 => some (.vfms f)
  | 0x25 => some (.vfnma f)
  | 0x26 => some (.vmin f)
  | 0x27 => some (.vmax f)
  | 0x28 => some (.vabs f)
  | 0x29 => some (.vneg f)
  | 0x2A => some (.vcpys f)
  | 0x2B => some (.vcmpeq f)
  | 0x2C => some (.vcmplt f)
  | 0x2D => some (.vcmple f)
  | 0x2E => some (.vcmpne f)
  | 0x2F => some (.vcmpun f)
  | 0x30 => some (.vsel f)
  | 0x31 => some (.vrnd f)
  | 0x32 => some (.vcvt f)
  | 0x33 => some (.vdot f)
  | 0x34 => some (.vscale f)
  | 0x35 => some (.vexpo f)
  | 0x36 => some (.vclamp f)
  | 0x37 => some (.vdiv f)
  | 0x38 => some (.vsqrt f)
  | 0x40 => some (.viadd f)
  | 0x41 => some (.visub f)
  | 0x42 => some (.vimul f)
  | 0x43 => some (.vimad f)
  | 0x44 => some (.vand f)
  | 0x45 => some (.vior f)
  | 0x46 => some (.vxor f)
  | 0x47 => some (.vshl f)
  | 0x48 => some (.vshr f)
  | 0x49 => some (.vshra f)
  | 0x4A => some (.vpopc f)
  | 0x4B => some (.vclz f)
  | 0x4C => some (.viabs f)
  | 0x4D => some (.vadds f)
  | 0x4E => some (.vsubs f)
  | 0x4F => some (.vbsel f)
  | 0x50 => some (.vexp2F f)
  | 0x51 => some (.vexp2R f)
  | 0x52 => some (.vlog2F f)
  | 0x53 => some (.vlog2R f)
  | 0x54 => some (.vrcpF f)
  | 0x55 => some (.vrcpR f)
  | 0x56 => some (.vrsqF f)
  | 0x57 => some (.vrsqR f)
  | 0x58 => some (.vsinpiF f)
  | 0x59 => some (.vsinpiR f)
  | 0x5A => some (.vcospiF f)
  | 0x5B => some (.vcospiR f)
  | 0x5C => some (.vtanhF f)
  | 0x5D => some (.vtanhR f)
  | 0x5E => some (.vsigmF f)
  | 0x5F => some (.vsigmR f)
  | 0x60 => some (.vmov f)
  | 0x61 => some (.vbcast f)
  | 0x62 => some (.vperm f)
  | 0x63 => some (.vrot f)
  | 0x64 => some (.vsum f)
  | 0x65 => some (.vmaxr f)
  | 0x66 => some (.vamax f)
  | 0x67 => some (.vamrd f)
  | 0x68 => some (.vscan f)
  | 0x69 => some (.vcomp f)
  | 0x6A => some (.vrng f)
  | 0x6B => some (.vnoise f)
  | 0x70 => some (.mpush f)
  | 0x71 => some (.minv f)
  | 0x72 => some (.mpop f)
  | 0x73 => some (.mand f)
  | 0x74 => some (.mrd f)
  | 0x75 => some (.mset f)
  | 0x78 => some (.vld f)
  | 0x79 => some (.vst f)
  | 0x7A => some (.vldg f)
  | 0x7B => some (.vstg f)
  | 0x7C => some (.vgath f)
  | 0x7D => some (.vscat f)
  | 0x7E => some (.portcfg f)
  | 0x7F => some (.portrst f)
  | _ => if 0xF0 ≤ op ∧ op ≤ 0xFF then some (.cxn (BitVec.ofNat 4 (op - 0xF0)) f) else none

/-- The fields of a vector word; none where an operand field is none (R56). -/
def vecFields (w : Nat) : Option VWord :=
  match decodeOperand (w / 2 ^ 48 % 2 ^ 24), decodeOperand (w / 2 ^ 24 % 2 ^ 24), decodeOperand (w % 2 ^ 24) with
  | some d, some a, some b =>
    some { w := fld w 85 3, x := bit w 84, m := bit w 83, s := bit w 82, stg := fld w 79 3, t := fld w 75 4,
           rep := fld w 72 3, d, a, b }
  | _, _, _ => none

/-- The variant that shares its opcode with another: VLEXIT and VSEG by the immediate of B, XLIMM by its A (R149, R151,
R255). -/
def vecSub (op : Nat) (f : VWord) : Nat :=
  if op = 0x07 ∨ op = 0x0B then immNat f.b
  else if op = 0x17 then
    match f.a with
    | .xreg _ => 1
    | _ => 0
  else 0

/-- Opcode, variant and fields of a 96-bit word; none where it is no instruction (R56, R65, R69). -/
def vecView (w : Nat) : Option (Nat × Nat × VWord) :=
  let op := w / 2 ^ 88 % 256
  match vecFields w with
  | some f => if vLegal op (vecSub op f) f then some (op, vecSub op f, f) else none
  | none => none

/-- The vector instruction of a 96-bit word (R56, R65, R69). -/
noncomputable def decodeVec (w : Nat) : Option Instr :=
  match vecView w with
  | some (op, _, f) => vecOf op f
  | none => none

/-! ### Matrix words -/

/-- The matrix instruction of an opcode (R67, R68). -/
noncomputable def matOf (op : Nat) (f : MWord) : Option Instr :=
  match op with
  | 0x00 => some (.mnop f)
  | 0x01 => some (.mhalt f)
  | 0x02 => some (.mbr f)
  | 0x03 => some (.mloop f)
  | 0x04 => some (.mwait f)
  | 0x05 => some (.msig f)
  | 0x06 => some (.mrdv f)
  | 0x07 => some (if f.aux = 1 then .msegClose f else .msegOpen f)
  | 0x10 => some (.mloadw f)
  | 0x11 => some (if f.rb.toNat / 4 = 0 then .mstepRow f else if f.rb.toNat / 4 = 1 then .mstepCol f
      else if f.rb.toNat / 4 = 2 then .mstepOuter f else .mstepSamp f)
  | 0x12 => some (.mouter f)
  | 0x13 => some (.mdrain f)
  | 0x14 => some (.mscld f)
  | 0x15 => some (.mzero f)
  | 0x16 => some (.mnset f)
  | 0x17 => some (.mnest f)
  | 0x18 => some (.mnorm f)
  | 0x19 => some (.malias f)
  | 0x1A => some (.msamp f)
  | 0x1B => some (.mswap f)
  | 0x1C => some (.mstat f)
  | _ => none

/-- The fields of a matrix word (R66). -/
def matFields (w : Nat) : MWord :=
  { flg := fld w 176 8, ra := fld w 172 4, rb := fld w 168 4, fda := fld w 164 4, fdb := fld w 160 4, acc := fld w 150 10,
    cnt := fld w 140 10, sco := fld w 132 8, nst := fld w 128 4, prt := fld w 120 8, tor := fld w 88 32,
    toc := fld w 56 32, tid := fld w 32 24, aux := fld w 0 32 }

/-- The variant that shares its opcode with another: MSEG by AUX, MSTEP by its mode (R67, R169). -/
def matSub (op : Nat) (f : MWord) : Nat :=
  if op = 0x07 then f.aux.toNat else if op = 0x11 then f.rb.toNat / 4 else 0

/-- Opcode, variant and fields of a 192-bit word; none where it is no instruction (R66, R68, R69). -/
def matView (w : Nat) : Option (Nat × Nat × MWord) :=
  let op := w / 2 ^ 184 % 256
  let f := matFields w
  if mLegal op (matSub op f) f then some (op, matSub op f, f) else none

/-- The matrix instruction of a 192-bit word (R66, R68, R69). -/
noncomputable def decodeMat (w : Nat) : Option Instr :=
  match matView w with
  | some (op, _, f) => matOf op f
  | none => none

/-! ### Micro-op words -/

/-- The micro-op of a code (R331). -/
noncomputable def uopOf (code : Nat) (f : UWord) : Option Instr :=
  match code with
  | 0x00 => some (.unop f)
  | 0x01 => some (.uadd f)
  | 0x02 => some (.usub f)
  | 0x03 => some (.umul f)
  | 0x04 => some (.ufma f)
  | 0x05 => some (.ufms f)
  | 0x06 => some (.ufnma f)
  | 0x07 => some (.umin f)
  | 0x08 => some (.umax f)
  | 0x09 => some (.uabs f)
  | 0x0A => some (.uneg f)
  | 0x0B => some (.ucpys f)
  | 0x0C => some (.ucmp f)
  | 0x0D => some (.usel f)
  | 0x0E => some (.urnd f)
  | 0x0F => some (.ucvt f)
  | 0x10 => some (.udot f)
  | 0x11 => some (.uscale f)
  | 0x12 => some (.uexpo f)
  | 0x13 => some (.uclamp f)
  | 0x14 => some (.uiadd f)
  | 0x15 => some (.uisub f)
  | 0x16 => some (.uimul f)
  | 0x17 => some (.uimad f)
  | 0x18 => some (.uand f)
  | 0x19 => some (.uior f)
  | 0x1A => some (.uxor f)
  | 0x1B => some (.ushl f)
  | 0x1C => some (.ushr f)
  | 0x1D => some (.ushra f)
  | 0x1E => some (.upopc f)
  | 0x1F => some (.uclz f)
  | 0x20 => some (.uiabs f)
  | 0x21 => some (.uadds f)
  | 0x22 => some (.usubs f)
  | 0x23 => some (.ubsel f)
  | 0x24 => some (.urot f)
  | 0x25 => some (.ubcast f)
  | 0x26 => some (.uperm f)
  | 0x27 => some (.usum f)
  | 0x28 => some (.umaxr f)
  | 0x29 => some (.uloop f)
  | 0x2A => some (.ulend f)
  | 0x2B => some (.uskip f)
  | 0x2C => some (.umpush f)
  | 0x2D => some (.umpop f)
  | 0x2E => some (.uminv f)
  | 0x30 => some (.uexp2F f)
  | 0x31 => some (.uexp2R f)
  | 0x32 => some (.ulog2F f)
  | 0x33 => some (.ulog2R f)
  | 0x34 => some (.urcpF f)
  | 0x35 => some (.urcpR f)
  | 0x36 => some (.ursqF f)
  | 0x37 => some (.ursqR f)
  | 0x38 => some (.usinpiF f)
  | 0x39 => some (.usinpiR f)
  | 0x3A => some (.ucospiF f)
  | 0x3B => some (.ucospiR f)
  | 0x3C => some (.utanhF f)
  | 0x3D => some (.utanhR f)
  | 0x3E => some (.usigmF f)
  | 0x3F => some (.usigmR f)
  | _ => none

/-- The fields of a micro-op word (R329). -/
def uopFields (w : Nat) : UWord :=
  { ut := fld w 54 4, dst := fld w 49 5, s1 := fld w 44 5, s2 := fld w 39 5, s3 := fld w 34 5, fin := bit w 33,
    imm := fld w 0 16 }

/-- Code and fields of a 64-bit word; none where it is no micro-op (R329, R331). -/
def uopView (w : Nat) : Option (Nat × UWord) :=
  let code := w / 2 ^ 58 % 64
  let f := uopFields w
  if w / 65536 % 131072 = 0 ∧ uLegal code f = true then some (code, f) else none

/-- The micro-op of a 64-bit word (R329, R331). -/
noncomputable def decodeUop (w : Nat) : Option Instr :=
  match uopView w with
  | some (code, f) => uopOf code f
  | none => none

/-! ### Bytes and the host's numbering -/

/-- The bytes of a word, lowest address first (R1, R47). -/
def wordBytes : Nat → Nat → List Byte
  | 0, _ => []
  | n + 1, w => BitVec.ofNat 8 w :: wordBytes n (w / 256)

/-- The word of a list of bytes, lowest address first (R1). -/
def bytesWord : List Byte → Nat
  | [] => 0
  | b :: bs => b.toNat + 256 * bytesWord bs

/-- The instruction of a word of a given width in bits: 32 Reeve, 96 vector, 192 matrix, 64 micro-op (R47, R329). -/
noncomputable def decodeWord (nbits w : Nat) : Option Instr :=
  if nbits ≤ 32 then decodeReeve (w % 2 ^ 32)
  else if nbits = 64 then decodeUop (w % 2 ^ 64)
  else if nbits ≤ 96 then decodeVec (w % 2 ^ 96)
  else if nbits ≤ 192 then decodeMat (w % 2 ^ 192)
  else none

/-- The instruction of a word as the opcode table numbers its bits: the word is laid out as memory holds it, lowest
byte first, and read back (R1). -/
noncomputable def decodeTableWord (nbits w : Nat) : Option Instr :=
  let n := if nbits ≤ 32 then 32 else if nbits = 64 then 64 else if nbits ≤ 96 then 96 else 192
  decodeWord n (bytesWord (wordBytes (n / 8) w))

/-! ### The encoder -/

/-- An operand field (R60). -/
def encodeOperand : Operand → Nat
  | .tile dir t i k r low =>
    dir.toNat * 2 ^ 20 + t.toNat * 2 ^ 17 + i.toNat * 2 ^ 11 + k.toNat * 2 ^ 6 + b2n r * 2 ^ 5 + low.toNat
  | .port p => 2 ^ 22 + p.toNat * 2 ^ 19
  | .xreg n => 2 * 2 ^ 22 + n.toNat * 2 ^ 17
  | .imm v => 2 * 2 ^ 22 + 2 ^ 21 + v.toNat
  | .special id => 3 * 2 ^ 22 + id.toNat * 2 ^ 16

/-- A 96-bit vector word (R56). -/
def encodeVec (op : Nat) (f : VWord) : Nat :=
  op * 2 ^ 88 + f.w.toNat * 2 ^ 85 + b2n f.x * 2 ^ 84 + b2n f.m * 2 ^ 83 + b2n f.s * 2 ^ 82 + f.stg.toNat * 2 ^ 79 +
    f.t.toNat * 2 ^ 75 + f.rep.toNat * 2 ^ 72 + encodeOperand f.d * 2 ^ 48 + encodeOperand f.a * 2 ^ 24 +
    encodeOperand f.b

/-- A 192-bit matrix word (R66). -/
def encodeMat (op : Nat) (f : MWord) : Nat :=
  op * 2 ^ 184 + f.flg.toNat * 2 ^ 176 + f.ra.toNat * 2 ^ 172 + f.rb.toNat * 2 ^ 168 + f.fda.toNat * 2 ^ 164 +
    f.fdb.toNat * 2 ^ 160 + f.acc.toNat * 2 ^ 150 + f.cnt.toNat * 2 ^ 140 + f.sco.toNat * 2 ^ 132 + f.nst.toNat * 2 ^ 128 +
    f.prt.toNat * 2 ^ 120 + f.tor.toNat * 2 ^ 88 + f.toc.toNat * 2 ^ 56 + f.tid.toNat * 2 ^ 32 + f.aux.toNat

/-- A 64-bit micro-op word (R329). -/
def encodeUop (code : Nat) (f : UWord) : Nat :=
  code * 2 ^ 58 + f.ut.toNat * 2 ^ 54 + f.dst.toNat * 2 ^ 49 + f.s1.toNat * 2 ^ 44 + f.s2.toNat * 2 ^ 39 +
    f.s3.toNat * 2 ^ 34 + b2n f.fin * 2 ^ 33 + f.imm.toNat

/-- A 32-bit Reeve word (R50, R55); 0 for an instruction of another stream. -/
def encodeReeve (i : Instr) : Nat :=
  match i with
  | .nop y w => 0x00000000 + b2n y * 2147483648 + w.toNat * 536870912
  | .halt y w => 0x00000001 + b2n y * 2147483648 + w.toNat * 536870912
  | .wfe y w => 0x00000002 + b2n y * 2147483648 + w.toNat * 536870912
  | .trap y w c => 0x00000003 + b2n y * 2147483648 + w.toNat * 536870912 + c.toNat * 256
  | .eret y w => 0x00000004 + b2n y * 2147483648 + w.toNat * 536870912
  | .segb y w a => 0x00000005 + b2n y * 2147483648 + w.toNat * 536870912 + a.toNat * 8192
  | .sege y w => 0x00000006 + b2n y * 2147483648 + w.toNat * 536870912
  | .replay y w a => 0x00000007 + b2n y * 2147483648 + w.toNat * 536870912 + a.toNat * 8192
  | .ppt y w d => 0x00000008 + b2n y * 2147483648 + w.toNat * 536870912 + d.toNat * 262144
  | .csload y w d a b => 0x00000009 + b2n y * 2147483648 + w.toNat * 536870912 + d.toNat * 262144 + a.toNat * 8192 + b.toNat * 256
  | .add y w d a b => 0x00800000 + b2n y * 2147483648 + w.toNat * 536870912 + d.toNat * 262144 + a.toNat * 8192 + b.toNat * 256
  | .sub y w d a b => 0x00800001 + b2n y * 2147483648 + w.toNat * 536870912 + d.toNat * 262144 + a.toNat * 8192 + b.toNat * 256
  | .and y w d a b => 0x00800002 + b2n y * 2147483648 + w.toNat * 536870912 + d.toNat * 262144 + a.toNat * 8192 + b.toNat * 256
  | .or y w d a b => 0x00800003 + b2n y * 2147483648 + w.toNat * 536870912 + d.toNat * 262144 + a.toNat * 8192 + b.toNat * 256
  | .xor y w d a b => 0x00800004 + b2n y * 2147483648 + w.toNat * 536870912 + d.toNat * 262144 + a.toNat * 8192 + b.toNat * 256
  | .andn y w d a b => 0x00800005 + b2n y * 2147483648 + w.toNat * 536870912 + d.toNat * 262144 + a.toNat * 8192 + b.toNat * 256
  | .shl y w d a b => 0x00800006 + b2n y * 2147483648 + w.toNat * 536870912 + d.toNat * 262144 + a.toNat * 8192 + b.toNat * 256
  | .shrl y w d a b => 0x00800007 + b2n y * 2147483648 + w.toNat * 536870912 + d.toNat * 262144 + a.toNat * 8192 + b.toNat * 256
  | .shra y w d a b => 0x00800008 + b2n y * 2147483648 + w.toNat * 536870912 + d.toNat * 262144 + a.toNat * 8192 + b.toNat * 256
  | .rotl y w d a b => 0x00800009 + b2n y * 2147483648 + w.toNat * 536870912 + d.toNat * 262144 + a.toNat * 8192 + b.toNat * 256
  | .min y w d a b => 0x0080000A + b2n y * 2147483648 + w.toNat * 536870912 + d.toNat * 262144 + a.toNat * 8192 + b.toNat * 256
  | .max y w d a b => 0x0080000B + b2n y * 2147483648 + w.toNat * 536870912 + d.toNat * 262144 + a.toNat * 8192 + b.toNat * 256
  | .minn y w d a b => 0x0080000C + b2n y * 2147483648 + w.toNat * 536870912 + d.toNat * 262144 + a.toNat * 8192 + b.toNat * 256
  | .maxn y w d a b => 0x0080000D + b2n y * 2147483648 + w.toNat * 536870912 + d.toNat * 262144 + a.toNat * 8192 + b.toNat * 256
  | .cmpeq y w d a b => 0x0080000E + b2n y * 2147483648 + w.toNat * 536870912 + d.toNat * 262144 + a.toNat * 8192 + b.toNat * 256
  | .cmpne y w d a b => 0x0080000F + b2n y * 2147483648 + w.toNat * 536870912 + d.toNat * 262144 + a.toNat * 8192 + b.toNat * 256
  | .cmplt y w d a b => 0x00800010 + b2n y * 2147483648 + w.toNat * 536870912 + d.toNat * 262144 + a.toNat * 8192 + b.toNat * 256
  | .cmpltn y w d a b => 0x00800011 + b2n y * 2147483648 + w.toNat * 536870912 + d.toNat * 262144 + a.toNat * 8192 + b.toNat * 256
  | .clz y w d a => 0x00800012 + b2n y * 2147483648 + w.toNat * 536870912 + d.toNat * 262144 + a.toNat * 8192
  | .popc y w d a => 0x00800013 + b2n y * 2147483648 + w.toNat * 536870912 + d.toNat * 262144 + a.toNat * 8192
  | .sel y w d a b => 0x00800014 + b2n y * 2147483648 + w.toNat * 536870912 + d.toNat * 262144 + a.toNat * 8192 + b.toNat * 256
  | .mul y w d a b => 0x01000000 + b2n y * 2147483648 + w.toNat * 536870912 + d.toNat * 262144 + a.toNat * 8192 + b.toNat * 256
  | .mulh y w d a b => 0x01000001 + b2n y * 2147483648 + w.toNat * 536870912 + d.toNat * 262144 + a.toNat * 8192 + b.toNat * 256
  | .mulhn y w d a b => 0x01000002 + b2n y * 2147483648 + w.toNat * 536870912 + d.toNat * 262144 + a.toNat * 8192 + b.toNat * 256
  | .div y w d a b => 0x01000003 + b2n y * 2147483648 + w.toNat * 536870912 + d.toNat * 262144 + a.toNat * 8192 + b.toNat * 256
  | .divn y w d a b => 0x01000004 + b2n y * 2147483648 + w.toNat * 536870912 + d.toNat * 262144 + a.toNat * 8192 + b.toNat * 256
  | .rem y w d a b => 0x01000005 + b2n y * 2147483648 + w.toNat * 536870912 + d.toNat * 262144 + a.toNat * 8192 + b.toNat * 256
  | .remn y w d a b => 0x01000006 + b2n y * 2147483648 + w.toNat * 536870912 + d.toNat * 262144 + a.toNat * 8192 + b.toNat * 256
  | .addi y w d a i => 0x01800000 + b2n y * 2147483648 + w.toNat * 536870912 + d.toNat * 262144 + a.toNat * 8192 + i.toNat
  | .andi y w d a i => 0x02000000 + b2n y * 2147483648 + w.toNat * 536870912 + d.toNat * 262144 + a.toNat * 8192 + i.toNat
  | .ori y w d a i => 0x02800000 + b2n y * 2147483648 + w.toNat * 536870912 + d.toNat * 262144 + a.toNat * 8192 + i.toNat
  | .xori y w d a i => 0x03000000 + b2n y * 2147483648 + w.toNat * 536870912 + d.toNat * 262144 + a.toNat * 8192 + i.toNat
  | .shli y w d a i => 0x03800000 + b2n y * 2147483648 + w.toNat * 536870912 + d.toNat * 262144 + a.toNat * 8192 + i.toNat
  | .shrli y w d a i => 0x04000000 + b2n y * 2147483648 + w.toNat * 536870912 + d.toNat * 262144 + a.toNat * 8192 + i.toNat
  | .shrai y w d a i => 0x04800000 + b2n y * 2147483648 + w.toNat * 536870912 + d.toNat * 262144 + a.toNat * 8192 + i.toNat
  | .cmpeqi y w d a i => 0x05000000 + b2n y * 2147483648 + w.toNat * 536870912 + d.toNat * 262144 + a.toNat * 8192 + i.toNat
  | .cmplti y w d a i => 0x05800000 + b2n y * 2147483648 + w.toNat * 536870912 + d.toNat * 262144 + a.toNat * 8192 + i.toNat
  | .limm y w d i => 0x06000000 + b2n y * 2147483648 + w.toNat * 536870912 + d.toNat * 262144 + i.toNat
  | .limms y w d i => 0x06800000 + b2n y * 2147483648 + w.toNat * 536870912 + d.toNat * 262144 + i.toNat
  | .mfsr y w d r => 0x07000000 + b2n y * 2147483648 + w.toNat * 536870912 + d.toNat * 262144 + r.toNat
  | .mtsr y w a r => 0x07800000 + b2n y * 2147483648 + w.toNat * 536870912 + a.toNat * 8192 + r.toNat
  | .ldb y w d a i => 0x08000000 + b2n y * 2147483648 + w.toNat * 536870912 + d.toNat * 262144 + a.toNat * 8192 + i.toNat
  | .ldh y w d a i => 0x08800000 + b2n y * 2147483648 + w.toNat * 536870912 + d.toNat * 262144 + a.toNat * 8192 + i.toNat
  | .ldw y w d a i => 0x09000000 + b2n y * 2147483648 + w.toNat * 536870912 + d.toNat * 262144 + a.toNat * 8192 + i.toNat
  | .ldd y w d a i => 0x09800000 + b2n y * 2147483648 + w.toNat * 536870912 + d.toNat * 262144 + a.toNat * 8192 + i.toNat
  | .ldws y w d a i => 0x0A000000 + b2n y * 2147483648 + w.toNat * 536870912 + d.toNat * 262144 + a.toNat * 8192 + i.toNat
  | .stb y w v a o => 0x0A800000 + b2n y * 2147483648 + w.toNat * 536870912 + v.toNat * 262144 + a.toNat * 8192 + o.toNat
  | .sth y w v a o => 0x0B000000 + b2n y * 2147483648 + w.toNat * 536870912 + v.toNat * 262144 + a.toNat * 8192 + o.toNat
  | .stw y w v a o => 0x0B800000 + b2n y * 2147483648 + w.toNat * 536870912 + v.toNat * 262144 + a.toNat * 8192 + o.toNat
  | .std y w v a o => 0x0C000000 + b2n y * 2147483648 + w.toNat * 536870912 + v.toNat * 262144 + a.toNat * 8192 + o.toNat
  | .stf y w v a o => 0x0C800000 + b2n y * 2147483648 + w.toNat * 536870912 + v.toNat * 262144 + a.toNat * 8192 + o.toNat
  | .amoAdd y w d a b z => 0x0D000000 + b2n y * 2147483648 + w.toNat * 536870912 + d.toNat * 262144 + a.toNat * 8192 + b.toNat * 256 + b2n z * 128
  | .amoAnd y w d a b z => 0x0D000001 + b2n y * 2147483648 + w.toNat * 536870912 + d.toNat * 262144 + a.toNat * 8192 + b.toNat * 256 + b2n z * 128
  | .amoOr y w d a b z => 0x0D000002 + b2n y * 2147483648 + w.toNat * 536870912 + d.toNat * 262144 + a.toNat * 8192 + b.toNat * 256 + b2n z * 128
  | .amoXor y w d a b z => 0x0D000003 + b2n y * 2147483648 + w.toNat * 536870912 + d.toNat * 262144 + a.toNat * 8192 + b.toNat * 256 + b2n z * 128
  | .amoMin y w d a b z => 0x0D000004 + b2n y * 2147483648 + w.toNat * 536870912 + d.toNat * 262144 + a.toNat * 8192 + b.toNat * 256 + b2n z * 128
  | .amoMax y w d a b z => 0x0D000005 + b2n y * 2147483648 + w.toNat * 536870912 + d.toNat * 262144 + a.toNat * 8192 + b.toNat * 256 + b2n z * 128
  | .amoMinn y w d a b z => 0x0D000006 + b2n y * 2147483648 + w.toNat * 536870912 + d.toNat * 262144 + a.toNat * 8192 + b.toNat * 256 + b2n z * 128
  | .amoMaxn y w d a b z => 0x0D000007 + b2n y * 2147483648 + w.toNat * 536870912 + d.toNat * 262144 + a.toNat * 8192 + b.toNat * 256 + b2n z * 128
  | .amoSwap y w d a b z => 0x0D000008 + b2n y * 2147483648 + w.toNat * 536870912 + d.toNat * 262144 + a.toNat * 8192 + b.toNat * 256 + b2n z * 128
  | .cas y w d a b z => 0x0D800000 + b2n y * 2147483648 + w.toNat * 536870912 + d.toNat * 262144 + a.toNat * 8192 + b.toNat * 256 + b2n z * 128
  | .qalign y w => 0x0E000000 + b2n y * 2147483648 + w.toNat * 536870912
  | .fenceCell y w => 0x0E800000 + b2n y * 2147483648 + w.toNat * 536870912
  | .fenceQuad y w => 0x0E800001 + b2n y * 2147483648 + w.toNat * 536870912
  | .fenceDie y w => 0x0E800002 + b2n y * 2147483648 + w.toNat * 536870912
  | .fenceDev y w => 0x0E800003 + b2n y * 2147483648 + w.toNat * 536870912
  | .fenceSys y w => 0x0E800004 + b2n y * 2147483648 + w.toNat * 536870912
  | .fenceMs y w => 0x0E800005 + b2n y * 2147483648 + w.toNat * 536870912
  | .br y w o => 0x10000000 + b2n y * 2147483648 + w.toNat * 536870912 + o.toNat
  | .beqz y w a o => 0x10800000 + b2n y * 2147483648 + w.toNat * 536870912 + a.toNat * 262144 + o.toNat
  | .bnez y w a o => 0x11000000 + b2n y * 2147483648 + w.toNat * 536870912 + a.toNat * 262144 + o.toNat
  | .bltz y w a o => 0x11800000 + b2n y * 2147483648 + w.toNat * 536870912 + a.toNat * 262144 + o.toNat
  | .bgez y w a o => 0x12000000 + b2n y * 2147483648 + w.toNat * 536870912 + a.toNat * 262144 + o.toNat
  | .call y w o => 0x12800000 + b2n y * 2147483648 + w.toNat * 536870912 + o.toNat
  | .jr y w a => 0x13000000 + b2n y * 2147483648 + w.toNat * 536870912 + a.toNat * 8192
  | .jtab y w d a n => 0x13800000 + b2n y * 2147483648 + w.toNat * 536870912 + d.toNat * 262144 + a.toNat * 8192 + n.toNat
  | .mark y w m k => 0x14000000 + b2n y * 2147483648 + w.toNat * 536870912 + m.toNat * 262144 + k.toNat
  | .rdvArm y w m i k => 0x14800000 + b2n y * 2147483648 + w.toNat * 536870912 + m.toNat * 262144 + i.toNat * 256 + k.toNat
  | .rdvWait y w i => 0x14800800 + b2n y * 2147483648 + w.toNat * 536870912 + i.toNat * 256
  | .rdvAw y w m i k => 0x14801000 + b2n y * 2147483648 + w.toNat * 536870912 + m.toNat * 262144 + i.toNat * 256 + k.toNat
  | .fork y w d a b => 0x15000003 + b2n y * 2147483648 + w.toNat * 536870912 + d.toNat * 262144 + a.toNat * 8192 + b.toNat * 256
  | .forkV y w d a => 0x15000001 + b2n y * 2147483648 + w.toNat * 536870912 + d.toNat * 262144 + a.toNat * 8192
  | .forkM y w d b => 0x15000002 + b2n y * 2147483648 + w.toNat * 536870912 + d.toNat * 262144 + b.toNat * 256
  | .forkE y w d => 0x15000007 + b2n y * 2147483648 + w.toNat * 536870912 + d.toNat * 262144
  | .forkEV y w d => 0x15000005 + b2n y * 2147483648 + w.toNat * 536870912 + d.toNat * 262144
  | .forkEM y w d => 0x15000006 + b2n y * 2147483648 + w.toNat * 536870912 + d.toNat * 262144
  | .evsetLoad y w d a => 0x15800000 + b2n y * 2147483648 + w.toNat * 536870912 + d.toNat * 262144 + a.toNat * 8192
  | .evsetZero y w d => 0x15800001 + b2n y * 2147483648 + w.toNat * 536870912 + d.toNat * 262144
  | .evsetClear y w d => 0x15800002 + b2n y * 2147483648 + w.toNat * 536870912 + d.toNat * 262144
  | .evsetCount y w d a => 0x15800003 + b2n y * 2147483648 + w.toNat * 536870912 + d.toNat * 262144 + a.toNat * 8192
  | .job y w d a => 0x16000000 + b2n y * 2147483648 + w.toNat * 536870912 + d.toNat * 262144 + a.toNat * 8192
  | .swinit y w d a b => 0x16800000 + b2n y * 2147483648 + w.toNat * 536870912 + d.toNat * 262144 + a.toNat * 8192 + b.toNat * 256
  | .swinitZ y w d a b => 0x16800001 + b2n y * 2147483648 + w.toNat * 536870912 + d.toNat * 262144 + a.toNat * 8192 + b.toNat * 256
  | .swait y w d a b => 0x17000000 + b2n y * 2147483648 + w.toNat * 536870912 + d.toNat * 262144 + a.toNat * 8192 + b.toNat * 256
  | .swaddCell y w d a b => 0x17800000 + b2n y * 2147483648 + w.toNat * 536870912 + d.toNat * 262144 + a.toNat * 8192 + b.toNat * 256
  | .swaddQuad y w d a b => 0x17800001 + b2n y * 2147483648 + w.toNat * 536870912 + d.toNat * 262144 + a.toNat * 8192 + b.toNat * 256
  | .tlook y w d a => 0x18000000 + b2n y * 2147483648 + w.toNat * 536870912 + d.toNat * 262144 + a.toNat * 8192
  | .tset y w d a b => 0x18800000 + b2n y * 2147483648 + w.toNat * 536870912 + d.toNat * 262144 + a.toNat * 8192 + b.toNat * 256
  | .tinvSlot y w d a => 0x19000000 + b2n y * 2147483648 + w.toNat * 536870912 + d.toNat * 262144 + a.toNat * 8192
  | .tinvKey y w d a => 0x19000001 + b2n y * 2147483648 + w.toNat * 536870912 + d.toNat * 262144 + a.toNat * 8192
  | .tinvAll y w d => 0x19000002 + b2n y * 2147483648 + w.toNat * 536870912 + d.toNat * 262144
  | .ringset y w d a b r => 0x19800000 + b2n y * 2147483648 + w.toNat * 536870912 + d.toNat * 262144 + a.toNat * 8192 + b.toNat * 256 + r.toNat
  | .ringadvP y w d a r => 0x1A000000 + b2n y * 2147483648 + w.toNat * 536870912 + d.toNat * 262144 + a.toNat * 8192 + r.toNat
  | .ringadvC y w d a r => 0x1A000010 + b2n y * 2147483648 + w.toNat * 536870912 + d.toNat * 262144 + a.toNat * 8192 + r.toNat
  | .csbind y w d a b n => 0x1A800000 + b2n y * 2147483648 + w.toNat * 536870912 + d.toNat * 262144 + a.toNat * 8192 + b.toNat * 256 + n.toNat
  | .csbindU y w d n => 0x1A800010 + b2n y * 2147483648 + w.toNat * 536870912 + d.toNat * 262144 + n.toNat
  | .csbindR y w d n => 0x1A800020 + b2n y * 2147483648 + w.toNat * 536870912 + d.toNat * 262144 + n.toNat
  | .cgrp y w d a g => 0x1B000000 + b2n y * 2147483648 + w.toNat * 536870912 + d.toNat * 262144 + a.toNat * 8192 + g.toNat
  | .cgrpD y w d g => 0x1B000010 + b2n y * 2147483648 + w.toNat * 536870912 + d.toNat * 262144 + g.toNat
  | .cgrpQ y w d g => 0x1B000020 + b2n y * 2147483648 + w.toNat * 536870912 + d.toNat * 262144 + g.toNat
  | .cgrpL y w d g => 0x1B000030 + b2n y * 2147483648 + w.toNat * 536870912 + d.toNat * 262144 + g.toNat
  | .cldred y w d a => 0x1B800000 + b2n y * 2147483648 + w.toNat * 536870912 + d.toNat * 262144 + a.toNat * 8192
  | .crot y w d a => 0x1C000000 + b2n y * 2147483648 + w.toNat * 536870912 + d.toNat * 262144 + a.toNat * 8192
  | .cpair y w d a => 0x1C800000 + b2n y * 2147483648 + w.toNat * 536870912 + d.toNat * 262144 + a.toNat * 8192
  | .logapp y w d a => 0x1D000000 + b2n y * 2147483648 + w.toNat * 536870912 + d.toNat * 262144 + a.toNat * 8192
  | .logappA y w d a => 0x1D000001 + b2n y * 2147483648 + w.toNat * 536870912 + d.toNat * 262144 + a.toNat * 8192
  | .logpull y w d a => 0x1D800000 + b2n y * 2147483648 + w.toNat * 536870912 + d.toNat * 262144 + a.toNat * 8192
  | .msupd y w d a => 0x1E000000 + b2n y * 2147483648 + w.toNat * 536870912 + d.toNat * 262144 + a.toNat * 8192
  | .captS y w d => 0x1E800000 + b2n y * 2147483648 + w.toNat * 536870912 + d.toNat * 262144
  | .captW y w d a => 0x1E800001 + b2n y * 2147483648 + w.toNat * 536870912 + d.toNat * 262144 + a.toNat * 8192
  | .digest y w d a l => 0x1F000000 + b2n y * 2147483648 + w.toNat * 536870912 + d.toNat * 262144 + a.toNat * 8192 + l.toNat
  | .digestN y w d l => 0x1F000010 + b2n y * 2147483648 + w.toNat * 536870912 + d.toNat * 262144 + l.toNat
  | _ => 0

/-- Width in bits of an instruction's word; 0 for an event (R47, R329). -/
def encodedBits (i : Instr) : Nat :=
  match view i with
  | .reeve => 32
  | .vec _ _ _ => 96
  | .mat _ _ _ => 192
  | .uop _ _ => 64
  | .event => 0

/-- The word of an instruction; 0 for an event. -/
def encode (i : Instr) : Nat :=
  match view i with
  | .reeve => encodeReeve i
  | .vec op _ f => encodeVec op f
  | .mat op _ f => encodeMat op f
  | .uop code f => encodeUop code f
  | .event => 0

/-! ### Words written out from the encodings -/

set_option maxRecDepth 8000

/-- Words written out from the encodings of the opcode table decode to their instructions (R50, R55), part 1. -/
theorem decode_reeve_words_sys_alu :
    [0xA0000000, 0xE0000001, 0xA0000002, 0xC0001303, 0xE0000004, 0xA0006005, 0xC0000006, 0xA0006007, 0xA06C0008, 0xA056B309, 0xE0CDA200, 0xA0CB8501, 0xC0964402, 0xE0EEC603, 0xE0CEA704, 0xA0CAE305, 0xE09E1606, 0xC0BE7E07, 0xC0A91A08].map (decodeWord 32) =
    [some (.nop true 1), some (.halt true 3), some (.wfe true 1), some (.trap true 2 19), some (.eret true 3), some (.segb true 1 3), some (.sege true 2), some (.replay true 1 3), some (.ppt true 1 27), some (.csload true 1 21 21 19), some (.add true 3 19 13 2), some (.sub true 1 18 28 5), some (.and true 2 5 18 4), some (.or true 3 27 22 6), some (.xor true 3 19 21 7), some (.andn true 1 18 23 3), some (.shl true 3 7 16 22), some (.shrl true 2 15 19 30), some (.shra true 2 10 8 26)] := by decide

/-- Words written out from the encodings of the opcode table decode to their instructions (R50, R55), part 2. -/
theorem decode_reeve_words_alu_muldiv :
    [0xE0E50309, 0xE0C3AB0A, 0xC0D0640B, 0xA0E5650C, 0xC08BF60D, 0xE0CF5D0E, 0xC0DD940F, 0xE0E9E310, 0xC0C2F611, 0xA0E2E012, 0xE0CEC013, 0xC0DDBD14, 0xA17DEC00, 0xE1120201, 0xC1170802, 0xC17B9003, 0xA13DB204, 0xA16DDC05, 0xE1399606].map (decodeWord 32) =
    [some (.rotl true 3 25 8 3), some (.min true 3 16 29 11), some (.max true 2 20 3 4), some (.minn true 1 25 11 5), some (.maxn true 2 2 31 22), some (.cmpeq true 3 19 26 29), some (.cmpne true 2 23 12 20), some (.cmplt true 3 26 15 3), some (.cmpltn true 2 16 23 22), some (.clz true 1 24 23), some (.popc true 3 19 22), some (.sel true 2 23 13 29), some (.mul true 1 31 15 12), some (.mulh true 3 4 16 2), some (.mulhn true 2 5 24 8), some (.div true 2 30 28 16), some (.divn true 1 15 13 18), some (.rem true 1 27 14 28), some (.remn true 3 14 12 22)] := by decide

/-- Words written out from the encodings of the opcode table decode to their instructions (R50, R55), part 3. -/
theorem decode_reeve_words_imm_load :
    [0xA19465A4, 0xA2590063, 0xE2992906, 0xA33A4BD1, 0xA3DF8021, 0xC4778032, 0xC4B5A007, 0xE534461A, 0xA5BCC385, 0xE60868D7, 0xE6962580, 0xC75000D1, 0xA7828C0B, 0xE827EB1E, 0xC8909B2B, 0xC94209FB, 0xA9930AF7, 0xCA6EE52B, 0xAAFFF0E8].map (decodeWord 32) =
    [some (.addi true 1 5 3 1444), some (.andi true 1 22 8 99), some (.ori true 3 6 9 2310), some (.xori true 1 14 18 3025), some (.shli true 1 23 28 33), some (.shrli true 2 29 28 50), some (.shrai true 2 13 13 7), some (.cmpeqi true 3 13 2 1562), some (.cmplti true 1 15 6 901), some (.limm true 3 2 26839), some (.limms true 3 5 140672), some (.mfsr true 2 20 209), some (.mtsr true 1 20 3083), some (.ldb true 3 9 31 2846), some (.ldh true 2 4 4 6955), some (.ldw true 2 16 16 2555), some (.ldd true 1 4 24 2807), some (.ldws true 2 27 23 1323), some (.stb true 1 31 31 4328)] := by decide

/-- Words written out from the encodings of the opcode table decode to their instructions (R50, R55), part 4. -/
theorem decode_reeve_words_load_amo :
    [0xAB5E5D41, 0xEBAABBA1, 0xEC713097, 0xACB32722, 0xED229A80, 0xCD634881, 0xCD602182, 0xCD1EF483, 0xED33EC84, 0xAD220785, 0xCD53B486, 0xED335587, 0xCD6AF988, 0xADBB5580, 0xEE000000, 0xCE800000, 0xEE800001, 0xEE800002, 0xAE800003].map (decodeWord 32) =
    [some (.sth true 1 23 18 7489), some (.stw true 3 10 21 7073), some (.std true 3 28 9 4247), some (.stf true 1 12 25 1826), some (.amoAdd true 3 8 20 26 true), some (.amoAnd true 2 24 26 8 true), some (.amoOr true 2 24 1 1 true), some (.amoXor true 2 7 23 20 true), some (.amoMin true 3 12 31 12 true), some (.amoMax true 1 8 16 7 true), some (.amoMinn true 2 20 29 20 true), some (.amoMaxn true 3 12 26 21 true), some (.amoSwap true 2 26 23 25 true), some (.cas true 1 14 26 21 true), some (.qalign true 3), some (.fenceCell true 2), some (.fenceQuad true 3), some (.fenceDie true 3), some (.fenceDev true 1)] := by decide

/-- Words written out from the encodings of the opcode table decode to their instructions (R50, R55), part 5. -/
theorem decode_reeve_words_fence_branch :
    [0xAE800004, 0xEE800005, 0xF012B5D7, 0xF0F966D2, 0xF1488621, 0xB1EBE232, 0xF263BC09, 0xD2FE4741, 0xB3002000, 0xB3AA203E, 0xD448006C, 0xB4F8065B, 0xF4800D00, 0xF4941527, 0xD564D403, 0xB518A001, 0xF5600402, 0xD5580007, 0xB5740005].map (decodeWord 32) =
    [some (.fenceSys true 1), some (.fenceMs true 3), some (.br true 3 1226199), some (.beqz true 3 30 91858), some (.bnez true 3 18 34337), some (.bltz true 1 26 254514), some (.bgez true 3 24 244745), some (.call true 2 8275777), some (.jr true 1 1), some (.jtab true 1 10 17 62), some (.mark true 2 18 108), some (.rdvArm true 1 30 6 91), some (.rdvWait true 3 5), some (.rdvAw true 3 5 5 39), some (.fork true 2 25 6 20), some (.forkV true 1 6 5), some (.forkM true 3 24 4), some (.forkE true 2 22), some (.forkEV true 1 29)] := by decide

/-- Words written out from the encodings of the opcode table decode to their instructions (R50, R55), part 6. -/
theorem decode_reeve_words_rdv_ring :
    [0xB51C0006, 0xB5E48000, 0xF5840001, 0xD5AC0002, 0xF5A5E003, 0xF67D0000, 0xF6F7E700, 0xB6B88D01, 0xD70EC800, 0xB79ECA00, 0xB7FEF501, 0xB827A000, 0xD8A31F00, 0xD9760000, 0xF96D0001, 0xF9380002, 0xD9B8EC06, 0xFA302006, 0xDA5C2017].map (decodeWord 32) =
    [some (.forkEM true 1 7), some (.evsetLoad true 1 25 4), some (.evsetZero true 3 1), some (.evsetClear true 2 11), some (.evsetCount true 3 9 15), some (.job true 3 31 8), some (.swinit true 3 29 31 7), some (.swinitZ true 1 14 4 13), some (.swait true 2 3 22 8), some (.swaddCell true 1 7 22 10), some (.swaddQuad true 1 31 23 21), some (.tlook true 1 9 29), some (.tset true 2 8 24 31), some (.tinvSlot true 2 29 16), some (.tinvKey true 3 27 8), some (.tinvAll true 3 14), some (.ringset true 2 14 7 12 6), some (.ringadvP true 3 12 1 6), some (.ringadvC true 2 23 1 7)] := by decide

/-- Words written out from the encodings of the opcode table decode to their instructions (R50, R55), part 7. -/
theorem decode_reeve_words_ring_digest :
    [0xFAD15102, 0xBAF40012, 0xDAA40021, 0xDB64A00E, 0xFB6C0015, 0xBB48002F, 0xFB2C0032, 0xBBEAE000, 0xDC746000, 0xBCD46000, 0xBD538000, 0xBD278001, 0xDD856000, 0xDE50A000, 0xFEDC0000, 0xBE992001, 0xBF1FC005, 0xFF640014].map (decodeWord 32) =
    [some (.csbind true 3 20 10 17 2), some (.csbindU true 1 29 2), some (.csbindR true 2 9 1), some (.cgrp true 2 25 5 14), some (.cgrpD true 3 27 5), some (.cgrpQ true 1 18 15), some (.cgrpL true 3 11 2), some (.cldred true 1 26 23), some (.crot true 2 29 3), some (.cpair true 1 21 3), some (.logapp true 1 20 28), some (.logappA true 1 9 28), some (.logpull true 2 1 11), some (.msupd true 2 20 5), some (.captS true 3 23), some (.captW true 1 6 9), some (.digest true 1 7 30 5), some (.digestN true 3 25 4)] := by decide


/-- Vector words written out from R56, R60 and R65 decode to their instructions, part 1. -/
theorem decode_vector_words_1 :
    [0xe000000000000000000000, 0x10000000000000000000000, 0x20000000000000000bffffd, 0x30000000000000000a00005, 0x40000000000000000a00009, 0x50000000000000000000000, 0x600008a0000840000a000ca, 0x700000000008e0000a00000, 0x70000000000c20000a00001, 0x80000000000820000a00001, 0x90000000000000000a00002, 0xa0000000000000000a00007, 0xb0000000000860000a00000, 0xb0000000000c30000a00001, 0xc1000000000000000a0001f].map (decodeWord 96) =
    [some (.vnop ⟨7, false, false, false, 0, 0, 0, Operand.unused, Operand.unused, Operand.unused⟩), some (.vhalt ⟨0, false, false, false, 0, 0, 0, Operand.unused, Operand.unused, Operand.unused⟩), some (.vbr ⟨0, false, false, false, 0, 0, 0, Operand.unused, Operand.unused, (.imm 2097149)⟩), some (.vbrz ⟨0, false, false, false, 0, 0, 0, Operand.unused, Operand.unused, (.imm 5)⟩), some (.vcall ⟨0, false, false, false, 0, 0, 0, Operand.unused, Operand.unused, (.imm 9)⟩), some (.vret ⟨0, false, false, false, 0, 0, 0, Operand.unused, Operand.unused, Operand.unused⟩), some (.vloop ⟨0, false, false, false, 0, 0, 0, (.xreg 5), (.xreg 2), (.imm 202)⟩), some (.vlexitD ⟨0, false, false, false, 0, 0, 0, Operand.unused, (.xreg 7), (.imm 0)⟩), some (.vlexitI ⟨0, false, false, false, 0, 0, 0, Operand.unused, (.special 2), (.imm 1)⟩), some (.vwait ⟨0, false, false, false, 0, 0, 0, Operand.unused, (.xreg 1), (.imm 1)⟩), some (.vsig ⟨0, false, false, false, 0, 0, 0, Operand.unused, Operand.unused, (.imm 2)⟩), some (.vrdv ⟨0, false, false, false, 0, 0, 0, Operand.unused, Operand.unused, (.imm 7)⟩), some (.vsegOpen ⟨0, false, false, false, 0, 0, 0, Operand.unused, (.xreg 3), (.imm 0)⟩), some (.vsegClose ⟨0, false, false, false, 0, 0, 0, Operand.unused, (.special 3), (.imm 1)⟩), some (.vtrap ⟨0, true, false, false, 0, 0, 0, Operand.unused, Operand.unused, (.imm 31)⟩)] := by decide

/-- Vector words written out from R56, R60 and R65 decode to their instructions, part 2. -/
theorem decode_vector_words_2 :
    [0xd0000000000000000000000, 0xe0000000000000000000000, 0xf0000000000000000a00005, 0x1000008000008200009e0000, 0x110000820000840000a00003, 0x1200008400008600009e0000, 0x130000860000880000a00005, 0x1400008800008a00009e0000, 0x1500008a00008c0000a00007, 0x1600008c00008e00009e0000, 0x170000820000c30000bffffc, 0x170000880000880000a10000, 0x180000860000400000a0003f, 0x190000020040840000920000, 0x1a0000820000000000a00010].map (decodeWord 96) =
    [some (.vppt ⟨0, false, false, false, 0, 0, 0, Operand.unused, Operand.unused, Operand.unused⟩), some (.vqalign ⟨0, false, false, false, 0, 0, 0, Operand.unused, Operand.unused, Operand.unused⟩), some (.vfence ⟨0, false, false, false, 0, 0, 0, Operand.unused, Operand.unused, (.imm 5)⟩), some (.xadd ⟨0, false, false, false, 0, 0, 0, (.xreg 0), (.xreg 1), (.xreg 15)⟩), some (.xsub ⟨0, false, false, false, 0, 0, 0, (.xreg 1), (.xreg 2), (.imm 3)⟩), some (.xmul ⟨0, false, false, false, 0, 0, 0, (.xreg 2), (.xreg 3), (.xreg 15)⟩), some (.xshl ⟨0, false, false, false, 0, 0, 0, (.xreg 3), (.xreg 4), (.imm 5)⟩), some (.xshra ⟨0, false, false, false, 0, 0, 0, (.xreg 4), (.xreg 5), (.xreg 15)⟩), some (.xand ⟨0, false, false, false, 0, 0, 0, (.xreg 5), (.xreg 6), (.imm 7)⟩), some (.xior ⟨0, false, false, false, 0, 0, 0, (.xreg 6), (.xreg 7), (.xreg 15)⟩), some (.xlimm ⟨0, false, false, false, 0, 0, 0, (.xreg 1), (.special 3), (.imm 2097148)⟩), some (.xlimmShift ⟨0, false, false, false, 0, 0, 0, (.xreg 4), (.xreg 4), (.imm 65536)⟩), some (.xget ⟨0, false, false, false, 0, 0, 0, (.xreg 3), (.port 0), (.imm 63)⟩), some (.xput ⟨0, false, false, false, 0, 0, 0, (.tile 0 1 0 1 false 0), (.xreg 2), (.xreg 9)⟩), some (.xfsr ⟨0, false, false, false, 0, 0, 0, (.xreg 1), Operand.unused, (.imm 16)⟩)] := by decide

/-- Vector words written out from R56, R60 and R65 decode to their instructions, part 3. -/
theorem decode_vector_words_3 :
    [0x1b0000a00100840000000000, 0x1c0018820000840000a00001, 0x204801020040142020a7f800, 0x210688700000400000142020, 0x220688700000400000142020, 0x230010020040400000a00003, 0x240010020040400000a00003, 0x250010020040400000a00003, 0x260688700000400000142020, 0x270688700000400000142020, 0x280000020040142020000000, 0x290050020040142020000000, 0x2a0688700000400000142020, 0x2b0688700000400000142020, 0x2c0688700000400000142020].map (decodeWord 96) =
    [some (.xtsr ⟨0, false, false, false, 0, 0, 0, (.imm 256), (.xreg 2), Operand.unused⟩), some (.xcmp ⟨0, false, false, false, 0, 3, 0, (.xreg 1), (.xreg 2), (.imm 1)⟩), some (.vadd ⟨2, false, true, false, 0, 0, 1, (.tile 0 1 0 1 false 0), (.tile 1 2 4 0 true 0), (.imm 522240)⟩), some (.vsub ⟨0, false, false, true, 5, 1, 0, (.port 6), (.port 0), (.tile 1 2 4 0 true 0)⟩), some (.vmul ⟨0, false, false, true, 5, 1, 0, (.port 6), (.port 0), (.tile 1 2 4 0 true 0)⟩), some (.vfma ⟨0, false, false, false, 0, 2, 0, (.tile 0 1 0 1 false 0), (.port 0), (.imm 3)⟩), some (.vfms ⟨0, false, false, false, 0, 2, 0, (.tile 0 1 0 1 false 0), (.port 0), (.imm 3)⟩), some (.vfnma ⟨0, false, false, false, 0, 2, 0, (.tile 0 1 0 1 false 0), (.port 0), (.imm 3)⟩), some (.vmin ⟨0, false, false, true, 5, 1, 0, (.port 6), (.port 0), (.tile 1 2 4 0 true 0)⟩), some (.vmax ⟨0, false, false, true, 5, 1, 0, (.port 6), (.port 0), (.tile 1 2 4 0 true 0)⟩), some (.vabs ⟨0, false, false, false, 0, 0, 0, (.tile 0 1 0 1 false 0), (.tile 1 2 4 0 true 0), Operand.unused⟩), some (.vneg ⟨0, false, false, false, 0, 10, 0, (.tile 0 1 0 1 false 0), (.tile 1 2 4 0 true 0), Operand.unused⟩), some (.vcpys ⟨0, false, false, true, 5, 1, 0, (.port 6), (.port 0), (.tile 1 2 4 0 true 0)⟩), some (.vcmpeq ⟨0, false, false, true, 5, 1, 0, (.port 6), (.port 0), (.tile 1 2 4 0 true 0)⟩), some (.vcmplt ⟨0, false, false, true, 5, 1, 0, (.port 6), (.port 0), (.tile 1 2 4 0 true 0)⟩)] := by decide

/-- Vector words written out from R56, R60 and R65 decode to their instructions, part 4. -/
theorem decode_vector_words_4 :
    [0x2d0688700000400000142020, 0x2e0688700000400000142020, 0x2f0688700000400000142020, 0x300688700000400000142020, 0x310000020040142020a00003, 0x320008020040040000a00004, 0x330040020040142020142020, 0x340000020040142020bfffff, 0x350000020040142020000000, 0x360010020040400000a00003, 0x370000020040142020020040, 0x380000020040142020000000, 0x400038020040142020c00000, 0x410038020040142020c00000, 0x420038020040142020c00000].map (decodeWord 96) =
    [some (.vcmple ⟨0, false, false, true, 5, 1, 0, (.port 6), (.port 0), (.tile 1 2 4 0 true 0)⟩), some (.vcmpne ⟨0, false, false, true, 5, 1, 0, (.port 6), (.port 0), (.tile 1 2 4 0 true 0)⟩), some (.vcmpun ⟨0, false, false, true, 5, 1, 0, (.port 6), (.port 0), (.tile 1 2 4 0 true 0)⟩), some (.vsel ⟨0, false, false, true, 5, 1, 0, (.port 6), (.port 0), (.tile 1 2 4 0 true 0)⟩), some (.vrnd ⟨0, false, false, false, 0, 0, 0, (.tile 0 1 0 1 false 0), (.tile 1 2 4 0 true 0), (.imm 3)⟩), some (.vcvt ⟨0, false, false, false, 0, 1, 0, (.tile 0 1 0 1 false 0), (.tile 0 2 0 0 false 0), (.imm 4)⟩), some (.vdot ⟨0, false, false, false, 0, 8, 0, (.tile 0 1 0 1 false 0), (.tile 1 2 4 0 true 0), (.tile 1 2 4 0 true 0)⟩), some (.vscale ⟨0, false, false, false, 0, 0, 0, (.tile 0 1 0 1 false 0), (.tile 1 2 4 0 true 0), (.imm 2097151)⟩), some (.vexpo ⟨0, false, false, false, 0, 0, 0, (.tile 0 1 0 1 false 0), (.tile 1 2 4 0 true 0), Operand.unused⟩), some (.vclamp ⟨0, false, false, false, 0, 2, 0, (.tile 0 1 0 1 false 0), (.port 0), (.imm 3)⟩), some (.vdiv ⟨0, false, false, false, 0, 0, 0, (.tile 0 1 0 1 false 0), (.tile 1 2 4 0 true 0), (.tile 0 1 0 1 false 0)⟩), some (.vsqrt ⟨0, false, false, false, 0, 0, 0, (.tile 0 1 0 1 false 0), (.tile 1 2 4 0 true 0), Operand.unused⟩), some (.viadd ⟨0, false, false, false, 0, 7, 0, (.tile 0 1 0 1 false 0), (.tile 1 2 4 0 true 0), (.special 0)⟩), some (.visub ⟨0, false, false, false, 0, 7, 0, (.tile 0 1 0 1 false 0), (.tile 1 2 4 0 true 0), (.special 0)⟩), some (.vimul ⟨0, false, false, false, 0, 7, 0, (.tile 0 1 0 1 false 0), (.tile 1 2 4 0 true 0), (.special 0)⟩)] := by decide

/-- Vector words written out from R56, R60 and R65 decode to their instructions, part 5. -/
theorem decode_vector_words_5 :
    [0x430038020040142020c00000, 0x440038020040142020c00000, 0x450038020040142020c00000, 0x460038020040142020c00000, 0x470038020040142020c00000, 0x480038020040142020c00000, 0x490038020040142020c00000, 0x4a0028020040142020000000, 0x4b0028020040142020000000, 0x4c0028020040142020000000, 0x4d0038020040142020c00000, 0x4e0038020040142020c00000, 0x4f0038020040142020c00000, 0x500000020040400000000000, 0x510000020040400000000000].map (decodeWord 96) =
    [some (.vimad ⟨0, false, false, false, 0, 7, 0, (.tile 0 1 0 1 false 0), (.tile 1 2 4 0 true 0), (.special 0)⟩), some (.vand ⟨0, false, false, false, 0, 7, 0, (.tile 0 1 0 1 false 0), (.tile 1 2 4 0 true 0), (.special 0)⟩), some (.vior ⟨0, false, false, false, 0, 7, 0, (.tile 0 1 0 1 false 0), (.tile 1 2 4 0 true 0), (.special 0)⟩), some (.vxor ⟨0, false, false, false, 0, 7, 0, (.tile 0 1 0 1 false 0), (.tile 1 2 4 0 true 0), (.special 0)⟩), some (.vshl ⟨0, false, false, false, 0, 7, 0, (.tile 0 1 0 1 false 0), (.tile 1 2 4 0 true 0), (.special 0)⟩), some (.vshr ⟨0, false, false, false, 0, 7, 0, (.tile 0 1 0 1 false 0), (.tile 1 2 4 0 true 0), (.special 0)⟩), some (.vshra ⟨0, false, false, false, 0, 7, 0, (.tile 0 1 0 1 false 0), (.tile 1 2 4 0 true 0), (.special 0)⟩), some (.vpopc ⟨0, false, false, false, 0, 5, 0, (.tile 0 1 0 1 false 0), (.tile 1 2 4 0 true 0), Operand.unused⟩), some (.vclz ⟨0, false, false, false, 0, 5, 0, (.tile 0 1 0 1 false 0), (.tile 1 2 4 0 true 0), Operand.unused⟩), some (.viabs ⟨0, false, false, false, 0, 5, 0, (.tile 0 1 0 1 false 0), (.tile 1 2 4 0 true 0), Operand.unused⟩), some (.vadds ⟨0, false, false, false, 0, 7, 0, (.tile 0 1 0 1 false 0), (.tile 1 2 4 0 true 0), (.special 0)⟩), some (.vsubs ⟨0, false, false, false, 0, 7, 0, (.tile 0 1 0 1 false 0), (.tile 1 2 4 0 true 0), (.special 0)⟩), some (.vbsel ⟨0, false, false, false, 0, 7, 0, (.tile 0 1 0 1 false 0), (.tile 1 2 4 0 true 0), (.special 0)⟩), some (.vexp2F ⟨0, false, false, false, 0, 0, 0, (.tile 0 1 0 1 false 0), (.port 0), Operand.unused⟩), some (.vexp2R ⟨0, false, false, false, 0, 0, 0, (.tile 0 1 0 1 false 0), (.port 0), Operand.unused⟩)] := by decide

/-- Vector words written out from R56, R60 and R65 decode to their instructions, part 6. -/
theorem decode_vector_words_6 :
    [0x520000020040400000000000, 0x530000020040400000000000, 0x540000020040400000000000, 0x550000020040400000000000, 0x560000020040400000000000, 0x570000020040400000000000, 0x580000020040400000000000, 0x590000020040400000000000, 0x5a0000020040400000000000, 0x5b0000020040400000000000, 0x5c0000020040400000000000, 0x5d0000020040400000000000, 0x5e0000020040400000000000, 0x5f0000020040400000000000, 0x60004f020040100049000000].map (decodeWord 96) =
    [some (.vlog2F ⟨0, false, false, false, 0, 0, 0, (.tile 0 1 0 1 false 0), (.port 0), Operand.unused⟩), some (.vlog2R ⟨0, false, false, false, 0, 0, 0, (.tile 0 1 0 1 false 0), (.port 0), Operand.unused⟩), some (.vrcpF ⟨0, false, false, false, 0, 0, 0, (.tile 0 1 0 1 false 0), (.port 0), Operand.unused⟩), some (.vrcpR ⟨0, false, false, false, 0, 0, 0, (.tile 0 1 0 1 false 0), (.port 0), Operand.unused⟩), some (.vrsqF ⟨0, false, false, false, 0, 0, 0, (.tile 0 1 0 1 false 0), (.port 0), Operand.unused⟩), some (.vrsqR ⟨0, false, false, false, 0, 0, 0, (.tile 0 1 0 1 false 0), (.port 0), Operand.unused⟩), some (.vsinpiF ⟨0, false, false, false, 0, 0, 0, (.tile 0 1 0 1 false 0), (.port 0), Operand.unused⟩), some (.vsinpiR ⟨0, false, false, false, 0, 0, 0, (.tile 0 1 0 1 false 0), (.port 0), Operand.unused⟩), some (.vcospiF ⟨0, false, false, false, 0, 0, 0, (.tile 0 1 0 1 false 0), (.port 0), Operand.unused⟩), some (.vcospiR ⟨0, false, false, false, 0, 0, 0, (.tile 0 1 0 1 false 0), (.port 0), Operand.unused⟩), some (.vtanhF ⟨0, false, false, false, 0, 0, 0, (.tile 0 1 0 1 false 0), (.port 0), Operand.unused⟩), some (.vtanhR ⟨0, false, false, false, 0, 0, 0, (.tile 0 1 0 1 false 0), (.port 0), Operand.unused⟩), some (.vsigmF ⟨0, false, false, false, 0, 0, 0, (.tile 0 1 0 1 false 0), (.port 0), Operand.unused⟩), some (.vsigmR ⟨0, false, false, false, 0, 0, 0, (.tile 0 1 0 1 false 0), (.port 0), Operand.unused⟩), some (.vmov ⟨0, false, false, false, 0, 9, 7, (.tile 0 1 0 1 false 0), (.tile 1 0 0 1 false 9), Operand.unused⟩)] := by decide

/-- Vector words written out from R56, R60 and R65 decode to their instructions, part 7. -/
theorem decode_vector_words_7 :
    [0x610048020040142020a0003f, 0x620048020040142020020040, 0x630048020040142020bfffc1, 0x640000060000142800000000, 0x650018020040142020000000, 0x660008a00003142020000000, 0x670000020040a0001b000000, 0x680020020040142020000000, 0x690048020040142020c30000, 0x6a0020020040a00002820000, 0x6b0018020040a00002820000, 0x700000000000020040000000, 0x710000000000000000000000, 0x720000000000000000000000, 0x730000000000020040000000].map (decodeWord 96) =
    [some (.vbcast ⟨0, false, false, false, 0, 9, 0, (.tile 0 1 0 1 false 0), (.tile 1 2 4 0 true 0), (.imm 63)⟩), some (.vperm ⟨0, false, false, false, 0, 9, 0, (.tile 0 1 0 1 false 0), (.tile 1 2 4 0 true 0), (.tile 0 1 0 1 false 0)⟩), some (.vrot ⟨0, false, false, false, 0, 9, 0, (.tile 0 1 0 1 false 0), (.tile 1 2 4 0 true 0), (.imm 2097089)⟩), some (.vsum ⟨0, false, false, false, 0, 0, 0, (.tile 0 3 0 0 false 0), (.tile 1 2 5 0 false 0), Operand.unused⟩), some (.vmaxr ⟨0, false, false, false, 0, 3, 0, (.tile 0 1 0 1 false 0), (.tile 1 2 4 0 true 0), Operand.unused⟩), some (.vamax ⟨0, false, false, false, 0, 1, 0, (.imm 3), (.tile 1 2 4 0 true 0), Operand.unused⟩), some (.vamrd ⟨0, false, false, false, 0, 0, 0, (.tile 0 1 0 1 false 0), (.imm 27), Operand.unused⟩), some (.vscan ⟨0, false, false, false, 0, 4, 0, (.tile 0 1 0 1 false 0), (.tile 1 2 4 0 true 0), Operand.unused⟩), some (.vcomp ⟨0, false, false, false, 0, 9, 0, (.tile 0 1 0 1 false 0), (.tile 1 2 4 0 true 0), (.special 3)⟩), some (.vrng ⟨0, false, false, false, 0, 4, 0, (.tile 0 1 0 1 false 0), (.imm 2), (.xreg 1)⟩), some (.vnoise ⟨0, false, false, false, 0, 3, 0, (.tile 0 1 0 1 false 0), (.imm 2), (.xreg 1)⟩), some (.mpush ⟨0, false, false, false, 0, 0, 0, Operand.unused, (.tile 0 1 0 1 false 0), Operand.unused⟩), some (.minv ⟨0, false, false, false, 0, 0, 0, Operand.unused, Operand.unused, Operand.unused⟩), some (.mpop ⟨0, false, false, false, 0, 0, 0, Operand.unused, Operand.unused, Operand.unused⟩), some (.mand ⟨0, false, false, false, 0, 0, 0, Operand.unused, (.tile 0 1 0 1 false 0), Operand.unused⟩)] := by decide

/-- Vector words written out from R56, R60 and R65 decode to their instructions, part 8. -/
theorem decode_vector_words_8 :
    [0x740000820000a00001000000, 0x750000000000820000a00001, 0x780048020040820000bffffc, 0x790048020040820000bffffc, 0x7a0048020040820000bffffc, 0x7b0048020040820000bffffc, 0x7c0050020040820000142020, 0x7d0000020040820000142020, 0x7e0000400000860000a00000, 0x7f0000780000000000a00001, 0xf30000040000020000c30000].map (decodeWord 96) =
    [some (.mrd ⟨0, false, false, false, 0, 0, 0, (.xreg 1), (.imm 1), Operand.unused⟩), some (.mset ⟨0, false, false, false, 0, 0, 0, Operand.unused, (.xreg 1), (.imm 1)⟩), some (.vld ⟨0, false, false, false, 0, 9, 0, (.tile 0 1 0 1 false 0), (.xreg 1), (.imm 2097148)⟩), some (.vst ⟨0, false, false, false, 0, 9, 0, (.tile 0 1 0 1 false 0), (.xreg 1), (.imm 2097148)⟩), some (.vldg ⟨0, false, false, false, 0, 9, 0, (.tile 0 1 0 1 false 0), (.xreg 1), (.imm 2097148)⟩), some (.vstg ⟨0, false, false, false, 0, 9, 0, (.tile 0 1 0 1 false 0), (.xreg 1), (.imm 2097148)⟩), some (.vgath ⟨0, false, false, false, 0, 10, 0, (.tile 0 1 0 1 false 0), (.xreg 1), (.tile 1 2 4 0 true 0)⟩), some (.vscat ⟨0, false, false, false, 0, 0, 0, (.tile 0 1 0 1 false 0), (.xreg 1), (.tile 1 2 4 0 true 0)⟩), some (.portcfg ⟨0, false, false, false, 0, 0, 0, (.port 0), (.xreg 3), (.imm 0)⟩), some (.portrst ⟨0, false, false, false, 0, 0, 0, (.port 7), Operand.unused, (.imm 1)⟩), some (.cxn 3 ⟨0, false, false, false, 0, 0, 0, (.tile 0 2 0 0 false 0), (.tile 0 1 0 0 false 0), (.special 3)⟩)] := by decide

/-- Matrix words written out from R66 to R68 decode to their instructions, part 1. -/
theorem decode_matrix_words_1 :
    [0x0, 0x10000000000000000000000000000000000000000000000, 0x200000000000000000000000000000000000000fffffffe, 0x300000000007000000000000000000000000000ffffffff, 0x40000000000000000000000090000000000000000000400, 0x500000000000000000000000000000000000000000000ff, 0x60000000000000000000000000000000000000000000007, 0x70000000000000000000000050000000600000000000000, 0x70000000000000000000000000000000000000000000001, 0x100000010000000001000000020000000100000000000400, 0x11003020000bf00000000000000000000000000000000000, 0x110714000000003000000000000000000000000000000000, 0x110118120000000000000000000000000000000000000000].map (decodeWord 192) =
    [some (.mnop ⟨0, 0, 0, 0, 0, 0, 0, 0, 0, 0, 0, 0, 0, 0⟩), some (.mhalt ⟨0, 0, 0, 0, 0, 0, 0, 0, 0, 0, 0, 0, 0, 0⟩), some (.mbr ⟨0, 0, 0, 0, 0, 0, 0, 0, 0, 0, 0, 0, 0, 4294967294⟩), some (.mloop ⟨0, 0, 0, 0, 0, 0, 7, 0, 0, 0, 0, 0, 0, 4294967295⟩), some (.mwait ⟨0, 0, 0, 0, 0, 0, 0, 0, 0, 0, 9, 0, 0, 1024⟩), some (.msig ⟨0, 0, 0, 0, 0, 0, 0, 0, 0, 0, 0, 0, 0, 255⟩), some (.mrdv ⟨0, 0, 0, 0, 0, 0, 0, 0, 0, 0, 0, 0, 0, 7⟩), some (.msegOpen ⟨0, 0, 0, 0, 0, 0, 0, 0, 0, 0, 5, 6, 0, 0⟩), some (.msegClose ⟨0, 0, 0, 0, 0, 0, 0, 0, 0, 0, 0, 0, 0, 1⟩), some (.mloadw ⟨0, 0, 0, 0, 1, 0, 0, 0, 0, 1, 2, 1, 0, 1024⟩), some (.mstepRow ⟨0, 3, 0, 2, 0, 0, 191, 0, 0, 0, 0, 0, 0, 0⟩), some (.mstepCol ⟨7, 1, 4, 0, 0, 0, 0, 3, 0, 0, 0, 0, 0, 0⟩), some (.mstepOuter ⟨1, 1, 8, 1, 2, 0, 0, 0, 0, 0, 0, 0, 0, 0⟩)] := by decide

/-- Matrix words written out from R66 to R68 decode to their instructions, part 2. -/
theorem decode_matrix_words_2 :
    [0x11000c00000000002000000001000000020000033f800000, 0x12001211ffc0500000000000000000000000000000000000, 0x13084f3000000ff000000000000000000000000080000000, 0x140000000000309000000000000000000000000000000008, 0x150000000140900000000000000000000000000000000000, 0x1b0000000000000000000000000000000000000000000000, 0x160000000000000f00000000000000000000000000000001, 0x170010100000100200000000000000000000000000000000, 0x180000110000000000000004400000000300000000000400, 0x190000000000000000000000000000000000000000000000, 0x1a100200000070000000000000000000000000003f800000, 0x1c0000000000000000000000000000000000000000000002].map (decodeWord 192) =
    [some (.mstepSamp ⟨0, 0, 12, 0, 0, 0, 0, 0, 0, 32, 1, 2, 3, 1065353216⟩), some (.mouter ⟨0, 1, 2, 1, 1, 1023, 5, 0, 0, 0, 0, 0, 0, 0⟩), some (.mdrain ⟨8, 4, 15, 3, 0, 0, 0, 255, 0, 0, 0, 0, 0, 2147483648⟩), some (.mscld ⟨0, 0, 0, 0, 0, 0, 3, 9, 0, 0, 0, 0, 0, 8⟩), some (.mzero ⟨0, 0, 0, 0, 0, 5, 9, 0, 0, 0, 0, 0, 0, 0⟩), some (.mswap ⟨0, 0, 0, 0, 0, 0, 0, 0, 0, 0, 0, 0, 0, 0⟩), some (.mnset ⟨0, 0, 0, 0, 0, 0, 0, 0, 15, 0, 0, 0, 0, 1⟩), some (.mnest ⟨0, 1, 0, 1, 0, 0, 1, 0, 2, 0, 0, 0, 0, 0⟩), some (.mnorm ⟨0, 0, 0, 1, 1, 0, 0, 0, 0, 0, 1088, 3, 0, 1024⟩), some (.malias ⟨0, 0, 0, 0, 0, 0, 0, 0, 0, 0, 0, 0, 0, 0⟩), some (.msamp ⟨16, 0, 2, 0, 0, 0, 7, 0, 0, 0, 0, 0, 0, 1065353216⟩), some (.mstat ⟨0, 0, 0, 0, 0, 0, 0, 0, 0, 0, 0, 0, 0, 2⟩)] := by decide

/-- Micro-op words written out from R329 and R331 decode to their instructions, part 1. -/
theorem decode_uop_words_1 :
    [0x0, 0x410950200000000, 0x810950200000000, 0xc10950200000000, 0x104ff63800000000, 0x144ff63800000000, 0x184ff63800000000, 0x1c10950200000000, 0x2010950200000000, 0x2410900200000000, 0x2810900200000000, 0x2c10950200000000, 0x3002218000000004, 0x3410950200000000, 0x3802200000000003, 0x3c42200000000050, 0x408ff63800000000, 0x4410950200000000, 0x4810900200000000, 0x4c4ff63800000000, 0x520ff60000000000].map (decodeWord 64) =
    [some (.unop ⟨0, 0, 0, 0, 0, false, 0⟩), some (.uadd ⟨0, 8, 9, 10, 0, true, 0⟩), some (.usub ⟨0, 8, 9, 10, 0, true, 0⟩), some (.umul ⟨0, 8, 9, 10, 0, true, 0⟩), some (.ufma ⟨1, 7, 31, 12, 14, false, 0⟩), some (.ufms ⟨1, 7, 31, 12, 14, false, 0⟩), some (.ufnma ⟨1, 7, 31, 12, 14, false, 0⟩), some (.umin ⟨0, 8, 9, 10, 0, true, 0⟩), some (.umax ⟨0, 8, 9, 10, 0, true, 0⟩), some (.uabs ⟨0, 8, 9, 0, 0, true, 0⟩), some (.uneg ⟨0, 8, 9, 0, 0, true, 0⟩), some (.ucpys ⟨0, 8, 9, 10, 0, true, 0⟩), some (.ucmp ⟨0, 1, 2, 3, 0, false, 4⟩), some (.usel ⟨0, 8, 9, 10, 0, true, 0⟩), some (.urnd ⟨0, 1, 2, 0, 0, false, 3⟩), some (.ucvt ⟨1, 1, 2, 0, 0, false, 80⟩), some (.udot ⟨2, 7, 31, 12, 14, false, 0⟩), some (.uscale ⟨0, 8, 9, 10, 0, true, 0⟩), some (.uexpo ⟨0, 8, 9, 0, 0, true, 0⟩), some (.uclamp ⟨1, 7, 31, 12, 14, false, 0⟩), some (.uiadd ⟨8, 7, 31, 12, 0, false, 0⟩)] := by decide

/-- Micro-op words written out from R329 and R331 decode to their instructions, part 2. -/
theorem decode_uop_words_2 :
    [0x560ff60000000000, 0x5a0ff60000000000, 0x5dcff63800000000, 0x620ff60000000000, 0x660ff60000000000, 0x6a0ff60000000000, 0x6e0ff60000000000, 0x720ff60000000000, 0x760ff60000000000, 0x78c2d00000000000, 0x7cc2d00000000000, 0x80c2d00000000000, 0x860ff60000000000, 0x8a0ff60000000000, 0x8dcff63800000000, 0x924220000000003f, 0x964220000000003f, 0x9a42250000000000, 0x9d02200000000000, 0xa102200000000000, 0xa400b01400000009].map (decodeWord 64) =
    [some (.uisub ⟨8, 7, 31, 12, 0, false, 0⟩), some (.uimul ⟨8, 7, 31, 12, 0, false, 0⟩), some (.uimad ⟨7, 7, 31, 12, 14, false, 0⟩), some (.uand ⟨8, 7, 31, 12, 0, false, 0⟩), some (.uior ⟨8, 7, 31, 12, 0, false, 0⟩), some (.uxor ⟨8, 7, 31, 12, 0, false, 0⟩), some (.ushl ⟨8, 7, 31, 12, 0, false, 0⟩), some (.ushr ⟨8, 7, 31, 12, 0, false, 0⟩), some (.ushra ⟨8, 7, 31, 12, 0, false, 0⟩), some (.upopc ⟨3, 1, 13, 0, 0, false, 0⟩), some (.uclz ⟨3, 1, 13, 0, 0, false, 0⟩), some (.uiabs ⟨3, 1, 13, 0, 0, false, 0⟩), some (.uadds ⟨8, 7, 31, 12, 0, false, 0⟩), some (.usubs ⟨8, 7, 31, 12, 0, false, 0⟩), some (.ubsel ⟨7, 7, 31, 12, 14, false, 0⟩), some (.urot ⟨9, 1, 2, 0, 0, false, 63⟩), some (.ubcast ⟨9, 1, 2, 0, 0, false, 63⟩), some (.uperm ⟨9, 1, 2, 10, 0, false, 0⟩), some (.usum ⟨4, 1, 2, 0, 0, false, 0⟩), some (.umaxr ⟨4, 1, 2, 0, 0, false, 0⟩), some (.uloop ⟨0, 0, 11, 0, 5, false, 9⟩)] := by decide

/-- Micro-op words written out from R329 and R331 decode to their instructions, part 3. -/
theorem decode_uop_words_3 :
    [0xa800000000000000, 0xac00000000000103, 0xb000300000000000, 0xb400000000000000, 0xb800000000000000, 0xc010900200000000, 0xc410900200000000, 0xc810900200000000, 0xcc10900200000000, 0xd010900200000000, 0xd410900200000000, 0xd810900200000000, 0xdc10900200000000, 0xe010900200000000, 0xe410900200000000, 0xe810900200000000, 0xec10900200000000, 0xf010900200000000, 0xf410900200000000, 0xf810900200000000, 0xfc10900200000000].map (decodeWord 64) =
    [some (.ulend ⟨0, 0, 0, 0, 0, false, 0⟩), some (.uskip ⟨0, 0, 0, 0, 0, false, 259⟩), some (.umpush ⟨0, 0, 3, 0, 0, false, 0⟩), some (.umpop ⟨0, 0, 0, 0, 0, false, 0⟩), some (.uminv ⟨0, 0, 0, 0, 0, false, 0⟩), some (.uexp2F ⟨0, 8, 9, 0, 0, true, 0⟩), some (.uexp2R ⟨0, 8, 9, 0, 0, true, 0⟩), some (.ulog2F ⟨0, 8, 9, 0, 0, true, 0⟩), some (.ulog2R ⟨0, 8, 9, 0, 0, true, 0⟩), some (.urcpF ⟨0, 8, 9, 0, 0, true, 0⟩), some (.urcpR ⟨0, 8, 9, 0, 0, true, 0⟩), some (.ursqF ⟨0, 8, 9, 0, 0, true, 0⟩), some (.ursqR ⟨0, 8, 9, 0, 0, true, 0⟩), some (.usinpiF ⟨0, 8, 9, 0, 0, true, 0⟩), some (.usinpiR ⟨0, 8, 9, 0, 0, true, 0⟩), some (.ucospiF ⟨0, 8, 9, 0, 0, true, 0⟩), some (.ucospiR ⟨0, 8, 9, 0, 0, true, 0⟩), some (.utanhF ⟨0, 8, 9, 0, 0, true, 0⟩), some (.utanhR ⟨0, 8, 9, 0, 0, true, 0⟩), some (.usigmF ⟨0, 8, 9, 0, 0, true, 0⟩), some (.usigmR ⟨0, 8, 9, 0, 0, true, 0⟩)] := by decide


end Sys2Proof
end

