-- ==== Sys2Proof/Config.lean ====
section
/-! DEFINITION. What an implementation fixes, and the free values: constants without a body, so that nothing in Lean can
evaluate them or prove a value of them. The log entries that declare them are named beside them. -/

namespace Sys2Proof

/-- What the other member of a redundant pair does (R265). -/
inductive Partner where
  | goes
  | stops
  /-- it stops at a word with a trap -/
  | traps
  /-- it freezes: cause code, engine and value of the first-fault record -/
  | freezes (code eng : Nat) (value : BitVec 64)
  deriving DecidableEq, Repr, Inhabited

/-- Whose cycle or which event comes next (log 8). -/
inductive Turn where
  /-- one cycle of Reeve cluster `c` -/
  | cluster (c : Fin 4)
  /-- one cycle of the vector sequencer -/
  | vector
  /-- one cycle of the matrix sequencer -/
  | matrix
  /-- one cycle of the custom unit -/
  | custom
  /-- entry `k` of store queue `q` (0 to 3 the clusters, 4 the vector sequencer) becomes visible at cell scope (R297) -/
  | storeCell (q k : Nat)
  /-- entry `k` of the stores visible at cell scope becomes visible at the next wider scope: quad, then die (R297) -/
  | storeWide (k : Nat)
  /-- entry `k` of the stores visible at cell scope is performed at its home (R297) -/
  | storeHome (k : Nat)
  /-- the router sends what waits at a port for a buffer of the neighbour (R354) -/
  | port (p : Fin 24)
  /-- the router completes the copy of the route table (R347) -/
  | routes
  /-- the other member of a redundant pair stops, goes on or freezes (R265) -/
  | partner (does : Partner)
  /-- the host gives BAR2 another size (R415) -/
  | resizeBar (bits : Nat)
  /-- the rebuild of a context that has begun ends the context's launches (R409) -/
  | rebuild (ctx : Nat)
  /-- an event of the opcode table -/
  | event (i : Instr)
  deriving DecidableEq, Repr, Inhabited

/-- A turn, with the number of cycles of the cell's clock that pass before it (R22). -/
structure Slot where
  turn : Turn
  cycles : Nat
  deriving DecidableEq, Repr, Inhabited

namespace Config

/-- Who moves when the agenda is empty: free (log 8). -/
opaque pick : Nat → Slot

/-- A free word, fresh for each index (log 9). -/
opaque freeWord : Nat → BitVec 64

/-- A free choice among `n` candidates: the index is taken modulo the number of candidates (log 9). -/
opaque freeIndex : Nat → Nat

/-- Which of the contents that a 4-byte part has had since the launch was posted a fetch in a cycle sees (R49): free (log 9). -/
opaque fetchPick : Nat → Nat → Nat

/-- Which of the contents that a 4-byte lane has had since a memory-side command changed it an access of an engine in a cycle
sees (R305): free (log 9). -/
opaque laneSeen : Nat → Nat → Nat → Nat

/-- The word of the digest area that holds a node of the tree of P pages, by level and number: free (log 40). -/
opaque digestPlace : Nat → Nat → Nat → Nat

/-- The f32 that the fast form of function number `fn` (R65 order, VEXP2 0 to VSIGM 7) gives for an input: free within
the bound of R40 (log 20). -/
opaque fastForm : Nat → BitVec 32 → BitVec 32

/-- The FA40 that the array gives for a list of exact terms, each `mant * 2^exp`: free within the bound of R37, and one
value for one list, as R39 promises (log 21). -/
opaque arraySum : List (Int × Int) → BitVec 40

/-- Initial contents of host memory that nothing has written (log 2). -/
def hostByte : BitVec 8 := 0

/-- Stepping of the part, bits [23:16] of PARTID: PRESUMED (log 7). -/
def stepping : BitVec 8 := 0

/-- Physical cell number of the modelled cell within the device: one cell is modelled in full (log 14). -/
def cellNo : Nat := 0

/-! ### Keys and seals (R411, R413, R416 to R418)

The spec names AES-256-GCM, ECDSA P-521 with SHA-512 and the PUF's reconstruction and gives none of their functions: each is a free
function of what it is applied to (log 135). -/

/-- Byte `i` of the 4 KiB SRAM PUF: free, every part has its own (log 7). -/
opaque pufByte : Nat → BitVec 8

/-- The PUF. -/
def puf : List (BitVec 8) := (List.range 4096).map pufByte

/-- The helper data in the part's module flash. -/
opaque helper : List (BitVec 8)

/-- The private key that the PUF and helper data give. -/
opaque privateKey : List (BitVec 8) → List (BitVec 8) → BitVec 521

/-- X and Y of the public key of a private key. -/
opaque publicKey : BitVec 521 → BitVec 521 × BitVec 521

/-- The ECDSA P-521 signature with SHA-512 of bytes under the Aedken key. -/
opaque aedkenSign : List (BitVec 8) → List (BitVec 8)

/-- The bytes of a configuration record before its signature, from its key, spare cells, voltage table and repairs: the spec gives
them no layout. -/
opaque recordBytes : List (BitVec 8) → List Nat → List (Nat × Nat) → List Nat → List (BitVec 8)

/-- What a DRAM training writes. -/
opaque trainData : Nat → List (BitVec 8)

/-- The MAC of a training record under the key that the PUF gives. -/
opaque trainMac : BitVec 521 → List (BitVec 8) → List (BitVec 8)

/-- The key stream of AES-256-GCM under a key and a nonce. -/
opaque gcmStream : BitVec 256 → List (BitVec 8) → List (BitVec 8)

/-- The tag of AES-256-GCM under a key and a nonce, of additional data and ciphertext. -/
opaque gcmTag : BitVec 256 → List (BitVec 8) → List (BitVec 8) → List (BitVec 8) → List (BitVec 8)

/-- The payload of the flit that carries a packet, from the packet's fields: the spec gives it no layout. -/
opaque packetPayload : List Nat → List (BitVec 8)

/-- Whether byte `i` of the register part of a save frame is in use; the others hold zero. The spec gives the part no layout:
free (log 9). -/
opaque saveUsed : Nat → Bool

end Config

end Sys2Proof
end

