-- ==== Sys2Proof/Machine/State.lean ====
section
/-! DEFINITION. The state of the machine as plain data, holding every piece of state the spec gives one cell and the
device around it (INVENTORY.md lists them), with the reasons a step can stop and the state after a cold start. -/

namespace Sys2Proof.Machine

open Sys2Proof

/-- Why a step stops with a fault. -/
inductive Fault where
  /-- raised by a host access through BAR2 at or above 768 GiB, where no DRAM exists (R415, R8); safe: no state goes on -/
  | barHole
  deriving DecidableEq, Repr

/-- Why an instruction has no meaning. -/
inductive Refusal where
  /-- raised by exec's arm of an instruction whose meaning is not written; safe: the machine stops -/
  | notModelled (mnemonic : String)
  deriving DecidableEq, Repr

/-- A map from numbers to values in one canonical form: keys strictly rising, no entry equal to the default. -/
abbrev Sparse (α : Type) := List (Nat × α)

/-! ### Reeve -/

/-- A result on its way to a register, and the cycles until it can be read: a fixed-latency result, or a write of a g register,
which is seen from the next cycle on (R51, R76, R77). -/
structure Pend where
  reg : BitVec 5
  val : Word
  /-- the poison bit that it brings (R89) -/
  mark : Bool
  left : Nat
  deriving DecidableEq, Repr

/-- A load in a cluster's load queue, already translated (R87, R299). -/
structure LoadEnt where
  dest : BitVec 5
  size : Nat
  sext : Bool
  loc : Nat
  /-- the page is of type device (R301) -/
  dev : Bool
  seq : Nat
  deriving DecidableEq, Repr

/-- A store in a store queue: the bytes it writes at their homes. Entries of one queue with one group number become
visible in any order among themselves (R299). -/
structure StoreEnt where
  q : Nat
  grp : Nat
  wc : Bool
  dev : Bool
  seq : Nat
  /-- an STF: it becomes visible only after every store that it must follow (R88, R300) -/
  stf : Bool
  /-- queues of the cell whose engine has read bytes of it (R300) -/
  seen : List Nat
  /-- barriers of the queue that stood before it: a write-combining store never passes one (R301) -/
  bar : Nat
  /-- the scope at which it is visible: 0 cell, 1 quad, 2 die; at its home it is visible at all (R297) -/
  vis : Nat
  /-- DRAM sectors that the stores of its word cover as a whole (R397) -/
  whole : List Nat := []
  cells : List Host.Cell
  deriving DecidableEq, Repr

/-- An open segment (R262). -/
structure Seg where
  opened : Bool
  voided : Bool
  count : BitVec 32
  crc : BitVec 32
  expCount : BitVec 32
  expCrc : BitVec 32
  deriving DecidableEq, Repr

/-- Status of an engine in the composite record (R249). -/
inductive EngStat where
  | halted | issuing | waiting | parked | faulted
  deriving DecidableEq, Repr

/-- Wait kind of an engine in the composite record (R249). -/
inductive WaitKind where
  | none | wfe | sync | rendezvous | port | scoreboard | fence
  deriving DecidableEq, Repr

/-- A packet that was sent and whose response or acknowledgement is awaited, named by its stream, path and sequence. -/
structure PktId where
  q : Nat
  dev : Nat
  epoch : Nat
  path : Nat
  seq : Nat
  deriving DecidableEq, Repr

/-- A response: whether the request was performed, its bytes, and the places of those that carry poison (R281, R350, R397). -/
structure Resp where
  ok : Bool
  bs : List Byte
  pois : List Nat
  deriving DecidableEq, Repr

/-- A CSLOAD that has issued and waits until its bank is free: bank, version, the words of an image that passed the verifier, the
status, and the destination (R327). -/
structure CsWait where
  bank : Nat
  ver : Nat
  words : Option (List Nat)
  status : Nat
  dest : BitVec 5
  /-- how many words the verifier looks at, one a cycle -/
  count : Nat
  /-- cycles until `dest` is written, once the bank is free and its tag invalid -/
  left : Option Nat
  deriving DecidableEq, Repr

/-- A global request of a held word, with the response once it has come (R87, R367). -/
structure GReq where
  id : PktId
  kind : Nat
  size : Nat
  va : Nat
  answer : Option Resp
  deriving DecidableEq, Repr

/-- One Reeve cluster (R75). -/
structure Cluster where
  pc : BitVec 48
  /-- s1 to s23; s0 reads as zero and is not held (R51) -/
  s : Vector Word 23
  sPoison : Vector Bool 23
  /-- supervisor mode -/
  sup : Bool
  wake : Bool
  active : Bool
  tcause : Word
  tpc : BitVec 48
  tval : Word
  /-- resume PC for a trap delegated from another engine (R84, R107) -/
  tcpc : BitVec 48
  pend : List Pend
  loads : List LoadEnt
  stores : List StoreEnt
  /-- number given to the next queue entry: program order across the two queues (R301) -/
  seqCtr : Nat
  /-- the queues must be realigned before the next word issues (R92, R301) -/
  realign : Bool
  /-- barriers that the cluster's words have put into its store queue (R301) -/
  bar : Nat
  /-- idle cycles of W still to pass (R54) -/
  gap : Nat
  seg : Seg
  stat : EngStat
  wait : WaitKind
  greq : List GReq
  /-- the RDV.AW at the PC has armed its register and waits (R224) -/
  rdvArmed : Bool
  /-- g registers and their marks as the held word read them when it sent its first global request, and that word (R367, log 11) -/
  gHeld : Option ((Vector Word 8 × Vector Bool 8) × Nat)
  /-- a CSLOAD that waits for its bank -/
  csl : Option CsWait
  deriving DecidableEq, Repr

/-- A trap of the vector or matrix stream, or a control-store miss, on its way to c0 (R107). -/
structure Delegated where
  eng : Nat
  code : Nat
  info : Nat
  tpc : BitVec 48
  tval : Word
  /-- the frame stays as it is: a resumption was refused (R197, R343) -/
  keep : Bool
  deriving DecidableEq, Repr

/-! ### Shared structures of the cell -/

/-- A ring (R209). -/
structure Ring where
  cfg : Bool
  base : Nat
  size : Nat
  cap : Nat
  head : Nat
  tail : Nat
  count : Nat
  deriving DecidableEq, Repr

/-- A rendezvous register (R224). -/
structure Rdv where
  mask : BitVec 5
  m : BitVec 8
  armed : Bool
  fired : Bool
  deriving DecidableEq, Repr

/-- A queued marker: the engine (0 copy, 1 collective, 2 Menders), the number, and the commands ahead of it that have
not completed (R222, R223). -/
structure QMark where
  eng : Nat
  m : BitVec 8
  ahead : List Nat
  deriving DecidableEq, Repr

/-- A term of the sluice board (R230, R231). -/
structure Term where
  masks : Vector (BitVec 16) 4
  out : BitVec 32
  deriving DecidableEq, Repr

/-- The sluice board (R227 to R231). -/
structure Sluice where
  src : Vector (BitVec 32) 32
  watch : Vector (BitVec 64) 8
  cnt : Vector (BitVec 32) 16
  counts : Vector (BitVec 32) 16
  spent : BitVec 16
  terms : Vector Term 8
  /-- pulses that have not reached their counters: source kind and parameter, in order (R227) -/
  pulses : List (Nat × Nat)
  /-- output words of terms that have fired and have not acted, in order (R227) -/
  outs : List (BitVec 32)
  tokens : Vector Nat 8
  collTokens : Nat
  deriving DecidableEq, Repr

/-- What a word or a job reads of the cell when it issues and uses until it is done: attribute entries and format descriptors (R83,
R202). -/
structure Snap where
  spa : Sparse (BitVec 32)
  fd : Vector Word 16
  deriving DecidableEq, Repr

/-- Bytes of another device that a job has asked for by a load packet, with the response once it has come (R350). -/
structure JobAsk where
  id : PktId
  ea : Word
  answer : Option Resp
  deriving DecidableEq, Repr

/-- Bytes of another device that a job is to write: the device, the address and the bytes of one packet (R350). -/
structure JobPut where
  dev : Nat
  va : Nat
  data : List Byte
  deriving DecidableEq, Repr

/-- An admitted job (R237 to R242). -/
structure Job where
  adm : Nat
  card : List Byte
  ext : List Byte
  sup : Bool
  /-- observations of memory-side completions when its word issued (R305) -/
  obs : Nat
  /-- attribute entries, descriptors, seed register and ps7 as read at admission (R83, R202, R239) -/
  snap : Snap
  seed : Word
  ps7 : Word
  deps : List Nat
  released : Bool
  started : Bool
  /-- elements done -/
  done : Nat
  /-- global reads of the chunk, global writes not yet sent, and those not yet acknowledged -/
  asks : List JobAsk
  puts : List JobPut
  acks : List PktId
  /-- destination bytes written and not yet counted at the sync word -/
  wait : Nat
  complete : Bool
  /-- its task has been killed: it ends at its next chunk boundary (R14) -/
  stopping : Bool
  /-- stores of the issuing cluster that came before the JOB and are not yet visible are waited for up to this number -/
  cluster : Fin 4
  upto : Nat
  deriving DecidableEq, Repr

/-- A command of the collective port (R357 to R364, R380). -/
structure Coll where
  adm : Nat
  /-- 0 CLDRED, 1 CROT, 2 CPAIR, 3 LOGPULL -/
  kind : Nat
  blk : List Byte
  sup : Bool
  cluster : Fin 4
  upto : Nat
  released : Bool
  started : Bool
  /-- members in rank order and own rank, as the group stood at the start -/
  members : List Nat
  rank : Nat
  call : Nat
  hash : BitVec 32
  /-- presence: reports still awaited, by rank -/
  awaiting : List Nat
  absent : List Nat
  /-- a GO verdict has been taken -/
  verdict : Bool
  /-- values received, by 2^24 * rank + element, and the chunks (rank, chunk) received; of a rotation, the own block once it is sent -/
  sums : Sparse (BitVec 32)
  got : List (Nat × Nat)
  /-- CLDRED: chunks of the own sum formed; CROT: blocks placed -/
  steps : Nat
  /-- CLDRED: chunks of the destination written -/
  wrote : Nat
  /-- CROT: blocks received and not yet placed, by origin -/
  inbox : List (Nat × List Byte)
  /-- LOGPULL: positions asked and not answered, and the positions listed at the start -/
  asked : List (Nat × Nat)
  listed : List (Nat × Nat)
  /-- CPAIR: ranks that have neither acknowledged nor been found absent -/
  ranks : List Nat
  gone : Bool
  failed : Bool
  mismatch : Bool
  settled : Bool
  /-- cause code and value of the first fault that its completion brings -/
  cause : Option (Nat × Word)
  deriving DecidableEq, Repr

/-- A presence request that waits until the call starts (R368). -/
structure PresReq where
  ctx : Nat
  g : Nat
  hash : Nat
  call : Nat
  rank : Nat
  kind : Nat
  /-- the fields that the call's rule matches: E, or s and B as s + 2^32 * B (R356, R360, R363) -/
  elems : Nat
  out32 : Bool
  /-- the device that asks -/
  src : Nat
  deriving DecidableEq, Repr

/-- A command of the Menders port (R381 to R386). -/
structure Mend where
  adm : Nat
  card : List Byte
  sup : Bool
  released : Bool
  started : Bool
  /-- elements done, in row-major order -/
  pos : Nat
  skipped : Nat
  /-- the vote state read at admission refuses the command, with its step (R388) -/
  vote : Option Nat
  failed : Bool
  settled : Bool
  cause : Option (Nat × Word)
  deriving DecidableEq, Repr

/-- A cell-TLB entry (R290): the leaf of a 64 KiB or 2 MiB page. -/
structure TlbEnt where
  ctx : Nat
  big : Bool
  vpn : Nat
  leaf : BitVec 64
  deriving DecidableEq, Repr

/-- The task bound to the cell (R11, R314, R316). -/
structure Task where
  q : Nat
  num : Nat
  ctx : Nat
  cellId : Nat
  quadId : Nat
  dieId : Nat
  stage : Nat
  /-- positions within the quad of the gang's cells, in CELLID order (R12) -/
  mates : List Nat
  reevePc : BitVec 48
  vecPc : BitVec 48
  matPc : BitVec 48
  hostAcc : Bool
  pair : Bool
  deriving DecidableEq, Repr

/-- The first-fault record of a frozen cell (R247 to R250). -/
structure Freeze where
  code : Nat
  eng : Nat
  cycle : Word
  value : Word
  overflow : Bool
  lost : Bool
  /-- the record, kept in the cell when the frame area could not take it (R248) -/
  kept : List Byte
  deriving DecidableEq, Repr

/-- An SWINIT that has taken effect in this cycle: its sync word, the two words of 8 bytes that it found there, the new target,
whether it clears GEN, and the register that its result goes to (R234, R235). -/
structure SwInit where
  loc : Nat
  old : Nat × Nat
  tgt : Nat
  z : Bool
  c : Fin 4
  dest : BitVec 5
  deriving DecidableEq, Repr

/-- What the four clusters and the engines of the cell share. -/
structure CellState where
  bound : Bool
  task : Task
  frozen : Option Freeze
  /-- the quad of the cell is power-gated; a wake is under way (R318 to R321) -/
  gated : Bool
  waking : Bool
  /-- every engine has stopped for a pre-emption (R323) -/
  stopped : Bool
  /-- c0 is at a HALT that waits to retire the task (R14) -/
  halting : Bool
  g : Vector Word 8
  gPoison : Vector Bool 8
  ps : Vector Word 8
  sg : Vector (BitVec 32) 4
  fd : Vector Word 16
  sampMin : BitVec 32
  sampN : BitVec 32
  sampMean : BitVec 32
  sampM2 : BitVec 32
  lastK : BitVec 12
  sampCode : BitVec 3
  dbgChk : BitVec 2
  tvb : Word
  tframe : Word
  sbkey : Word
  pCount : BitVec 8
  pHold : Bool
  pReq : Bool
  /-- the hold of a pre-emption request has expired (R322) -/
  pExpired : Bool
  /-- the other member of the redundant pair has stopped, and whether by a trap, which stops this one at the same word even inside a
  region (R265) -/
  partner : Bool
  partnerTrap : Bool
  cycle : Word
  larg : Vector Word 16
  /-- attribute entries: key 128 * (position in the quad) + region (R200) -/
  spa : Sparse (BitVec 32)
  tags : Sparse Word
  /-- way orders, least recent first, of the sets whose order is not 0 to 7 (R206) -/
  order : Sparse (List Nat)
  rings : Vector Ring 16
  retired : Vector (BitVec 256) 5
  qmarks : List QMark
  rv : Vector Rdv 8
  sluice : Sluice
  jobs : List Job
  jobCtr : Nat
  colls : List Coll
  collCtr : Nat
  mends : List Mend
  mendCtr : Nat
  cs : Sparse (BitVec 64)
  /-- tag of each bank: context, version and word count of a valid one (R325) -/
  csTag : Vector (Option (Nat × Nat × Nat)) 4
  cst : Vector Word 16
  tlb : List TlbEnt
  /-- accesses (engine, virtual 64 KiB page) that an INVALID verdict has turned into violations (R294) -/
  invalid : List (Nat × Nat)
  /-- stores visible at cell scope and not yet at their home, in that order (R297) -/
  cellStores : List StoreEnt
  /-- the SWINITs of this cycle, in order (R234) -/
  swNow : List SwInit
  /-- earlier contents of 4-byte parts that stores of the context have changed: part, context, arrivals of launches before the
  store, contents (R49) -/
  oldCode : List (Nat × Nat × Nat × BitVec 32)
  deriving DecidableEq, Repr

/-! ### Vector sequencer -/

/-- A fixed-latency result or a store that has issued and not landed, with its captured operands (R195, R196). -/
structure Flight where
  op : Nat
  f : VWord
  rep : Nat
  left : Nat
  valid : Bool
  store : Bool
  en : BitVec 64
  pois : BitVec 64
  ea : Word
  a : List Lane
  b : List Lane
  d : List Lane
  /-- RB, mask top and seed at issue -/
  rb : Nat
  mtop : BitVec 64
  key : Word
  /-- bytes to write, when the store's addresses were translated at issue -/
  cells : List Host.Cell
  /-- memory type of the page of a translated store -/
  mt : Nat
  /-- tile elements on which a later-issued write has landed already (R193) -/
  sup : List Nat
  /-- a store: what its word read of the cell at issue (R202) -/
  page : Snap
  /-- a store: repeats before it whose byte counts are to be added to the address, those of pages not translated at issue (R153,
  R158) -/
  chain : Nat
  /-- cycle of issue (R195) -/
  iss : Nat
  /-- a push of a committed iteration whose vector has not come yet: the load, or the invocation, that gives it (R258) -/
  src : Option Nat
  /-- number in the order of the sequencer's queues, of a store or a push (R217, R299) -/
  num : Nat
  deriving DecidableEq, Repr

/-- A VLDG or VSTG repeat whose packet is out: the cycle of issue, and the byte count that the next repeat has taken for it (R153). -/
structure GSent where
  id : PktId
  iss : Nat
  count : Option Nat
  deriving DecidableEq, Repr

/-- A scoreboarded vector load repeat in the load queue (R157). -/
structure VLoad where
  op : Nat
  f : VWord
  rep : Nat
  /-- enabled lanes, and those that have not arrived -/
  en : BitVec 64
  left : BitVec 64
  rb : Nat
  ea : Word
  idx : List Lane
  /-- bytes of unlanded stores of the sequencer at issue: the old bytes, then the bytes after each store (R187) -/
  snap : List (List Host.Cell)
  /-- the word was not a member of a region -/
  free : Bool
  /-- iteration of a rollback-capable loop whose push it is (R258) -/
  iter : Option (BitVec 32)
  /-- lanes that have arrived for a write port, with their marks -/
  acc : List Lane
  accP : BitVec 64
  /-- number in the order of the sequencer's queues, and whether a page of it may be of type device (R301) -/
  seq : Nat
  dev : Bool
  greq : Option GReq
  /-- what its word read of the cell at issue, the repeats whose byte counts are still to be added to the address, and the cycle of
  issue (R153, R195, R202) -/
  page : Snap
  chain : Nat
  iss : Nat
  deriving DecidableEq, Repr

/-- An entry of the loop stack (R251). -/
structure Loop where
  start : BitVec 48
  lc : BitVec 32
  iter : BitVec 32
  /-- number of stages minus one -/
  st : BitVec 3
  r : Bool
  drain : Bool
  retry : Bool
  sp : BitVec 8
  rb : BitVec 6
  ec : BitVec 3
  len : BitVec 16
  carry : Word
  n : BitVec 32
  rj : BitVec 32
  /-- the iteration whose poison asked for a rollback in this pass (R261) -/
  roll : Option (BitVec 32)
  /-- iteration of the enclosing rollback-capable loop to which the words of a nested loop belong (R258) -/
  owner : BitVec 32
  deriving DecidableEq, Repr

/-- A held store or push of a rollback-capable loop; one whose flight has a source keeps the place of a vector that has not come yet
(R258). -/
structure Held where
  iter : BitVec 32
  /-- none: a store; some p: a push to port p -/
  port : Option (Fin 8)
  fl : Flight
  /-- the load or the invocation that it comes from: the pushes of one CXn count once (R339) -/
  key : Option Nat
  deriving DecidableEq, Repr

/-- What a rollback of an iteration restores (R259). -/
structure Checkpoint where
  iter : BitVec 32
  /-- element index to be fetched after the last popped entry, for each read port -/
  ports : Vector Nat 6
  /-- carried rows: tile, row and lanes with marks -/
  rows : List (Nat × Nat × List Lane × BitVec 64)
  deriving DecidableEq, Repr

/-- An entry of a port (R216, R217). -/
structure PortEnt where
  lanes : List Lane
  pois : BitVec 64
  /-- lanes filled (read port) or enabled (write port) -/
  fill : BitVec 64
  /-- address of the first pending scratchpad word it was filled from (R194) -/
  pending : Option Nat
  /-- number of the push in program order, and its own number in the store queue: the elements of one push have one (R217, R299) -/
  seq : Nat
  grp : Nat
  deriving DecidableEq, Repr

/-- A port (R213 to R220). -/
structure Port where
  cfg : Bool
  block : List Byte
  flags : BitVec 8
  entries : List PortEnt
  /-- next element to fetch or to write -/
  pos : Nat
  /-- entries popped or pushed since element 0 -/
  taken : Nat
  /-- cause code and address at which the generator stopped (R219) -/
  stop : Option (Nat × Word)
  /-- number, in the order of the sequencer's queues, of the word that installed the block (R216, R301) -/
  num : Nat
  deriving DecidableEq, Repr

/-- A micro-op result in flight (R338). -/
structure UFlight where
  code : Nat
  f : UWord
  left : Nat
  en : BitVec 64
  pois : BitVec 64
  res : List Lane
  deriving DecidableEq, Repr

/-- The custom unit (R337 to R342). -/
structure Custom where
  running : Bool
  /-- the running invocation has executed its END word and waits for its last landing -/
  ending : Bool
  /-- the invocation has stopped before the micro-op at upc and is not yet in the frame area (R341) -/
  stopped : Bool
  n : BitVec 4
  f : VWord
  addr : BitVec 48
  upc : Nat
  ver : Nat
  /-- the bank that it runs from, and the words of the image there (R327) -/
  bank : Nat
  nwords : Nat
  entry : Nat
  len : Nat
  enable : BitVec 64
  masks : List (BitVec 64)
  loops : List (Nat × Nat)
  count : Nat
  h : Vector (List Lane) 8
  hPois : Vector (BitVec 64) 8
  a : List Lane
  aPois : BitVec 64
  b : List Lane
  bPois : BitVec 64
  xs : Vector Word 16
  mtop : BitVec 64
  flights : List UFlight
  adv : Bool
  deriving DecidableEq, Repr

/-- The vector sequencer. -/
structure VecState where
  pc : BitVec 48
  running : Bool
  token : Bool
  x : Vector Word 16
  /-- tile elements: key 4096 * tile + 64 * row + column (R110) -/
  tile : Sparse Lane
  tileP : List Nat
  am : Vector (BitVec 32) 8
  /-- the least value that a read of each amax register may still return (R143) -/
  amFloor : Vector (BitVec 32) 8
  mask : List (BitVec 64)
  ret : List (BitVec 48)
  loops : List Loop
  held : List Held
  checks : List Checkpoint
  rcount : Nat
  inreg : Bool
  repj : Nat
  /-- VLDG, VSTG: address of the next repeat, and the packet whose byte count it still waits for (R153) -/
  eaNext : Word
  gWait : Option PktId
  gSent : List GSent
  flights : List Flight
  /-- the captured replay entries as they were captured: what the frame does not hold of them is taken from here (R195) -/
  capt : List Flight
  /-- tile elements and x registers whose value is not that of their latest-issued write (R193) -/
  stale : List Nat
  /-- stores that have landed and whose addresses are not all translated: queue number and store (R158) -/
  parked : List (Nat × Flight)
  loads : List VLoad
  stores : List StoreEnt
  seqCtr : Nat
  bar : Nat
  pendWords : List Nat
  ports : Vector Port 8
  gap : Nat
  seg : Seg
  stat : EngStat
  wait : WaitKind
  /-- a trap of the vector stream or of the custom unit that c0 has not yet taken, or has taken and not returned from -/
  trap : Option Delegated
  delivered : Bool
  /-- fault held while a trap was taken (R195) -/
  heldFault : Option Delegated
  /-- cycle of issue of the access whose fault is held (R195) -/
  heldIss : Nat
  /-- a request to stop was taken at this stream's pre-emption point -/
  halted : Bool
  /-- it was taken at the end of a pass, with DRAIN set: going on begins a pass (R256) -/
  drained : Bool
  /-- a VHALT has issued, and the results in flight land (R147) -/
  halting : Bool
  /-- the pass that begins takes its checkpoint of the carried rows first (R259) -/
  ckWait : Bool
  /-- rotation base at the issue of the running CXn, its number in the order of the sequencer's queues, and the iteration of a
  rollback-capable loop whose word it is -/
  cuRb : Nat
  cuNum : Nat
  cuIter : BitVec 32
  /-- the source number under which its pushes keep their place in a rollback-capable loop (R258, R339) -/
  cuSeq : Option Nat
  /-- cycles that passed while the fetch of the next word waited: they count for the results in flight unless that word is a
  member of a region (R188) -/
  owed : Nat
  /-- the queues must be realigned before the next word issues (R301) -/
  realign : Bool
  adv : Bool
  cu : Custom
  deriving DecidableEq, Repr

/-! ### Matrix engine -/

/-- A weight plane (R159). -/
structure Plane where
  elems : Sparse (BitVec 16)
  marks : List Nat
  /-- array class: 0 narrow, 1 BF16, 2 h16 -/
  cls : BitVec 2
  desc : Word
  deriving DecidableEq, Repr

/-- The sampling registers that a sampling word changes (R266, R268). -/
structure SampRegs where
  n : BitVec 32
  mean : BitVec 32
  m2 : BitVec 32
  lastK : BitVec 12
  code : BitVec 3
  last : Option Nat
  draws : BitVec 32
  taken : BitVec 32
  deriving DecidableEq, Repr

/-- A matrix word that has issued and whose work is not done (R163, R167, R246). -/
structure MWork where
  op : Nat
  f : MWord
  pc : BitVec 48
  /-- the work has begun: its first checks are made -/
  begun : Bool
  /-- nest indices, innermost first -/
  idx : List Nat
  /-- rows, samples or drained rows done in the current step -/
  row : Nat
  /-- rows of the two operands read so far, as raw bytes, with their marks -/
  aRows : List (List Byte × List Bool)
  bRows : List (List Byte × List Bool)
  /-- scales of the samples drawn -/
  ks : List (BitVec 32)
  /-- pairs taken from the draw ring, and the sampling registers as the work found them (R184, R274) -/
  draws : List (Nat × Nat)
  before : SampRegs
  /-- the word is in its drain on end -/
  drain : Bool
  /-- tiles of ring RA to pop before the nest goes on, and whether the step itself is done; of MNORM, its K -/
  pops : Nat
  popping : Bool
  /-- the seed register, ps7, the sigma register and the descriptors as read at issue -/
  key : Word
  key7 : Word
  sigma : BitVec 32
  fdA : Word
  fdB : Word
  fdD : Word
  /-- attribute entries and descriptors as read at issue (R202) -/
  snap : Snap
  /-- whether the first byte of each operand, and of the drain's destination, lay in a formatted page when the step began (R161) -/
  pageA : Bool
  pageB : Bool
  pageD : Bool
  /-- SAMPN as read when a drain started its work -/
  nDiv : BitVec 32
  deriving DecidableEq, Repr

/-- The sampler (R266). -/
structure Sampler where
  n : Sparse (BitVec 32)
  c : Sparse (BitVec 32)
  r : Sparse (BitVec 32)
  sc : Sparse (BitVec 32)
  marks : List Nat
  al : Sparse (BitVec 32)
  k : Nat
  total : BitVec 32
  baseA : Nat
  baseB : Nat
  codeA : BitVec 5
  codeB : BitVec 5
  pitchA : Nat
  pitchB : Nat
  nv : Bool
  tv : Bool
  tp : Bool
  last : Option Nat
  draws : BitVec 32
  taken : BitVec 32
  deriving DecidableEq, Repr

/-- The matrix engine (R159). -/
structure MatState where
  pc : BitVec 48
  running : Bool
  token : Bool
  active : Plane
  shadow : Plane
  /-- FA40 elements: key 192 * row + column -/
  acc : Sparse (BitVec 40)
  accP : List Nat
  /-- scale entries: key 256 * column + entry -/
  scale : Sparse (BitVec 16)
  loops : List (BitVec 48 × Nat)
  rd : Vector Nat 16
  wr : Vector Nat 16
  template : Option MWord
  nestA : Vector (BitVec 1024) 16
  nestS : Vector (BitVec 1024) 16
  nestP : BitVec 16
  work : Option MWork
  /-- the word at the PC, stopped while it waited on a ring: what it had taken from its rings and given to them (R163, R184) -/
  kept : Option MWork
  /-- finished words whose completion has not been counted: opcode and the rings that each names (R168, R210) -/
  unfinished : List (Nat × List Nat)
  seg : Seg
  stat : EngStat
  wait : WaitKind
  halted : Bool
  sam : Sampler
  deriving DecidableEq, Repr

/-! ### Device -/

/-- A page-table walk in progress: the page, the requesters joined by engine number, and the first access (R290). -/
structure Walk where
  ctx : Nat
  vpn : Nat
  va : Nat
  /-- 1 read, 2 write, 4 fetch -/
  kind : Nat
  eng : Nat
  joined : List Nat
  /-- each request with its engine, its kind (as `kind`) and whether it is a supervisor's: which of them the leaf allows -/
  want : List (Nat × Nat × Bool)
  /-- must be walked again because of an invalidation (R292) -/
  stale : Bool
  deriving DecidableEq, Repr

/-- An outstanding fault (R293). -/
structure PFault where
  id : Nat
  walk : Walk
  level : Nat
  /-- the record has been written to the queue -/
  written : Bool
  deriving DecidableEq, Repr

/-- A collective group of a context (R355). -/
structure Group where
  defined : Bool
  members : List Nat
  rank : Nat
  calls : Nat
  hash : BitVec 32
  deriving DecidableEq, Repr

/-- The log of a context on the device (R371, R372, R388, R409). -/
structure Log where
  base : Word
  /-- slots per step and steps held of the log as it was created -/
  slots : Nat
  win : Nat
  /-- LOGSLOTS and LOGWIN, which the next creation takes -/
  regSlots : Nat
  regWin : Nat
  s0 : Nat
  ownSlot : Nat
  ownV : Bool
  done : Nat
  applied : Nat
  vote : Option Nat
  lastTie : Option Nat
  /-- a created log exists -/
  live : Bool
  deriving DecidableEq, Repr

/-- Capture state of a context (R401 to R405). -/
structure Cap where
  base : Nat
  pages : Nat
  dest : Word
  digest : Word
  cost : BitVec 32
  valid : Bool
  act : Bool
  fail : Bool
  gen : BitVec 22
  step : BitVec 40
  iv : BitVec 17
  /-- sync word of a sweep that runs: none when no sweep runs -/
  sweep : Option (Option Nat)
  /-- pages whose capture is under way, and pages captured and poisoned sectors of the generation -/
  busy : List Nat
  /-- pages whose capture has failed since the sweep or the generation started -/
  bad : List Nat
  /-- pages that a read or a held write has claimed and whose capture has not begun (R404) -/
  asked : List Nat
  pagesDone : Nat
  poisoned : Nat
  root : Word
  /-- launches of the context ended with FAULT, with the LOGAPPLIED at which they ended; rebuilds likewise (R406) -/
  faults : List Nat
  created : Nat
  deriving DecidableEq, Repr

/-- What the device keeps for a context (R20, R311). -/
structure Ctx where
  id : Nat
  ps : Vector Word 8
  sg : Vector (BitVec 32) 4
  fd : Vector Word 16
  cst : Vector Word 16
  groups : Vector Group 16
  fanout : Option Nat
  /-- SBKEY under which the context's scratchpad data of the modelled cell lie, once it has been bound (R204) -/
  sbkey : Option Word
  log : Log
  cap : Cap
  /-- a rebuild has begun, and the log has not been created since (R409) -/
  rebuild : Bool
  deriving DecidableEq, Repr

/-- A launch queue (R312, R313). -/
structure Queue where
  ctl : Word
  tail : BitVec 16
  head : BitVec 16
  /-- the PCIe functions that posted the records from head on (R311) -/
  posters : List Nat
  sbase : Word
  matched : BitVec 16
  missed : BitVec 16
  ovf : Bool
  shead : BitVec 16
  /-- launches ended on the queue since it was enabled (R320) -/
  ended : BitVec 16
  deriving DecidableEq, Repr

/-- A launch that waits or is bound (R313 to R324). -/
structure Launch where
  q : Nat
  num : Nat
  arrival : Nat
  bytes : List Byte
  prio : Nat
  /-- dispatch decisions that bound other launches while it waited (R18) -/
  aged : Nat
  bound : Bool
  /-- c0 has issued a word since the binding (R321) -/
  started : Bool
  everBound : Bool
  preempts : Nat
  gangs : Nat
  cells : List Nat
  retired : List Nat
  /-- pre-emption has been requested -/
  req : Bool
  /-- status with which it has ended or is being killed -/
  ending : Option Nat
  tcause : Word
  deriving DecidableEq, Repr

/-- An armed record (R318). -/
structure Armed where
  q : Nat
  header : List Byte
  gangs : Nat
  cells : List Nat
  deriving DecidableEq, Repr

/-- A status entry that waits for ring space (R320). -/
structure StatusEnt where
  q : Nat
  bytes : List Byte
  index : BitVec 16
  vec : Nat
  deriving DecidableEq, Repr

/-- The saved state of a pre-empted task of the modelled cell (R323). -/
structure Saved where
  q : Nat
  num : Nat
  cl : Vector Cluster 4
  cell : CellState
  vec : VecState
  mat : MatState
  /-- regions (position in the quad, region) whose image stands in the save slot: another context holds them, or the task
  has been asked to move (R21, R323) -/
  evicted : List (Nat × Nat)
  /-- images that a change of SBKEY has left unspecified (R204) -/
  spoiled : List (Nat × Nat)
  deriving DecidableEq, Repr

/-- What the packets of a call carry of it: context, group, hash and call number, members in rank order and the sender's rank. -/
structure CallRef where
  ctx : Nat
  g : Nat
  hash : Nat
  call : Nat
  members : List Nat
  rank : Nat
  deriving DecidableEq, Repr

/-- A message of the collective port that travels as a kept packet (R353, R365, R368). -/
structure Cargo where
  vc : Nat
  /-- VC 2: 0 presence request, 1 report, 2 verdict, 3 FAULT, 4 data chunk, 5 rotated block, 6 ABORT; VC 3: 0 entry, 1 LOGPULL request -/
  kind : Nat
  args : List Nat
  /-- the command that sends it: the queue and the record number of its launch, and its admission number; none for a relay -/
  owner : Option (Nat × Nat × Nat)
  ref : CallRef
  /-- the rank that it goes to -/
  rank : Nat
  deriving DecidableEq, Repr

/-- What reaches a command of the collective port (R359 to R368). -/
inductive CollMsg where
  | report (rank : Nat) (absent : List Nat) (kind elems : Nat) (out32 : Bool)
  /-- GO without absent ranks, else ABSENT -/
  | verdict (absent : List Nat)
  | chunk (rank chunk : Nat) (data : List (BitVec 32))
  | fault (mismatch : Bool)
  | block (hash steps origin : Nat) (data : List Byte)
  | abort (absent : List Nat)
  | pulled (step slot : Nat) (answer : Option (List Byte)) (gone : Bool)
  /-- a packet of the command to a rank has failed: its channel and message kind -/
  | lost (vc kind rank : Nat)
  /-- a rank has acknowledged a packet of the command -/
  | acked (vc kind rank : Nat)
  deriving DecidableEq, Repr

/-- The command that a message is for. -/
inductive CollTo where
  /-- a call: context, group and call number -/
  | call (ctx g call : Nat)
  /-- a command: queue and record number of its launch, admission number -/
  | cmd (q num adm : Nat)
  deriving DecidableEq, Repr

/-- A message that waits until its call starts or its pre-empted task runs again (R359). -/
structure HeldMsg where
  cmd : CollTo
  msg : CollMsg
  deriving DecidableEq, Repr

/-- A received log entry whose relays are not all acknowledged or absent: the sender's packet and the relays left (R365). -/
structure Receipt where
  src : Nat
  epoch : Nat
  path : Nat
  seq : Nat
  left : List PktId
  deriving DecidableEq, Repr

/-- A request packet (R350). -/
structure Packet where
  id : PktId
  /-- 0 load, 1 store, 2 flagged store, 3 atomic, 4 vector load, 5 vector store, 6 job write, 7 CANCEL, 8 CLOSE,
  9 message of the collective port -/
  kind : Nat
  size : Nat
  ctx : Nat
  sup : Bool
  va : Nat
  data : List Byte
  mask : BitVec 64
  /-- counts of the stream's earlier packets by path, for a flagged store (R352) -/
  before : List Nat
  /-- retransmissions spent -/
  spent : Nat
  cargo : Option Cargo
  deriving DecidableEq, Repr

/-- An open stream of a queue at the source (R350). -/
structure Stream where
  q : Nat
  dev : Nat
  epoch : Nat
  paths : Nat
  /-- packets sent on each path -/
  sent : List Nat
  used : Nat
  deriving DecidableEq, Repr

/-- The marks of a stream path at the destination (R351). -/
structure DestMark where
  src : Nat
  q : Nat
  epoch : Nat
  path : Nat
  c : Nat
  window : List Nat
  /-- kept responses by sequence number -/
  kept : List (Nat × Resp)
  deriving DecidableEq, Repr

/-- A flagged store held at the destination (R352). -/
structure HeldFlag where
  src : Nat
  q : Nat
  epoch : Nat
  path : Nat
  seq : Nat
  ctx : Nat
  sup : Bool
  va : Nat
  data : List Byte
  before : List Nat
  deriving DecidableEq, Repr

/-- A message that the device has sent and that an outside party receives: kind, destination, words. -/
structure Msg where
  /-- the virtual channel of R354: 0 request packet, 1 response or acknowledgement, 2 collective, 3 log, 4 capture, 5 host access
  forwarded, 6 notice; 8 on the link itself, 9 to the own host -/
  vc : Nat
  kind : Nat
  dst : Nat
  args : List Nat
  data : List Byte
  deriving DecidableEq, Repr

/-- An error bank (R393), registers +0 to +5. -/
structure Bank where
  r0 : Word
  addr : Word
  info : Word
  pos : Word
  seq : Word
  counts : Word
  deriving DecidableEq, Repr

/-- A packet of any source that the router holds for a port, until the neighbour acknowledges its flit (R349). -/
structure Transit where
  dst : Nat
  tag : Nat
  hops : Nat
  src : Nat
  q : Nat
  epoch : Nat
  seq : Nat
  /-- the virtual channel that carries it (R354) -/
  vc : Nat
  /-- sequence number of the flit that carries it, once it is sent -/
  flit : Option Nat
  deriving DecidableEq, Repr

/-- A flit that has been sent and is not acknowledged (R411, R412). -/
structure SentFlit where
  seq : Nat
  /-- the slot that it was sent under, and how often it has been sent again -/
  slot : Bool
  times : Nat
  /-- type, virtual channel and plain payload -/
  kind : Nat
  vc : Nat
  payload : List Byte
  deriving DecidableEq, Repr

/-- An Ezwick port (R412 to R414). -/
structure LinkPort where
  linkId : BitVec 32
  enc : Bool
  switch : Bool
  slot : Bool
  en : Bool
  up : Bool
  lim : Word
  /-- the keys of the slots, and the invocation counters of the flits sent under them -/
  keyA : Option (BitVec 256)
  keyB : Option (BitVec 256)
  ctrA : Word
  ctrB : Word
  /-- the neighbour's counters, as the flits that have arrived count them (log 135) -/
  rxA : Word
  rxB : Word
  /-- the retry buffer, oldest flit first -/
  retry : List SentFlit
  /-- where a resending goes on once the active slot may send again (R414) -/
  owed : Option Nat
  nextSeq : Nat
  expect : Nat
  /-- after a failed check, flits are discarded until the expected one comes -/
  discarding : Bool
  rxSlot : Bool
  /-- payloads delivered and not yet read by the router, with their virtual channels -/
  rx : List (Nat × List Byte)
  /-- flits sent since the last ACK while the buffer is full -/
  sinceAck : Nat
  /-- the marker of a switch that is not yet acknowledged -/
  marker : Option Nat
  limRaised : Bool
  transit : List Transit
  deriving DecidableEq, Repr

/-- Error counts of one DRAM lane (R398). -/
structure LaneCount where
  stack : Nat
  pc : Nat
  lane : Nat
  count : Nat
  deriving DecidableEq, Repr

/-- A 4-byte lane that a memory-side command has changed: what it held before, and who must see the change (R305). -/
structure MsLane where
  /-- location / 4 -/
  part : Nat
  old : BitVec 32
  /-- the Menders command: queue and number of its launch, and admission number; whether it has completed -/
  cmd : Nat × Nat × Nat
  done : Bool
  /-- its sync word, with the generation that counts it -/
  sync : Option (Nat × Nat)
  /-- Menders markers that have retired behind it, and the rendezvous registers that have fired on one of them -/
  marks : List (BitVec 8)
  rvs : List Nat
  /-- the number of the observation by which the cell has observed the completion -/
  seenAt : Option Nat
  /-- queues that have passed a memory-side fence since -/
  fenced : List Nat
  deriving DecidableEq, Repr

/-- The stored DRAM training record (R418). -/
structure Training where
  data : List Byte
  crc : Word
  mac : List Byte
  deriving DecidableEq, Repr

/-- The records in module flash (R416 to R418). -/
structure Flash where
  /-- helper data of the PUF (R416) -/
  helper : List Byte
  /-- the configuration record: its public key, the spare cells that its bitmap names, the voltage table in mV by quad, the DRAM row and
  lane repairs, of which no rule reads anything, and the signature over them (R417, R7) -/
  key : List Byte
  spares : List Nat
  volts : Sparse Nat
  repairs : List Nat
  sig : List Byte
  /-- the DRAM training record; the lane swaps written into it are those of `DevState.spares` (R398, R418) -/
  training : Training
  deriving DecidableEq, Repr

/-- The device around the cell. -/
structure DevState where
  /-- bytes of local DRAM, of the gang's scratchpads and of host memory by location (Ops.lean gives the locations) -/
  mem : List Host.Cell
  /-- locations whose byte carries a poison mark -/
  poison : List Nat
  /-- lanes that memory-side commands have changed, oldest change first, and the number of observations of completions (R305) -/
  msLanes : List MsLane
  msCtr : Nat
  /-- the die's shared TLB, oldest entry first (R290) -/
  dieTlb : List TlbEnt
  /-- walks under way and, after them, the requests that wait for a walker (R290) -/
  walks : List Walk
  faults : List PFault
  faultCtr : Nat
  tlbInv : Word
  pfqBase : Word
  pfqHead : BitVec 12
  pfqTail : BitVec 12
  ctxs : List Ctx
  queues : Vector Queue 64
  slots : Sparse Byte
  lctl : Word
  ctxtBase : Word
  ctxtN : Word
  cfrz : Sparse Word
  launches : List Launch
  arrivals : Nat
  armed : List Armed
  status : List StatusEnt
  saved : List Saved
  frtBase : Word
  frt : Sparse Word
  /-- the base of the route table whose copy `FRTLOAD` has begun and not completed -/
  frtLoad : Option Nat
  linkUp : BitVec 24
  fbudget : BitVec 4
  fdevid : BitVec 14
  streams : List Stream
  epochs : Vector (BitVec 8) 8
  kept : List Packet
  closes : List Packet
  useCtr : Nat
  dests : List DestMark
  heldFlags : List HeldFlag
  /-- presence requests held until the call starts (R368) -/
  presence : List PresReq
  /-- calls that have ended on the device, with their contexts: a late presence request is answered from them (R368) -/
  pastCalls : List (Nat × Coll)
  /-- messages of calls held until their command can take them (R359) -/
  collHeld : List HeldMsg
  /-- receipts of log entries not yet acknowledged (R365) -/
  receipts : List Receipt
  msgs : List Msg
  esev : Vector Word 16
  banks : Vector Bank 16
  errvec : BitVec 11
  errseq : Word
  lanes : List LaneCount
  spares : List (Nat × Nat × Nat)
  /-- interval of the patrol of each DRAM controller, one for each stack, and the sectors that its patrol has corrected (R400) -/
  scrubN : Vector Nat 12
  scrubHits : Vector Nat 12
  ports : Vector LinkPort 24
  bootPhase : BitVec 8
  bootFails : BitVec 4
  bootSafe : Bool
  bootWarm : Bool
  bootReady : Bool
  /-- the private identity key, inside the security block, once a start has reconstructed it (R416) -/
  secret : Option (BitVec 521)
  flash : Flash
  /-- the size of BAR2 is 2 to this power (R415) -/
  bar2 : Nat
  rails : Sparse Nat
  gatedQuads : List Nat
  wakingQuads : List Nat
  msix : List Nat
  deriving DecidableEq, Repr

/-- An error: class, source, address, detail, engine, the physical cell whose access or command carried it, and the context
(R390, R392, R393). -/
structure Err where
  cls : Nat
  src : Nat
  addr : Word
  info : Word
  eng : Nat
  cell : Option Nat
  ctx : Nat
  deriving DecidableEq, Repr

/-- What the running cycle has seen so far, for the rules that order what happens in one cycle. -/
structure Now where
  /-- errors recorded in it, each with its action and its value of ERRSEQ, oldest first (R394) -/
  errs : List (Err × Nat × Word)
  /-- the records of their banks before the first of them (R394) -/
  banks : List (Nat × Bank)
  /-- special registers that a sample step has written (R268) -/
  samp : List Nat
  /-- markers retired in it: engine and number (R223) -/
  marks : List (Nat × Nat)
  deriving DecidableEq, Repr

/-- A cycle begins. -/
def Now.none : Now := { errs := [], banks := [], samp := [], marks := [] }

/-- The whole machine. -/
structure State where
  cl : Vector Cluster 4
  cell : CellState
  vec : VecState
  mat : MatState
  dev : DevState
  /-- the cluster whose word runs -/
  cur : Fin 4
  /-- the word just run was held, or took a trap (log 11) -/
  held : Bool
  trapped : Bool
  /-- g registers and their marks as the word that runs reads them, when they are not those of the cell (R367, log 11) -/
  gSnap : Option (Vector Word 8 × Vector Bool 8)
  /-- clusters started in this cycle, each with the cluster whose write started it (R78) -/
  startedNow : List (Nat × Nat)
  /-- places in the order of a cycle that have had their turn in it: vector 0, matrix 1, custom unit 2, clusters 3 to 6 (log 10) -/
  ran : List Nat
  now : Now
  /-- the word that runs, as fetched (R106, R262) -/
  word : Nat
  agenda : List Slot
  freeCtr : Nat
  deriving DecidableEq, Repr

/-! ### Values after a cold start -/

/-- A segment that is not open (R262). -/
def Seg.closed : Seg :=
  { opened := false, voided := false, count := 0, crc := 0, expCount := 0, expCrc := 0 }

/-- A halted cluster with every register at zero (R13, log 1). -/
def Cluster.zero : Cluster :=
  { pc := 0, s := Vector.replicate 23 0, sPoison := Vector.replicate 23 false, sup := false, wake := false,
    active := false, tcause := 0, tpc := 0, tval := 0, tcpc := 0, pend := [], loads := [], stores := [], seqCtr := 0,
    realign := false, bar := 0, gap := 0, seg := Seg.closed, stat := .halted, wait := .none, greq := [], rdvArmed := false,
    gHeld := none, csl := none }

/-- An unconfigured ring (R209). -/
def Ring.zero : Ring := { cfg := false, base := 0, size := 0, cap := 0, head := 0, tail := 0, count := 0 }

/-- A rendezvous register at binding (R224). -/
def Rdv.zero : Rdv := { mask := 0, m := 0, armed := false, fired := false }

/-- The sluice board at binding (R227). -/
def Sluice.zero : Sluice :=
  { src := Vector.replicate 32 0, watch := Vector.replicate 8 0, cnt := Vector.replicate 16 0,
    counts := Vector.replicate 16 0, spent := 0,
    terms := Vector.replicate 8 { masks := Vector.replicate 4 0, out := 0 }, pulses := [], outs := [],
    tokens := Vector.replicate 8 0, collTokens := 0 }

/-- No task: every number zero (log 1). -/
def Task.zero : Task :=
  { q := 0, num := 0, ctx := 0, cellId := 0, quadId := 0, dieId := 0, stage := 0, mates := [], reevePc := 0, vecPc := 0,
    matPc := 0, hostAcc := false, pair := false }

/-- The shared part of a cell after a cold start. -/
def CellState.zero : CellState :=
  { bound := false, task := Task.zero, frozen := none, gated := false, waking := false, stopped := false,
    halting := false, g := Vector.replicate 8 0, gPoison := Vector.replicate 8 false, ps := Vector.replicate 8 0,
    sg := Vector.replicate 4 0, fd := Vector.replicate 16 0, sampMin := 0, sampN := 0, sampMean := 0, sampM2 := 0,
    lastK := 0, sampCode := 0, dbgChk := 0, tvb := 0, tframe := 0, sbkey := 0, pCount := 0, pHold := false,
    pReq := false, pExpired := false, partner := false, partnerTrap := false, cycle := 0, larg := Vector.replicate 16 0, spa := [], tags := [], order := [],
    rings := Vector.replicate 16 Ring.zero, retired := Vector.replicate 5 0, qmarks := [],
    rv := Vector.replicate 8 Rdv.zero, sluice := Sluice.zero, jobs := [], jobCtr := 0, colls := [], collCtr := 0,
    mends := [], mendCtr := 0, cs := [], csTag := Vector.replicate 4 none, cst := Vector.replicate 16 0, tlb := [],
    invalid := [], cellStores := [], swNow := [], oldCode := [] }

/-- What is read of a cell with no task. -/
def Snap.zero : Snap := { spa := [], fd := Vector.replicate 16 0 }

/-- The empty result: what a result in flight does not name of its own. -/
def Flight.zero : Flight :=
  { op := 0, f := VWord.zero, rep := 0, left := 0, valid := true, store := false, en := 0, pois := 0, ea := 0, a := [], b := [],
    d := [], rb := 0, mtop := 0, key := 0, cells := [], mt := 0, sup := [], page := Snap.zero, chain := 0, iss := 0, src := none, num := 0 }

/-- An unconfigured port (R214). -/
def Port.zero : Port :=
  { cfg := false, block := [], flags := 0, entries := [], pos := 0, taken := 0, stop := none, num := 0 }

/-- The custom unit with no invocation (R337). -/
def Custom.zero : Custom :=
  { running := false, ending := false, stopped := false, n := 0, f := VWord.zero, addr := 0, upc := 0, ver := 0, bank := 0, nwords := 0, entry := 0, len := 0,
    enable := 0, masks := [], loops := [], count := 0, h := Vector.replicate 8 [], hPois := Vector.replicate 8 0,
    a := [], aPois := 0, b := [], bPois := 0, xs := Vector.replicate 16 0, mtop := 0, flights := [], adv := false }

/-- The vector sequencer at binding (R13, R113, R141, R145, R148, R251). -/
def VecState.zero : VecState :=
  { pc := 0, running := false, token := false, x := Vector.replicate 16 0, tile := [], tileP := [],
    am := Vector.replicate 8 0, amFloor := Vector.replicate 8 0, mask := [], ret := [], loops := [], held := [], checks := [], rcount := 0,
    inreg := false, repj := 0, eaNext := 0, gWait := none, gSent := [], flights := [], capt := [], stale := [], parked := [], loads := [], stores := [], seqCtr := 0, bar := 0, pendWords := [],
    ports := Vector.replicate 8 Port.zero, gap := 0, seg := Seg.closed, stat := .halted, wait := .none, trap := none,
    delivered := false, heldFault := none, heldIss := 0, halted := false, drained := false, halting := false, ckWait := false, cuRb := 0, cuNum := 0, cuIter := 0, cuSeq := none,
    owed := 0, realign := false, adv := false, cu := Custom.zero }

/-- The sampling registers at binding (R266). -/
def SampRegs.zero : SampRegs := { n := 0, mean := 0, m2 := 0, lastK := 0, code := 0, last := none, draws := 0, taken := 0 }

/-- A weight plane at binding: every element +0, format record BF16, no marks (R159). -/
def Plane.zero : Plane := { elems := [], marks := [], cls := 1, desc := 0 }

/-- The sampler at binding (R266). -/
def Sampler.zero : Sampler :=
  { n := [], c := [], r := [], sc := [], marks := [], al := [], k := 0, total := 0, baseA := 0, baseB := 0, codeA := 0,
    codeB := 0, pitchA := 0, pitchB := 0, nv := false, tv := false, tp := false, last := none, draws := 0, taken := 0 }

/-- The matrix engine at binding (R159). -/
def MatState.zero : MatState :=
  { pc := 0, running := false, token := false, active := Plane.zero, shadow := Plane.zero, acc := [], accP := [],
    scale := [], loops := [], rd := Vector.replicate 16 0, wr := Vector.replicate 16 0, template := none,
    nestA := Vector.replicate 16 0, nestS := Vector.replicate 16 0, nestP := 0, work := none, kept := none, unfinished := [],
    seg := Seg.closed, stat := .halted, wait := .none, halted := false, sam := Sampler.zero }

/-- A group that is not defined (R355). -/
def Group.zero : Group := { defined := false, members := [], rank := 0, calls := 0, hash := 0 }

/-- A queue after a cold start (R312). -/
def Queue.zero : Queue :=
  { ctl := 0, tail := 0, head := 0, posters := [], sbase := 0, matched := 0, missed := 0, ovf := false, shead := 0, ended := 0 }

/-- An empty error bank (R393). -/
def Bank.zero : Bank := { r0 := 0, addr := 0, info := 0, pos := 0, seq := 0, counts := 0 }

/-- An Ezwick port after a cold start (R414). -/
def LinkPort.zero : LinkPort :=
  { linkId := 0, enc := false, switch := false, slot := false, en := false, up := false, lim := 0x100000000, keyA := none,
    keyB := none, ctrA := 0, ctrB := 0, rxA := 0, rxB := 0, retry := [], owed := none, nextSeq := 0, expect := 0, discarding := false,
    rxSlot := false, rx := [], sinceAck := 0, marker := none, limRaised := false, transit := [] }

/-- The bytes of a number, most significant first. -/
def bytesBig (n v : Nat) : List Byte := ((List.range n).map (fun i => BitVec.ofNat 8 (v / 256 ^ i))).reverse

/-- The 132 bytes of the public key of a private key: X, then Y, both big-endian (R416). -/
def publicBytes (d : BitVec 521) : List Byte :=
  bytesBig 66 (Config.publicKey d).1.toNat ++ bytesBig 66 (Config.publicKey d).2.toNat

/-- The private key that a start reconstructs (R416). -/
def secretOf (helper : List Byte) : BitVec 521 := Config.privateKey Config.puf helper

/-- Module flash of the part: the PUF and the helper data are free, the configuration record holds the key that they give, verifies and
names cell 3 of the last four quads of each die as spares, every rail starts at 420 mV, and the training record verifies: its data
are empty, whose CRC-64 is 0 (log 7). -/
def Flash.part : Flash :=
  let key := publicBytes (secretOf Config.helper)
  let spares := (List.range 16).map (fun i => 128 * (i / 4) + 115 + 4 * (i % 4))
  { helper := Config.helper, key, spares, volts := [], repairs := [], sig := Config.aedkenSign (Config.recordBytes key spares [] []),
    training := { data := [], crc := 0, mac := Config.trainMac (secretOf Config.helper) [] } }

/-- The same action in all sixteen fields of a severity register (R391). -/
def esevOf (a : BitVec 4) : Word := BitVec.ofNat 64 (a.toNat * 0x1111111111111111)

/-- The cold-start actions of R390, class 0 to 15. -/
def esevReset : Vector Word 16 :=
  #v[esevOf 2, esevOf 2, esevOf 1, esevOf 3, esevOf 2, esevOf 2, esevOf 4, esevOf 5, esevOf 5, esevOf 2, esevOf 3, esevOf 3,
    esevOf 3, esevOf 3, esevOf 3, esevOf 3]

/-- The device after a cold start (R312, R291, R347, R390, R393, R400, R414, R419). -/
def DevState.zero : DevState :=
  { mem := [], poison := [], msLanes := [], msCtr := 0, dieTlb := [], walks := [], faults := [], faultCtr := 0, tlbInv := 0, pfqBase := 0, pfqHead := 0,
    pfqTail := 0, ctxs := [], queues := Vector.replicate 64 Queue.zero, slots := [], lctl := 0, ctxtBase := 0,
    ctxtN := 0, cfrz := [], launches := [], arrivals := 0, armed := [], status := [], saved := [], frtBase := 0,
    frt := [], frtLoad := none, linkUp := 0, fbudget := 8, fdevid := 0, streams := [], epochs := Vector.replicate 8 0, kept := [],
    closes := [], useCtr := 0, dests := [], heldFlags := [], presence := [], pastCalls := [], collHeld := [], receipts := [], msgs := [], esev := esevReset,
    banks := Vector.replicate 16 Bank.zero, errvec := 0, errseq := 0, lanes := [], spares := [], scrubN := Vector.replicate 12 65536,
    scrubHits := Vector.replicate 12 0, ports := Vector.replicate 24 LinkPort.zero, bootPhase := 8, bootFails := 0, bootSafe := false,
    bootWarm := false, bootReady := true, secret := some (secretOf Config.helper), flash := Flash.part, bar2 := 40, rails := [], gatedQuads := [], wakingQuads := [], msix := [] }

/-- The machine right after a cold start that reached phase 8 (R418): no context, no launch, no task. -/
def State.reset : State :=
  { cl := Vector.replicate 4 Cluster.zero, cell := CellState.zero, vec := VecState.zero, mat := MatState.zero,
    dev := DevState.zero, cur := 0, held := false, trapped := false, gSnap := none, startedNow := [], ran := [], now := Now.none, word := 0, agenda := [],
    freeCtr := 0 }

end Sys2Proof.Machine
end

