-- ==== Sys2Proof/Machine/Bits.lean ====
section
/-! DEFINITION. Bit fields, byte lists, sparse maps, sorted sets, and the two checksums
(spec/01_device.md R1, spec/11_loops.md R262, spec/24_surviving.md R407). -/

namespace Sys2Proof.Machine

open Sys2Proof

/-- Bits [lo+n-1:lo] of a number. -/
def nb (v lo n : Nat) : Nat := v / 2 ^ lo % 2 ^ n

/-- A bit of a number. -/
def tb (v i : Nat) : Bool := decide (v / 2 ^ i % 2 = 1)

/-- Sign extension of the low `n` bits. -/
def sx (v n : Nat) : Int := (BitVec.ofNat n v).toInt

/-- An integer taken modulo 2^64. -/
def w64 (i : Int) : Word := BitVec.ofInt 64 i

/-- A bit as a word. -/
def bw (b : Bool) : Word := if b then 1 else 0

/-- Element `i` of a vector, or a default. -/
def vget {α : Type} {n : Nat} (v : Vector α n) (i : Nat) (d : α) : α := (v[i]?).getD d

/-- A vector with element `i` replaced; unchanged when `i` is out of range. -/
def vset {α : Type} {n : Nat} (v : Vector α n) (i : Nat) (x : α) : Vector α n := v.setIfInBounds i x

/-! ### Sparse maps -/

/-- The value at a key: the default where nothing is listed. -/
def sget {α : Type} (d : α) : Sparse α → Nat → α
  | [], _ => d
  | (k, x) :: r, i => if i < k then d else if k = i then x else sget d r i

/-- Removes a key. -/
def sdel {α : Type} : Sparse α → Nat → Sparse α
  | [], _ => []
  | (k, x) :: r, i => if i < k then (k, x) :: r else if k = i then r else (k, x) :: sdel r i

/-- Lists a value at a key. -/
def sput {α : Type} : Sparse α → Nat → α → Sparse α
  | [], i, y => [(i, y)]
  | (k, x) :: r, i, y => if i < k then (i, y) :: (k, x) :: r else if k = i then (i, y) :: r else (k, x) :: sput r i y

/-- Writes a value, keeping the canonical form: the default is not listed. -/
def sset {α : Type} [DecidableEq α] (d : α) (m : Sparse α) (i : Nat) (y : α) : Sparse α :=
  if y = d then sdel m i else sput m i y

/-- The canonical form: keys strictly rising from `lo`, no default listed. -/
def swf {α : Type} [DecidableEq α] (d : α) : Nat → Sparse α → Bool
  | _, [] => true
  | lo, (k, x) :: r => decide (lo ≤ k) && decide (x ≠ d) && swf d (k + 1) r

/-! ### Sorted sets of numbers -/

/-- Membership. -/
def inSet (m : List Nat) (i : Nat) : Bool := m.contains i

/-- Adds a number, keeping the list strictly rising. -/
def addSet : List Nat → Nat → List Nat
  | [], i => [i]
  | k :: r, i => if i < k then i :: k :: r else if k = i then k :: r else k :: addSet r i

/-- Removes a number. -/
def delSet : List Nat → Nat → List Nat
  | [], _ => []
  | k :: r, i => if k = i then r else k :: delSet r i

/-- Adds or removes a number. -/
def putSet (m : List Nat) (i : Nat) (b : Bool) : List Nat := if b then addSet m i else delSet m i

/-! ### Bytes -/

/-- The number of a little-endian byte list (R1). -/
def leNat (l : List Byte) : Nat := bytesWord l

/-- `n` bytes of a number, lowest first (R1). -/
def leBytes (n v : Nat) : List Byte := wordBytes n v

/-- Bytes [i, i+n) of a list, zero beyond its end. -/
def slice (l : List Byte) (i n : Nat) : List Byte :=
  let t := (l.drop i).take n
  t ++ List.replicate (n - t.length) 0

/-- The little-endian number in bytes [i, i+n). -/
def leAt (l : List Byte) (i n : Nat) : Nat := leNat (slice l i n)

/-- Whether every byte of [i, i+n) is zero. -/
def zeroAt (l : List Byte) (i n : Nat) : Bool := (slice l i n).all (fun b => decide (b = 0))

/-- Byte `i` as a number. -/
def byteAt (l : List Byte) (i : Nat) : Nat := leAt l i 1

/-- A list of bits as a number, lowest first. -/
def boolsNat : List Bool → Nat
  | [] => 0
  | b :: r => b2n b + 2 * boolsNat r

/-- The number of set bits among the lowest `n`. -/
def popNat : Nat → Nat → Nat
  | 0, _ => 0
  | n + 1, v => v % 2 + popNat n (v / 2)

/-- The number of leading zero bits of the lowest `n`. -/
def clzNat : Nat → Nat → Nat
  | 0, _ => 0
  | n + 1, v => if tb v n then 0 else 1 + clzNat n v

/-! ### Checksums -/

/-- One reflected CRC-32C step of `n` bits (R262): the polynomial 0x1EDC6F41 reflected is 0x82F63B78. -/
def crc32Bits : Nat → BitVec 32 → BitVec 32
  | 0, c => c
  | n + 1, c => crc32Bits n (if c.getLsbD 0 then (c >>> 1) ^^^ 0x82F63B78#32 else c >>> 1)

/-- The CRC-32C register after a byte. -/
def crc32Byte (c : BitVec 32) (b : Byte) : BitVec 32 := crc32Bits 8 (c ^^^ b.setWidth 32)

/-- The CRC-32C register after a list of bytes. -/
def crc32Feed (c : BitVec 32) (l : List Byte) : BitVec 32 := l.foldl crc32Byte c

/-- The complemented CRC-32C of a list of bytes (R262). -/
def crc32c (l : List Byte) : BitVec 32 := ~~~ crc32Feed 0xFFFFFFFF#32 l

/-- `n` steps of the CRC-64 of R407. -/
def crc64Bits : Nat → BitVec 64 → BitVec 64
  | 0, c => c
  | n + 1, c => crc64Bits n (if c.getLsbD 63 then (c <<< 1) ^^^ 0x42F0E1EBA9EA3693#64 else c <<< 1)

/-- The CRC-64 register after a byte. -/
def crc64Byte (c : BitVec 64) (b : Byte) : BitVec 64 := crc64Bits 8 (c ^^^ (b.setWidth 64 <<< 56))

/-- The CRC-64 of a list of bytes (R407). -/
def crc64 (l : List Byte) : BitVec 64 := l.foldl crc64Byte 0

/-! ### Small list helpers -/

/-- Replaces element `i`. -/
def lset {α : Type} : List α → Nat → α → List α
  | [], _, _ => []
  | _ :: r, 0, y => y :: r
  | x :: r, i + 1, y => x :: lset r i y

/-- Removes element `i`. -/
def ldel {α : Type} : List α → Nat → List α
  | [], _ => []
  | _ :: r, 0 => r
  | x :: r, i + 1 => x :: ldel r i

/-- The numbers 0 to n - 1. -/
def upTo (n : Nat) : List Nat := List.range n

end Sys2Proof.Machine
end

