-- ==== Sys2Proof/Machine/Numbers.lean ====
section
/-! DEFINITION. Values of the wide and narrow formats, the roundings, conversions, block scales, the bound of the array's
sums, and the noise generator (spec/02_numbers.md R23 to R39, R42 to R45). -/

namespace Sys2Proof.Machine

open Sys2Proof

/-! ### Exact values -/

/-- A floating-point datum: NaN, an infinity, or the exact value (-1)^neg * mant * 2^exp, a zero keeping its sign. -/
inductive FV where
  | nan
  | inf (neg : Bool)
  | fin (neg : Bool) (mant : Nat) (exp : Int)
  deriving DecidableEq, Repr

/-- 2^n for a non-negative exponent, 1 otherwise. -/
def pow2 (n : Int) : Nat := 2 ^ n.toNat

/-- The integer `m * 2^(e - q)`, for `q ≤ e`. -/
def scaleUp (m : Int) (e q : Int) : Int := m * pow2 (e - q)

/-- The signed mantissa. -/
def signed (neg : Bool) (m : Nat) : Int := if neg then -(m : Int) else m

/-- Negation. -/
def FV.neg : FV → FV
  | .nan => .nan
  | .inf n => .inf (!n)
  | .fin n m e => .fin (!n) m e

/-- Magnitude. -/
def FV.abs : FV → FV
  | .nan => .nan
  | .inf _ => .inf false
  | .fin _ m e => .fin false m e

/-- Whether the datum is a NaN. -/
def FV.isNan : FV → Bool
  | .nan => true
  | _ => false

/-- The exact sum under IEEE rules for special values and signed zeros (R119, R38). -/
def FV.add : FV → FV → FV
  | .nan, _ => .nan
  | _, .nan => .nan
  | .inf a, .inf b => if a = b then .inf a else .nan
  | .inf a, _ => .inf a
  | _, .inf b => .inf b
  | .fin n1 m1 e1, .fin n2 m2 e2 =>
    let q := if e1 ≤ e2 then e1 else e2
    let t := scaleUp (signed n1 m1) e1 q + scaleUp (signed n2 m2) e2 q
    if t = 0 then .fin (n1 && n2) 0 q else .fin (decide (t < 0)) t.natAbs q

/-- The exact product (R119). -/
def FV.mul : FV → FV → FV
  | .nan, _ => .nan
  | _, .nan => .nan
  | .inf a, .inf b => .inf (a != b)
  | .inf a, .fin n m _ => if m = 0 then .nan else .inf (a != n)
  | .fin n m _, .inf b => if m = 0 then .nan else .inf (n != b)
  | .fin n1 m1 e1, .fin n2 m2 e2 => .fin (n1 != n2) (m1 * m2) (e1 + e2)

/-- The exact sum of a list of terms; a sum with no term is +0 (R38). -/
def FV.sum : List FV → FV
  | [] => .fin false 0 0
  | [x] => x
  | x :: r => x.add (FV.sum r)

/-- The value of an integer. -/
def FV.ofInt (i : Int) : FV := .fin (decide (i < 0)) i.natAbs 0

/-- Whether `a < b`; false with a NaN. Zeros of either sign are equal (R128). -/
def FV.lt : FV → FV → Bool
  | .nan, _ => false
  | _, .nan => false
  | .inf a, .inf b => a && !b
  | .inf a, _ => a
  | _, .inf b => !b
  | .fin n1 m1 e1, .fin n2 m2 e2 =>
    let q := if e1 ≤ e2 then e1 else e2
    decide (scaleUp (signed n1 m1) e1 q < scaleUp (signed n2 m2) e2 q)

/-- Whether `a = b` in value; false with a NaN. -/
def FV.eqv (a b : FV) : Bool := !a.isNan && !b.isNan && !a.lt b && !b.lt a

/-! ### Rounding -/

/-- A rounding: RNE, RZ, toward minus or plus infinity (R123), or stochastic with the word o of R28. -/
inductive Rnd where
  | rne | rz | rdn | rup
  | sr (o : Nat)
  deriving DecidableEq, Repr

/-- Whether the magnitude `k0 + rem / 2^sh` of a value takes the upper neighbour (R27, R28). -/
def roundUp (r : Rnd) (neg : Bool) (k0 rem sh : Nat) : Bool :=
  match r with
  | .rne => decide (2 ^ sh < 2 * rem) || (decide (2 * rem = 2 ^ sh) && decide (k0 % 2 = 1))
  | .rz => false
  | .rdn => neg && decide (rem ≠ 0)
  | .rup => !neg && decide (rem ≠ 0)
  | .sr o => decide (o < rem * 2 ^ 32 / 2 ^ sh)

/-- The multiple of 2^q to which the magnitude `m * 2^e` rounds. -/
def roundTo (r : Rnd) (neg : Bool) (m : Nat) (e q : Int) : Nat :=
  if q ≤ e then m * pow2 (e - q)
  else
    let sh := (q - e).toNat
    let k0 := m / 2 ^ sh
    if roundUp r neg k0 (m % 2 ^ sh) sh then k0 + 1 else k0

/-- The exponent of the last kept bit for a magnitude with `fb` fraction bits and least exponent `qmin`. -/
def quantum (m : Nat) (e : Int) (fb : Nat) (qmin : Int) : Int :=
  let q := (Nat.log2 m : Int) + e - fb
  if q < qmin then qmin else q

/-! ### Wide formats -/

/-- A wide format of R23: exponent bits, fraction bits; the bias is 2^(eb-1) - 1. -/
structure Wide where
  eb : Nat
  fb : Nat
  deriving DecidableEq, Repr

/-- f32. -/
def wF32 : Wide := { eb := 8, fb := 23 }

/-- BF16. -/
def wBf16 : Wide := { eb := 8, fb := 7 }

/-- h16. -/
def wH16 : Wide := { eb := 5, fb := 10 }

/-- FA40. -/
def wFa40 : Wide := { eb := 8, fb := 31 }

/-- The bias. -/
def Wide.bias (f : Wide) : Int := 2 ^ (f.eb - 1) - 1

/-- The exponent of the least subnormal. -/
def Wide.qmin (f : Wide) : Int := 1 - f.bias - f.fb

/-- The datum of a code (R23). -/
def Wide.dec (f : Wide) (v : Nat) : FV :=
  let s := tb v (f.eb + f.fb)
  let e := nb v f.fb f.eb
  let m := nb v 0 f.fb
  if e = 2 ^ f.eb - 1 then (if m = 0 then .inf s else .nan)
  else if e = 0 then .fin s m f.qmin
  else .fin s (2 ^ f.fb + m) ((e : Int) - 1 + f.qmin)

/-- The sign bit in place. -/
def Wide.sign (f : Wide) (s : Bool) : Nat := if s then 2 ^ (f.eb + f.fb) else 0

/-- The code of an infinity. -/
def Wide.inf (f : Wide) (s : Bool) : Nat := f.sign s + (2 ^ f.eb - 1) * 2 ^ f.fb

/-- The canonical NaN (R25). -/
def Wide.nan (f : Wide) : Nat := (2 ^ f.eb - 1) * 2 ^ f.fb + 2 ^ (f.fb - 1)

/-- The code to which a datum rounds (R27, R28, R29). -/
def Wide.enc (f : Wide) (r : Rnd) : FV → Nat
  | .nan => f.nan
  | .inf s => f.inf s
  | .fin s m e =>
    if m = 0 then f.sign s
    else
      let q := quantum m e f.fb f.qmin
      let k := roundTo r s m e q
      let c := k + (q - f.qmin).toNat * 2 ^ f.fb
      let top := (2 ^ f.eb - 1) * 2 ^ f.fb
      if top ≤ c then
        (match r with
         | .rz => f.sign s + top - 1
         | _ => f.inf s)
      else f.sign s + c

/-- f32 datum of 32 bits. -/
def f32 (v : Nat) : FV := wF32.dec v

/-- The f32 nearest to a datum. -/
def toF32 (x : FV) : Nat := wF32.enc .rne x

/-! ### Integers -/

/-- The integer to which a datum rounds, saturated to [lo, hi]; NaN gives 0 (R29, R124). -/
def toInt (r : Rnd) (lo hi : Int) : FV → Int
  | .nan => 0
  | .inf s => if s then lo else hi
  | .fin s m e =>
    let v := signed s (roundTo r s m e 0)
    if v < lo then lo else if hi < v then hi else v

/-- The integral value of a datum, its zero keeping the sign (R123). -/
def integral (r : Rnd) : FV → FV
  | .fin s m e => .fin s (roundTo r s m e 0) 0
  | x => x

/-! ### Narrow formats -/

/-- A format descriptor (R31). -/
structure Desc where
  w : Nat
  s : Bool
  e : Nat
  bias : Int
  spec : Nat
  sub : Bool
  blk : Nat
  scf : Nat
  rnd : Nat
  sat : Bool
  stream : Nat
  deriving DecidableEq, Repr

/-- The fields of a descriptor register (R31). -/
def descOf (v : Word) : Desc :=
  let n := v.toNat
  { w := nb n 0 3 + 1, s := tb n 3, e := nb n 4 3, bias := sx (nb n 7 8) 8, spec := nb n 15 2, sub := tb n 17, blk := nb n 18 2,
    scf := nb n 20 2, rnd := nb n 22 2, sat := tb n 24, stream := nb n 32 24 }

/-- Mantissa bits m = w - s - e, as a signed number. -/
def Desc.m (d : Desc) : Int := (d.w : Int) - b2n d.s - d.e

/-- R32. -/
def Desc.valid (d : Desc) : Bool :=
  decide (2 ≤ d.w) && decide (0 ≤ d.m) &&
    (decide (d.e ≠ 0) || (decide (1 ≤ d.m) && decide (d.spec = 0) && !d.sub)) &&
    (decide (d.spec ≠ 2) || (decide (2 ≤ d.e) && decide (1 ≤ d.m))) &&
    decide (d.spec ≠ 3) && decide (d.scf ≠ 3) && decide (d.rnd ≠ 3)

/-- Bits of a container (R35). -/
def Desc.box (d : Desc) : Nat := if d.w ≤ 4 then 4 else 8

/-- The largest magnitude code of a finite value: exponent and mantissa fields together (R31, R33). -/
def Desc.top (d : Desc) : Nat :=
  let mb := d.m.toNat
  match d.spec with
  | 0 => 2 ^ (d.e + mb) - 1
  | 1 => 2 ^ (d.e + mb) - 2
  | _ => (2 ^ d.e - 1) * 2 ^ mb - 1

/-- The datum of a code (R33). -/
def Desc.dec (d : Desc) (code : Nat) : FV :=
  let mb := d.m.toNat
  let v := code % 2 ^ d.w
  if d.e = 0 then
    (let i : Int := if d.s then sx v d.w else v
     .fin (decide (i < 0)) i.natAbs (-d.bias))
  else
    let s := d.s && tb v (d.w - 1)
    let ef := nb v mb d.e
    let mf := nb v 0 mb
    if d.spec = 1 ∧ ef = 2 ^ d.e - 1 ∧ mf = 2 ^ mb - 1 then .nan
    else if d.spec = 2 ∧ ef = 2 ^ d.e - 1 then (if mf = 0 then .inf s else .nan)
    else if ef = 0 then .fin s (if d.sub then mf else 0) (1 - d.bias - mb)
    else .fin s (2 ^ mb + mf) ((ef : Int) - d.bias - mb)

/-- The magnitude code to which a magnitude rounds in the format's grid, without an upper end (R34). -/
def Desc.grid (d : Desc) (r : Rnd) (s : Bool) (m : Nat) (e : Int) : Nat :=
  let mb := d.m.toNat
  let qmin := 1 - d.bias - mb
  let small := decide ((Nat.log2 m : Int) + e < 1 - d.bias)
  if small && !d.sub then
    -- between 0 and the least normal 2^(1 - bias); an exact tie goes to 0
    (if roundTo r s m e (1 - d.bias) = 0 then 0 else 2 ^ mb)
  else
    let q := quantum m e mb qmin
    roundTo r s m e q + (q - qmin).toNat * 2 ^ mb

/-- The code to which a datum encodes (R34). The NaN of a format with FD.SPEC = 10 has every M bit set; its sign bit, of which R34 says nothing,
is clear (DESIGN CHOICE, log 136). -/
def Desc.enc (d : Desc) (r : Rnd) (x : FV) : Nat :=
  let mb := d.m.toNat
  if d.e = 0 then
    let lo : Int := if d.s then -(2 ^ (d.w - 1)) else 0
    let hi : Int := if d.s then 2 ^ (d.w - 1) - 1 else 2 ^ d.w - 1
    let y := match x with
      | .fin s m e => FV.fin s m (e + d.bias)
      | z => z
    ((toInt r lo hi y) % (2 ^ d.w : Int)).toNat
  else
    let sign (s : Bool) : Nat := if d.s && s then 2 ^ (d.w - 1) else 0
    let beyond (s : Bool) : Nat :=
      if d.sat then sign s + d.top
      else match d.spec with
        | 2 => sign s + (2 ^ d.e - 1) * 2 ^ mb
        | 1 => sign s + (2 ^ (d.e + mb) - 1)
        | _ => sign s + d.top
    match x with
    | .nan => if d.spec = 0 then 0 else 2 ^ (d.e + mb) - 1
    | .inf s => if s && !d.s then 0 else beyond s
    | .fin s m e =>
      if s && !d.s then 0
      else if m = 0 then sign s
      else
        let c := d.grid r s m e
        if d.top < c then (if r = .rz then sign s + d.top else beyond s) else sign s + c

/-! ### Block scales -/

/-- The scale of a block from its entries (R36). -/
def scaleVal (scf lo hi : Nat) : FV :=
  match scf with
  | 0 => if lo % 256 = 255 then .nan else .fin false 1 ((lo % 256 : Nat) - 127 : Int)
  | 1 => wBf16.dec lo
  | _ => f32 (lo + hi * 65536)

/-- Elements of a block (R31). -/
def blockSize (blk : Nat) : Nat := if blk = 1 then 16 else if blk = 2 then 32 else 64

/-! ### Sums of the array -/

/-- The exact sum and the sum of magnitudes of finite terms, over 2^q. -/
def dyadicSum (q : Int) : List (Int × Int) → Int × Nat
  | [] => (0, 0)
  | (m, e) :: r =>
    let (t, a) := dyadicSum q r
    let v := scaleUp m e q
    (t + v, a + v.natAbs)

/-- The least exponent among terms, not above a start. -/
def minExp : Int → List (Int × Int) → Int
  | q, [] => q
  | q, (_, e) :: r => minExp (if e < q then e else q) r

/-- The finite terms as pairs of mantissa and exponent. -/
def finTerms : List FV → List (Int × Int)
  | [] => []
  | .fin n m e :: r => (signed n m, e) :: finTerms r
  | _ :: r => finTerms r

/-- R37: whether an FA40 code lies within the bound for the finite products and the prior value. -/
def withinArray (code : Nat) (products : List FV) (c : List FV) : Bool :=
  let ts := finTerms (products ++ c)
  match wFa40.dec code with
  | .fin n m e =>
    -- everything over 2^(q - 32)
    let q := minExp (if e < -149 then e else -149) ts
    let (t, a) := dyadicSum q ts
    let diff := (scaleUp (signed n m) e q - t).natAbs
    let k := products.length + 1
    decide (diff * 2 ^ 32 ≤ k * a + k * pow2 (-149 - q) * 2 ^ 32)
  | _ => false

/-- Whether no addition of finite terms rounds, in any order: each is a multiple of a power of two that FA40 holds, and their
magnitudes sum to at most 2^32 such units, short of overflow. -/
def sumsExactly (ts : List (Int × Int)) : Bool :=
  let q := minExp wFa40.qmin ts
  let unit := ts.foldl (fun g t => Nat.gcd g (scaleUp t.1 t.2 q).natAbs) (2 ^ 1100)
  let a := (dyadicSum q ts).2
  decide (pow2 (wFa40.qmin - q) ≤ unit) && decide (a ≤ 2 ^ 32 * unit) && decide (wFa40.dec (wFa40.enc .rne (.fin false a q)) ≠ .inf false)

/-- Terms that are not zero. -/
def nonZero (ts : List (Int × Int)) : List (Int × Int) := ts.filter (fun t => decide (t.1 ≠ 0))

/-- Whether FA40 holds a term exactly. -/
def heldExactly (t : Int × Int) : Bool := sumsExactly [t]

/-- Whether one addition at most can round, whatever the order: one product at most is not zero, or two terms that FA40 holds are all
that is not zero. Its rounding is RNE (R27, R37). -/
def roundsOnce (products c : List FV) : Bool :=
  decide ((nonZero (finTerms products)).length ≤ 1) ||
    (decide ((nonZero (finTerms (products ++ c))).length ≤ 2) && (finTerms (products ++ c)).all heldExactly)

/-- The FA40 that the array gives for products and a prior value (R37, R38): the exact sum rounded once where it is zero, where no
addition rounds or where one alone can, else the free choice of the part where it keeps the bound (log 21), else the exact sum
rounded once. -/
def arrayAdd (products : List FV) (c : List FV) : Nat :=
  match FV.sum (products ++ c) with
  | .fin s m e =>
    let exact := wFa40.enc .rne (.fin s m e)
    let free := (Config.arraySum (finTerms (products ++ c))).toNat
    if m = 0 ∨ sumsExactly (finTerms (products ++ c)) ∨ roundsOnce products c then exact
    else if wFa40.dec exact = .inf s then exact
    else if withinArray free products c then free
    else exact
  | x => wFa40.enc .rne x

/-! ### BOBBIN -/

/-- The round constants (R42). -/
def bobRc : List (BitVec 32) := [0x3A1C5E27#32, 0x7D4B9F13#32, 0xC2E6810B#32, 0x95F0D34C#32]

/-- One round. -/
def bobRound (ab : BitVec 32 × BitVec 32) (rc : BitVec 32) : BitVec 32 × BitVec 32 :=
  let a := ab.1 + ab.2
  let b := ab.2.rotateLeft 7 ^^^ a
  (a.rotateLeft 16 + rc, b)

/-- F of R42. -/
def bobF (a b : BitVec 32) : BitVec 32 × BitVec 32 := bobRc.foldl bobRound (a, b)

/-- BOBBIN (R42). -/
def bobbin (key : Word) (t : BitVec 24) (rho kappa : BitVec 32) : BitVec 32 :=
  let uv := bobF (key.setWidth 32) ((key >>> 32).setWidth 32 ^^^ t.setWidth 32)
  let ab := bobF (kappa ^^^ uv.1) (rho ^^^ uv.2)
  ab.1 ^^^ ab.2.rotateLeft 11

/-- The noise value k of a mode (R44); modes 00 and 11 give 0 (R144). -/
def noiseOf (mode : Nat) (o : BitVec 32) : Int :=
  match mode with
  | 1 => if o.getLsbD 31 then -1 else 1
  | 2 => (popNat 32 o.toNat : Int) - 16
  | _ => 0

/-- The exact w + sgn * sigma * k, rounded once to f32 (R45). -/
def perturb (w : FV) (minus : Bool) (sigma : BitVec 32) (k : Int) : Nat :=
  let p := (f32 sigma.toNat).mul (FV.ofInt k)
  toF32 (w.add (if minus then p.neg else p))

/-! ### Containers in memory -/

/-- The rounding of a descriptor at coordinates (R31, R35). -/
def descRnd (d : Desc) (ps7 : Word) (addr sub : Nat) : Rnd :=
  match d.rnd with
  | 0 => .rne
  | 1 => .rz
  | _ =>
    .sr (bobbin ps7 (BitVec.ofNat 24 d.stream) (BitVec.ofNat 32 addr)
      (BitVec.ofNat 32 (addr / 2 ^ 32 % 2 ^ 16 * 2 + sub))).toNat

/-- The container of a byte: the whole byte, or the low or high half (R35). -/
def boxGet (d : Desc) (byte sub : Nat) : Nat := if d.box = 4 then nb byte (4 * sub) 4 else byte

/-- A byte with a container replaced. -/
def boxPut (d : Desc) (byte sub code : Nat) : Nat :=
  if d.box = 4 then (if sub = 0 then byte / 16 * 16 + code % 16 else byte % 16 + code % 16 * 16) else code % 256

end Sys2Proof.Machine
end

