-- ==== Sys2Proof/Machine/Functions.lean ====
section
/-! DEFINITION. Division, square root and the eight function pairs: correctly rounded from enough bits of the exact value
(spec/02_numbers.md R40, R41; spec/05_vector_arith.md R120; spec/06_vector_flow.md R135). -/

namespace Sys2Proof.Machine

open Sys2Proof

/-! ### Exact quotients and roots, to enough bits -/

/-- A datum that rounds, in every mode, as the value between `k * 2^e` and `(k + 1) * 2^e` that equals `k * 2^e` when
`exact` holds. -/
def between (s : Bool) (k : Nat) (exact : Bool) (e : Int) : FV := .fin s (2 * k + (if exact then 0 else 1)) (e - 1)

/-- a / b (R119, R120). -/
def FV.div : FV → FV → FV
  | .nan, _ => .nan
  | _, .nan => .nan
  | .inf _, .inf _ => .nan
  | .inf a, .fin n _ _ => .inf (a != n)
  | .fin n _ _, .inf b => .fin (n != b) 0 0
  | .fin n1 m1 e1, .fin n2 m2 e2 =>
    if m2 = 0 then (if m1 = 0 then .nan else .inf (n1 != n2))
    else if m1 = 0 then .fin (n1 != n2) 0 0
    else
      let sh := Nat.log2 m2 + 64
      let k := m1 * 2 ^ sh / m2
      between (n1 != n2) k (decide (m1 * 2 ^ sh % m2 = 0)) (e1 - e2 - sh)

/-- The integer square root, by bits from `n` down. -/
def isqrt : Nat → Nat → Nat → Nat
  | 0, _, r => r
  | n + 1, v, r => let t := r + 2 ^ n; isqrt n v (if t * t ≤ v then t else r)

/-- The square root (R120). -/
def FV.sqrt : FV → FV
  | .nan => .nan
  | .inf s => if s then .nan else .inf false
  | .fin s m e =>
    if m = 0 then .fin s 0 0
    else if s then .nan
    else
      -- an even exponent with at least 64 bits of root
      let sh : Nat := 128 + ((e + 128) % 2).toNat
      let v := m * 2 ^ sh
      let r := isqrt (Nat.log2 v / 2 + 1) v 0
      between false r (decide (r * r = v)) ((e - sh) / 2)

/-! ### Fixed-point series -/

/-- Fraction bits of the series. -/
def fpBits : Nat := 448

/-- 1 in fixed point. -/
def fpOne : Int := 2 ^ fpBits

/-- A fixed-point product. -/
def fpMul (a b : Int) : Int := a * b / fpOne

/-- The sum of `t^(2k+1) / (2k+1)` from an odd index on, with the alternating sign for the arc tangent. -/
def oddSeries (t2 : Int) (alt : Bool) : Nat → Nat → Int → Int
  | 0, _, _ => 0
  | fuel + 1, n, p => p / n + oddSeries t2 alt fuel (n + 2) (if alt then -(fpMul p t2) else fpMul p t2)

/-- The inverse hyperbolic tangent of a number of magnitude at most 1/3. -/
def fpAtanh (t : Int) : Int := oddSeries (fpMul t t) false 150 1 t

/-- The arc tangent of 1/n. -/
def fpAtanInv (n : Nat) : Int := let t := fpOne / n; oddSeries (fpMul t t) true 110 1 t

/-- The natural logarithm of 2. -/
def fpLn2 : Int := 2 * fpAtanh (fpOne / 3)

/-- Pi. -/
def fpPi : Int := 16 * fpAtanInv 5 - 4 * fpAtanInv 239

/-- The sum of a power series whose term n + 1 is term n times `x / (n + 1)`. -/
def expSeries (x : Int) : Nat → Nat → Int → Int
  | 0, _, _ => 0
  | fuel + 1, n, p => p + expSeries x fuel (n + 1) (fpMul p x / n)

/-- e^x for a fixed-point x of magnitude at most 1. -/
def fpExp (x : Int) : Int := expSeries x 110 1 fpOne

/-- The sum of an alternating series whose term from n to n + 2 is multiplied by `x2 / (n (n + 1))`. -/
def trigSeries (x2 : Int) : Nat → Nat → Int → Int
  | 0, _, _ => 0
  | fuel + 1, n, p => p + trigSeries x2 fuel (n + 2) (-(fpMul p x2 / (n * (n + 1))))

/-- sin y for y of magnitude at most 2. -/
def fpSin (y : Int) : Int := trigSeries (fpMul y y) 70 2 y

/-- cos y for y of magnitude at most 2. -/
def fpCos (y : Int) : Int := trigSeries (fpMul y y) 70 1 fpOne

/-- A fixed-point value times 2^e as a datum that is not exact. -/
def fpVal (v : Int) (e : Int) : FV := between (decide (v < 0)) v.natAbs false (e - fpBits)

/-- A finite value in fixed point; its magnitude must lie below 2^64. -/
def toFp (s : Bool) (m : Nat) (e : Int) : Int :=
  let q := e + fpBits
  signed s (if 0 ≤ q then m * pow2 q else m / pow2 (-q))

/-- 2^(v / fpOne) as a datum. -/
def fpExp2 (v : Int) : FV :=
  let n := v / fpOne
  fpVal (fpExp (fpMul (v % fpOne) fpLn2)) n

/-! ### The functions on finite inputs -/

/-- Whether a finite value is an integer. -/
def isIntegral (m : Nat) (e : Int) : Bool := decide (0 ≤ e) || decide (m % pow2 (-e) = 0)

/-- The integer value of an integral magnitude. -/
def intVal (m : Nat) (e : Int) : Nat := if 0 ≤ e then m * pow2 e else m / pow2 (-e)

/-- 2^a. -/
def fnExp2 : FV → FV
  | .nan => .nan
  | .inf s => if s then .fin false 0 0 else .inf false
  | .fin s m e =>
    if m = 0 then .fin false 1 0
    else if 8 < (Nat.log2 m : Int) + e then fpVal fpOne (if s then -1000 else 1000)
    else if isIntegral m e then .fin false 1 (signed s (intVal m e))
    else fpExp2 (toFp s m e)

/-- log2 a. -/
def fnLog2 : FV → FV
  | .nan => .nan
  | .inf s => if s then .nan else .inf false
  | .fin s m e =>
    if m = 0 then .inf true
    else if s then .nan
    else
      let l := Nat.log2 m
      if m = 2 ^ l then FV.ofInt (l + e)
      else
        let x : Int := m * fpOne / 2 ^ l
        let t := (x - fpOne) * fpOne / (x + fpOne)
        fpVal (((l : Int) + e) * fpOne + 2 * fpAtanh t * fpOne / fpLn2) 0

/-- 1 / a. -/
def fnRcp (x : FV) : FV := (FV.fin false 1 0).div x

/-- 1 / sqrt a. -/
def fnRsq : FV → FV
  | .nan => .nan
  | .inf s => if s then .nan else .fin false 0 0
  | .fin s m e =>
    if m = 0 then .inf s
    else if s then .nan
    else
      -- floor (sqrt (2^n / m)) with n + e even and at least 64 bits of root
      let n := Nat.log2 m + 200 + ((e + Nat.log2 m + 200) % 2).toNat
      let v := 2 ^ n / m
      let r := isqrt (Nat.log2 v / 2 + 1) v 0
      between false r (decide (r * r * m = 2 ^ n)) (-((e + n) / 2))

/-- A finite value reduced modulo 2 to [0, 2), in fixed point. -/
def modTwo (s : Bool) (m : Nat) (e : Int) : Int :=
  if 1 ≤ e then 0 else toFp s (m % pow2 (1 - e)) e % (2 * fpOne)

/-- sin(pi a). -/
def fnSinPi : FV → FV
  | .nan => .nan
  | .inf _ => .nan
  | .fin s m e =>
    if isIntegral m e then .fin s 0 0
    else
      let r := modTwo false m e
      -- the sine of a magnitude in (0, 2): negative beyond 1, and mirrored about 1/2
      let low := if fpOne < r then r - fpOne else r
      let neg := s != decide (fpOne < r)
      let h := if fpOne < 2 * low then fpOne - low else low
      if 2 * h = fpOne then .fin neg 1 0
      else
        let v := fpSin (fpMul h fpPi)
        fpVal (if neg then -v else v) 0

/-- cos(pi a). -/
def fnCosPi : FV → FV
  | .nan => .nan
  | .inf _ => .nan
  | .fin _ m e =>
    if isIntegral m e then .fin (decide (0 ≤ e ∧ m * pow2 e % 2 = 1 ∨ e < 0 ∧ m / pow2 (-e) % 2 = 1)) 1 0
    else
      let r := modTwo false m e
      -- mirrored about 1, then negative beyond 1/2
      let low := if fpOne < r then 2 * fpOne - r else r
      if 2 * low = fpOne then .fin false 0 0
      else
        let h := if fpOne < 2 * low then fpOne - low else low
        let v := fpCos (fpMul h fpPi)
        fpVal (if fpOne < 2 * low then -v else v) 0

/-- tanh a = (1 - t) / (1 + t) with t = e^(-2 |a|). -/
def fnTanh : FV → FV
  | .nan => .nan
  | .inf s => .fin s 1 0
  | .fin s m e =>
    if m = 0 then .fin s 0 0
    else if 6 < (Nat.log2 m : Int) + e then between s (2 ^ 64 - 1) false (-64)
    else if (Nat.log2 m : Int) + e < -60 then between s (m * 2 ^ 40 - 1) false (e - 40)
    else
      let x := toFp false m e
      -- e^(-2x) = 2^(-2x / ln 2)
      let y := -(2 * x * fpOne / fpLn2)
      let n := y / fpOne
      let t := fpExp (fpMul (y % fpOne) fpLn2) / 2 ^ (-n).toNat
      let v := (fpOne - t) * fpOne / (fpOne + t)
      fpVal (if s then -v else v) 0

/-- 1 / (1 + e^(-a)). -/
def fnSigm : FV → FV
  | .nan => .nan
  | .inf s => if s then .fin false 0 0 else .fin false 1 0
  | .fin s m e =>
    if m = 0 then .fin false 1 (-1)
    else if 7 < (Nat.log2 m : Int) + e then (if s then fpVal fpOne (-1000) else between false (2 ^ 64 - 1) false (-64))
    else
      let y := -(toFp false m e * fpOne / fpLn2)
      let n := y / fpOne
      -- t = e^(-|a|), scaled by 2^(-n) so that its bits are kept
      let u := fpExp (fpMul (y % fpOne) fpLn2)
      let t := u / 2 ^ (-n).toNat
      if s then fpVal (u * fpOne / (fpOne + t)) n
      else fpVal (fpOne * fpOne / (fpOne + t)) 0

/-- The function of number fn, in the order of R65: VEXP2 0, VLOG2, VRCP, VRSQ, VSINPI, VCOSPI, VTANH, VSIGM 7. -/
def fnExact (fn : Nat) (x : FV) : FV :=
  match fn with
  | 0 => fnExp2 x
  | 1 => fnLog2 x
  | 2 => fnRcp x
  | 3 => fnRsq x
  | 4 => fnSinPi x
  | 5 => fnCosPi x
  | 6 => fnTanh x
  | _ => fnSigm x

/-! ### The two forms -/

/-- The inputs for which R41 fixes the result of both forms, besides NaN. -/
def fnFixed (fn : Nat) (x : FV) : Bool :=
  match x with
  | .nan => true
  | .inf _ => true
  | .fin s m e =>
    match fn with
    | 0 => decide (m = 0) || (isIntegral m e && decide ((Nat.log2 m : Int) + e ≤ 8) &&
        decide (-149 ≤ signed s (intVal m e)) && decide (signed s (intVal m e) ≤ 127))
    | 1 => decide (m = 0) || s || decide (m = 2 ^ Nat.log2 m)
    | 2 => decide (m = 0)
    | 3 => decide (m = 0) || s
    | 4 => isIntegral m e
    | 5 => isIntegral m e || isIntegral (2 * m) e
    | 6 => decide (m = 0)
    | _ => decide (m = 0)

/-- The bound of R40 in ulp. -/
def fnBound (fn : Nat) : Nat :=
  match fn with
  | 0 => 2
  | 1 => 2
  | 2 => 1
  | 3 => 2
  | _ => 3

/-- Whether an f32 lies within the bound of R40 of an exact finite value. -/
def withinUlp (bound : Nat) (code : Nat) : FV → Bool
  | .fin s m e =>
    (match f32 code with
     | .fin s2 m2 e2 =>
       let l := if m = 0 then -126 else (Nat.log2 m : Int) + e
       let u := (if l < -126 then -126 else l) - 23
       let q := if e ≤ e2 then e else e2
       let q := if q ≤ u then q else u
       decide ((scaleUp (signed s2 m2) e2 q - scaleUp (signed s m) e q).natAbs ≤ bound * pow2 (u - q))
     | _ => false)
  | _ => false

/-- Whether the bound of R40 covers an input: 2^a beyond the range of f32 has none. -/
def fnBounded (fn : Nat) (y : FV) : Bool :=
  match fn, y with
  | 0, .fin _ m e => decide ((Nat.log2 m : Int) + e < 128)
  | _, _ => true

/-- A finite value that is no integer, reduced exactly into [-1, 1] by a multiple of 2 (R40). -/
def reduceTwo : FV → FV
  | .fin s m e =>
    let two := pow2 (1 - e)
    let r := m % two
    if two < 2 * r then .fin (!s) (two - r) e else .fin s r e
  | x => x

/-- The f32 that the fast form looks at: the reduced argument of VSINPI and VCOSPI, and the input of the others (R40). -/
def fastKey (fn : Nat) (v : Nat) : Nat := if fn = 4 ∨ fn = 5 then toF32 (reduceTwo (f32 v)) else v

/-- The f32 result of a function pair on an f32 (R40, R41, R135): the fast form is a free choice within its bound, and any f32 beyond
it, a NaN among them canonical (R25, log 20). -/
def fnApply (fn : Nat) (fast : Bool) (v : Nat) : Nat :=
  let x := f32 v
  let y := fnExact fn x
  let r := toF32 y
  if !fast || fnFixed fn x then r
  else
    let c := toF32 (f32 (Config.fastForm fn (BitVec.ofNat 32 (fastKey fn v))).toNat)
    if !fnBounded fn y || withinUlp (fnBound fn) c y then c else r

end Sys2Proof.Machine
end

