-- ==== Sys2Proof/Machine/Lanes.lean ====
section
/-! DEFINITION. What the computing words of the vector stream and the micro-ops compute from their operands, lane by lane
(spec/03_streams.md R59, R62, R63; spec/05_vector_arith.md R119 to R132; spec/06_vector_flow.md R135 to R144, R151;
spec/17_control_store.md R332). -/

namespace Sys2Proof.Machine

open Sys2Proof

/-! ### Types and elements -/

/-- The wide format of a float type code (R59). -/
def wideOf (t : Nat) : Wide := if t = 1 then wBf16 else if t = 2 then wH16 else wF32

/-- Whether a type code is a float type. -/
def isFloat (t : Nat) : Bool := decide (t = 0) || decide (t = 1) || decide (t = 2) || decide (t = 10)

/-- Whether an integer type is signed. -/
def isSigned (t : Nat) : Bool := decide (t = 3) || decide (t = 5) || decide (t = 7)

/-- Width of an element in bits (R30). -/
def elemBits (t : Nat) : Nat := 32 / perLane t

/-- Element `k` of a lane (R30). -/
def elemOf (t : Nat) (v : Lane) (k : Nat) : Nat := nb v.toNat (k * elemBits t) (elemBits t)

/-- A lane from its elements, lowest first. -/
def packLane (t : Nat) (es : List Nat) : Lane :=
  BitVec.ofNat 32 (es.foldr (fun e acc => e % 2 ^ elemBits t + 2 ^ elemBits t * acc) 0)

/-- A lane computed element by element. -/
def mapLane (t : Nat) (f : Nat → Nat) : Lane := packLane t ((upTo (perLane t)).map f)

/-- The exact value of an element of a type (R124). -/
def elemVal (t v : Nat) : FV :=
  if isFloat t then (wideOf t).dec v else if isSigned t then FV.ofInt (sx v (elemBits t)) else FV.ofInt v

/-- Lane `l` of a list of lanes. -/
def laneAt (ls : List Lane) (l : Nat) : Lane := ls[l]?.getD 0

/-- Bit `l` of a lane mask. -/
def enabled (m : BitVec 64) (l : Nat) : Bool := m.getLsbD l

/-- A lane mask from a predicate. -/
def maskOf (p : Nat → Bool) : BitVec 64 := BitVec.ofNat 64 (boolsNat ((upTo 64).map p))

/-- 64 lanes from a function. -/
def lanes64 (f : Nat → Lane) : List Lane := (upTo 64).map f

/-! ### Scalar and special operands (R62, R63) -/

/-- The lane that an immediate supplies. -/
def immLane (t : Nat) (v : BitVec 21) : Lane :=
  let n := v.toNat
  if t = 0 ∨ t = 10 then BitVec.ofNat 32 (n * 2048)
  else if t = 1 ∨ t = 2 then mapLane t (fun _ => (wideOf t).enc .rne (f32 (n * 2048)))
  else if perLane t = 1 then BitVec.ofInt 32 v.toInt
  else mapLane t (fun _ => n)

/-- The lane that an x register supplies. -/
def xLane (t : Nat) (x : Word) : Lane := mapLane t (fun _ => x.toNat)

/-- An integer as an element of a type. -/
def intElem (t n : Nat) : Nat := if isFloat t then (wideOf t).enc .rne (FV.ofInt n) else n

/-- The lane that a special operand supplies. -/
def specialLane (t id l : Nat) (mtop : BitVec 64) : Lane :=
  match id with
  | 0 => mapLane t (fun _ => intElem t l)
  | 1 => mapLane t (fun _ => intElem t (b2n (enabled mtop l)))
  | 2 => BitVec.allOnes 32
  | _ => 0

/-- A captured scalar: its 64-bit value in the first two lanes (R196). -/
def scalarLanes (x : Word) : List Lane := x.setWidth 32 :: (x >>> 32).setWidth 32 :: List.replicate 62 0

/-- The value of a captured scalar. -/
def lanesScalar (ls : List Lane) : Word := (laneAt ls 1).setWidth 64 <<< 32 ||| (laneAt ls 0).setWidth 64

/-- The lanes of an operand read as a type, from its capture (R61 to R63, R196). -/
def operandLanes (t : Nat) (o : Operand) (cap : List Lane) (mtop : BitVec 64) : List Lane :=
  match o with
  | .xreg _ => List.replicate 64 (xLane t (lanesScalar cap))
  | .imm v => List.replicate 64 (immLane t v)
  | .special id => lanes64 (fun l => specialLane t id.toNat l mtop)
  | _ => cap

/-! ### Elementwise float operations -/

/-- Whether `a` is below `b` where -0 counts as less than +0 (R121). -/
def orderedLt (f : Wide) (a b : Nat) : Bool :=
  let x := f.dec a
  let y := f.dec b
  if x.eqv y then tb a (f.eb + f.fb) && !tb b (f.eb + f.fb) else x.lt y

/-- VMIN and VMAX of two float codes (R121). -/
def fMinMax (isMax : Bool) (f : Wide) (a b : Nat) : Nat :=
  if (f.dec a).isNan then (if (f.dec b).isNan then f.nan else b)
  else if (f.dec b).isNan then a
  else if isMax then (if orderedLt f a b then b else a)
  else (if orderedLt f b a then b else a)

/-- A code without its sign bit. -/
def magCode (f : Wide) (a : Nat) : Nat := a % 2 ^ (f.eb + f.fb)

/-- VRND (R123). -/
def fRound (f : Wide) (mode a : Nat) : Nat :=
  let r : Rnd := if mode = 0 then .rne else if mode = 1 then .rz else if mode = 2 then .rdn else .rup
  match f.dec a with
  | .nan => f.nan
  | .inf _ => a
  | x => f.enc r (integral r x)

/-- VEXPO (R126). -/
def fExpo (a : Nat) : Nat :=
  match f32 a with
  | .nan => 0x7FFFFFFF
  | .inf _ => 0x7FFFFFFF
  | .fin _ m e => if m = 0 then 0x80000000 else (BitVec.ofInt 32 ((Nat.log2 m : Int) + e)).toNat

/-- VSCALE (R126). -/
def fScale (a : Nat) (n : Int) : Nat :=
  match f32 a with
  | .fin s m e => if m = 0 then a else toF32 (.fin s m (e + (if n < -1000 then -1000 else if 1000 < n then 1000 else n)))
  | .inf _ => a
  | .nan => wF32.nan

/-- A float element of opcodes 0x20 to 0x38 (R119 to R127); `d` is the prior destination. -/
def fElem (op : Nat) (f : Wide) (mode a b d : Nat) : Nat :=
  let x := f.dec a
  let y := f.dec b
  let z := f.dec d
  match op with
  | 0x20 => f.enc .rne (x.add y)
  | 0x21 => f.enc .rne (x.add y.neg)
  | 0x22 => f.enc .rne (x.mul y)
  | 0x23 => f.enc .rne ((x.mul y).add z)
  | 0x24 => f.enc .rne ((x.mul y).add z.neg)
  | 0x25 => f.enc .rne ((x.mul y).neg.add z)
  | 0x26 => fMinMax false f a b
  | 0x27 => fMinMax true f a b
  | 0x28 => if x.isNan then f.nan else magCode f a
  | 0x29 => if x.isNan then f.nan else (if tb a (f.eb + f.fb) then magCode f a else a + f.sign true)
  | 0x2A => if x.isNan then f.nan else magCode f a + f.sign (tb b (f.eb + f.fb))
  | 0x31 => fRound f mode a
  | 0x35 => fExpo a
  | 0x36 => fMinMax false f (fMinMax true f d a) b
  | 0x37 => f.enc .rne (x.div y)
  | 0x38 => f.enc .rne x.sqrt
  | _ => 0

/-! ### Comparisons (R128) -/

/-- Whether the relation of opcode 0x2B to 0x2F holds. -/
def relation (op t a b : Nat) : Bool :=
  if isFloat t then
    let x := (wideOf t).dec a
    let y := (wideOf t).dec b
    match op with
    | 0x2B => x.eqv y
    | 0x2C => x.lt y
    | 0x2D => x.lt y || x.eqv y
    | 0x2E => !x.eqv y
    | _ => x.isNan || y.isNan
  else
    let v (n : Nat) : Int := if isSigned t then sx n (elemBits t) else n
    match op with
    | 0x2B => decide (a = b)
    | 0x2C => decide (v a < v b)
    | 0x2D => decide (v a ≤ v b)
    | _ => decide (a ≠ b)

/-! ### Integer and bit elements (R121, R127, R130 to R132) -/

/-- The integer value of an element. -/
def intOf (t v : Nat) : Int := if isSigned t then sx v (elemBits t) else v

/-- The least and greatest value of an integer type. -/
def intRange (t : Nat) : Int × Int :=
  let w := elemBits t
  if isSigned t then (-(2 ^ (w - 1)), 2 ^ (w - 1) - 1) else (0, 2 ^ w - 1)

/-- An integer as an element of width `w`. -/
def wrapW (w : Nat) (i : Int) : Nat := (i % (2 ^ w : Int)).toNat

/-- A value saturated to the range of a type. -/
def satElem (t : Nat) (i : Int) : Nat :=
  let r := intRange t
  wrapW (elemBits t) (if i < r.1 then r.1 else if r.2 < i then r.2 else i)

/-- An integer element of opcodes 0x26, 0x27, 0x36 and 0x40 to 0x4F. -/
def iElem (op t a b d : Nat) : Nat :=
  let w := elemBits t
  let mn (x y : Nat) : Nat := if intOf t y < intOf t x then y else x
  let mx (x y : Nat) : Nat := if intOf t x < intOf t y then y else x
  match op with
  | 0x26 => mn a b
  | 0x27 => mx a b
  | 0x36 => mn (mx d a) b
  | 0x40 => wrapW w (a + b)
  | 0x41 => wrapW w ((a : Int) - b)
  | 0x42 => wrapW w (a * b)
  | 0x43 => wrapW w (a * b + d)
  | 0x44 => a &&& b
  | 0x45 => a ||| b
  | 0x46 => a ^^^ b
  | 0x47 => if b < w then wrapW w (a * 2 ^ b) else 0
  | 0x48 => if b < w then a / 2 ^ b else 0
  | 0x49 => wrapW w (sx a w / 2 ^ (if b < w then b else w))
  | 0x4A => popNat w a
  | 0x4B => clzNat w a
  | 0x4C => wrapW w ((sx a w).natAbs)
  | 0x4D => satElem t (intOf t a + intOf t b)
  | 0x4E => satElem t (intOf t a - intOf t b)
  | 0x4F => (a &&& d) ||| (b &&& (2 ^ w - 1 - d % 2 ^ w))
  | _ => 0

/-! ### Conversion (R124) -/

/-- The mode operand of VCVT: rounding code, part, stream id and base of rho. -/
structure CvtMode where
  mode : Nat
  part : Nat
  stream : BitVec 24
  rho : BitVec 32

/-- The mode operand from an immediate or an x register. -/
def cvtMode (b : Operand) (cap : List Lane) : CvtMode :=
  match b with
  | .imm v => { mode := v.toNat % 4, part := v.toNat / 4 % 4, stream := 0, rho := 0 }
  | _ =>
    let x := lanesScalar cap
    { mode := x.toNat % 4, part := x.toNat / 4 % 4, stream := BitVec.ofNat 24 (x.toNat / 16), rho := BitVec.ofNat 32 (x.toNat / 2 ^ 32) }

/-- The rounding of destination element `e` in repeat `j`. -/
def cvtRnd (c : CvtMode) (ps7 : Word) (j e : Nat) : Rnd :=
  match c.mode with
  | 1 => .rz
  | 2 => .sr (bobbin ps7 c.stream (c.rho + BitVec.ofNat 32 j) (BitVec.ofNat 32 e)).toNat
  | _ => .rne

/-- CONVERT of R124. -/
def convertElem (src dst : Nat) (r : Rnd) (v : Nat) : Nat :=
  let x := elemVal src v
  if isFloat dst then (wideOf dst).enc r x
  else wrapW (elemBits dst) (toInt r (intRange dst).1 (intRange dst).2 x)

/-- The part that counts: modulo the ratio of the packings. -/
def cvtPart (src dst : Nat) (c : CvtMode) : Nat :=
  let ns := perLane src
  let nd := perLane dst
  c.part % (if nd > ns then nd / ns else ns / nd)

/-- Lanes that a conversion writes: those of its part when it narrows. -/
def cvtLanes (src dst : Nat) (c : CvtMode) : BitVec 64 :=
  let ns := perLane src
  let nd := perLane dst
  if nd > ns then
    let n := 64 * ns / nd
    let p := cvtPart src dst c
    maskOf (fun l => decide (n * p ≤ l) && decide (l < n * (p + 1)))
  else BitVec.allOnes 64

/-- The number of the source element for destination element `e`. -/
def cvtSource (src dst : Nat) (c : CvtMode) (e : Nat) : Nat :=
  let ns := perLane src
  let nd := perLane dst
  let p := cvtPart src dst c
  if nd > ns then e - 64 * ns * p else e + 64 * nd * p

/-- The converted lanes. -/
def cvtLanesOf (src dst : Nat) (c : CvtMode) (ps7 : Word) (j : Nat) (a : List Lane) : List Lane :=
  let ns := perLane src
  let nd := perLane dst
  lanes64 (fun l => mapLane dst (fun k =>
    let e := nd * l + k
    let i := cvtSource src dst c e
    convertElem src dst (cvtRnd c ps7 j e) (elemOf src (laneAt a (i / ns)) (i % ns))))

/-! ### Dot products (R125) -/

/-- One lane of VDOT. -/
def dotLane (t : Nat) (a b d : Lane) : Lane :=
  let n := perLane t
  if isFloat t then
    let terms := f32 d.toNat :: (upTo n).map (fun k => (elemVal t (elemOf t a k)).mul (elemVal t (elemOf t b k)))
    BitVec.ofNat 32 (toF32 (FV.sum terms))
  else
    BitVec.ofInt 32 ((d.toNat : Int) + ((upTo n).map (fun k => intOf t (elemOf t a k) * intOf t (elemOf t b k))).foldl (· + ·) 0)

/-! ### Reductions and scans (R139, R140) -/

/-- The tree's operation on two lanes: the sum or the maximum. -/
def treeOp (isMax : Bool) (t : Nat) (x y : Lane) : Lane :=
  BitVec.ofNat 32 (if isFloat t then (if isMax then fMinMax true wF32 x.toNat y.toNat else fElem 0x20 wF32 0 x.toNat y.toNat 0)
    else iElem (if isMax then 0x27 else 0x40) t x.toNat y.toNat 0)

/-- IDENTITY of R139. -/
def treeIdentity (isMax : Bool) (t : Nat) : Lane :=
  if isFloat t then (if isMax then 0xFF800000#32 else 0x80000000#32)
  else if isMax ∧ isSigned t then 0x80000000#32 else 0#32

/-- One level of the tree. -/
def treeLevel (isMax : Bool) (t : Nat) : List Lane → List Lane
  | x :: y :: r => treeOp isMax t x y :: treeLevel isMax t r
  | r => r

/-- The lanes with IDENTITY for disabled ones. -/
def withIdentity (isMax : Bool) (t : Nat) (en : BitVec 64) (a : List Lane) : List Lane :=
  lanes64 (fun l => if enabled en l then laneAt a l else treeIdentity isMax t)

/-- The value of the tree: six levels. -/
def treeValue (isMax : Bool) (t : Nat) (en : BitVec 64) (a : List Lane) : Lane :=
  let go := treeLevel isMax t
  laneAt (go (go (go (go (go (go (withIdentity isMax t en a))))))) 0

/-- One step of the scan, at distance 2^k. -/
def scanStep (t : Nat) (v : List Lane) (k : Nat) : List Lane :=
  lanes64 (fun l => if 2 ^ k ≤ l then treeOp false t (laneAt v (l - 2 ^ k)) (laneAt v l) else laneAt v l)

/-- The inclusive prefix sums. -/
def scanValue (t : Nat) (en : BitVec 64) (a : List Lane) : List Lane :=
  (upTo 6).foldl (scanStep t) (withIdentity false t en a)

/-! ### Lane movers (R137, R138) -/

/-- The lane number of VBCAST or the distance of VROT: an immediate, or x[5:0]. -/
def moveCount (b : Operand) (cap : List Lane) : Nat :=
  match b with
  | .imm v => (v.toInt % 64).toNat
  | _ => (lanesScalar cap).toNat % 64

/-- The enabled lane numbers of a mask, ascending. -/
def setLanes (m : BitVec 64) : List Nat := (upTo 64).filter (fun l => enabled m l)

/-! ### Results -/

/-- A result: the lanes, the lanes of the odd tile of an a40 destination, and which lanes are written. -/
structure VRes where
  lo : List Lane
  hi : Option (List Lane)
  wr : BitVec 64

/-- A plain result. -/
def VRes.plain (lo : List Lane) : VRes := { lo, hi := none, wr := BitVec.allOnes 64 }

/-- The FA40 code of an a40 pair (R136). -/
def a40Code (lo hi : Lane) : Nat := lo.toNat + hi.toNat % 256 * 2 ^ 32

/-- The operands of a computation: opcode, type, source type, repeat, the captures of A, B and D, the operand fields of A
and B, the mask top, the enable mask and the seed register named. -/
structure VIn where
  op : Nat
  t : Nat
  src : Nat
  rep : Nat
  fa : Operand
  fb : Operand
  a : List Lane
  b : List Lane
  d : List Lane
  mtop : BitVec 64
  en : BitVec 64
  key : Word

/-- Lane `l` of VMOV, VBCAST, VPERM and VROT taken from the lanes of A. -/
def moveLane (i : VIn) (a : List Lane) (l : Nat) : Lane :=
  match i.op with
  | 0x61 => laneAt a (moveCount i.fb i.b)
  | 0x62 => laneAt a ((laneAt (operandLanes 3 i.fb i.b i.mtop) l).toNat % 64)
  | 0x63 => laneAt a ((l + moveCount i.fb i.b) % 64)
  | _ => laneAt a l

/-- VMOV with the a40 view (R136). -/
def moveA40 (i : VIn) : VRes :=
  if i.t = 11 then
    if i.src = 11 then { lo := i.a, hi := some (i.b.map (fun v => v &&& 0xFF#32)), wr := BitVec.allOnes 64 }
    else
      let c (v : Lane) : Nat := wFa40.enc .rne (f32 v.toNat)
      { lo := i.a.map (fun v => BitVec.ofNat 32 (c v)), hi := some (i.a.map (fun v => BitVec.ofNat 32 (c v / 2 ^ 32))),
        wr := BitVec.allOnes 64 }
  else VRes.plain (lanes64 (fun l => BitVec.ofNat 32 (toF32 (wFa40.dec (a40Code (laneAt i.a l) (laneAt i.b l))))))

/-- The noise words (R144); `i.a` gives rho. -/
def noiseLane (i : VIn) (rho : List Lane) (l : Nat) : Lane :=
  let x := lanesScalar i.b
  let kappa := BitVec.ofNat 32 (x.toNat / 2 ^ 32 + 64 * i.rep + l)
  let o := bobbin i.key (BitVec.ofNat 24 (x.toNat / 256)) (laneAt rho l) kappa
  if i.op = 0x6A then
    (if i.t = 4 then o else BitVec.ofNat 32 (toF32 (.fin false (o.toNat / 256) (-24))))
  else
    let k := noiseOf (x.toNat / 8 % 4) o
    if i.t = 3 then BitVec.ofInt 32 k else BitVec.ofNat 32 (toF32 (FV.ofInt k))

/-- What a computing word computes from its captured operands (R332 takes the micro-ops to the same computation). -/
def vcompute (i : VIn) : VRes :=
  let t := i.t
  let a := operandLanes t i.fa i.a i.mtop
  let b := operandLanes t i.fb i.b i.mtop
  let each (g : Nat → Nat → Nat → Nat) : VRes :=
    VRes.plain (lanes64 (fun l => mapLane t (fun k =>
      g (elemOf t (laneAt a l) k) (elemOf t (laneAt b l) k) (elemOf t (laneAt i.d l) k))))
  let op := i.op
  if op = 0x30 then VRes.plain (lanes64 (fun l => if enabled i.mtop l then laneAt a l else laneAt b l))
  else if 0x2B ≤ op ∧ op ≤ 0x2F then each (fun x y _ => if relation op t x y then 2 ^ elemBits t - 1 else 0)
  else if op = 0x31 then each (fun x y z => fElem op (wideOf t) (immNat i.fb) x y z)
  else if op = 0x32 then
    let c := cvtMode i.fb i.b
    { lo := cvtLanesOf i.src t c i.key i.rep (operandLanes i.src i.fa i.a i.mtop), hi := none, wr := cvtLanes i.src t c }
  else if op = 0x33 then VRes.plain (lanes64 (fun l => dotLane t (laneAt a l) (laneAt b l) (laneAt i.d l)))
  else if op = 0x34 then
    let n := operandLanes 3 i.fb i.b i.mtop
    VRes.plain (lanes64 (fun l => BitVec.ofNat 32 (fScale (laneAt a l).toNat (laneAt n l).toInt)))
  else if 0x20 ≤ op ∧ op ≤ 0x38 then
    (if isFloat t then each (fun x y z => fElem op (wideOf t) 0 x y z) else each (fun x y z => iElem op t x y z))
  else if op = 0x4F ∨ op = 0x44 ∨ op = 0x45 ∨ op = 0x46 then
    VRes.plain (lanes64 (fun l => BitVec.ofNat 32 (iElem op 9 (laneAt a l).toNat (laneAt b l).toNat (laneAt i.d l).toNat)))
  else if 0x40 ≤ op ∧ op ≤ 0x4E then each (fun x y z => iElem op t x y z)
  else if 0x50 ≤ op ∧ op ≤ 0x5F then
    VRes.plain (lanes64 (fun l => BitVec.ofNat 32 (fnApply ((op - 0x50) / 2) (decide (op % 2 = 0)) (laneAt a l).toNat)))
  else if op = 0x60 then (if t = 11 ∨ i.src = 11 then moveA40 i else VRes.plain (lanes64 (moveLane i a)))
  else if 0x61 ≤ op ∧ op ≤ 0x63 then VRes.plain (lanes64 (moveLane i a))
  else if op = 0x64 ∨ op = 0x65 then VRes.plain (List.replicate 64 (treeValue (decide (op = 0x65)) t i.en a))
  else if op = 0x67 then VRes.plain (List.replicate 64 (laneAt i.a 0))
  else if op = 0x68 then VRes.plain (scanValue t i.en a)
  else if op = 0x69 then
    let set := setLanes i.mtop
    VRes.plain (lanes64 (fun l => match set[l]? with
      | some k => laneAt a k
      | none => laneAt b l))
  else if op = 0x6A ∨ op = 0x6B then VRes.plain (lanes64 (noiseLane i (operandLanes 3 i.fa i.a i.mtop)))
  else VRes.plain a

/-! ### Poison marks of results (R115) -/

/-- The marks of the result lanes from the marks of the source lanes: `pa`, `pb`, `pd`; `pd` counts for a destination that
is read. -/
def vpoison (i : VIn) (pa pb pd : BitVec 64) (rw : Bool) : BitVec 64 :=
  let any (p : BitVec 64) (ls : List Nat) : Bool := ls.any (fun l => enabled p l)
  match i.op with
  | 0x30 => maskOf (fun l => if enabled i.mtop l then enabled pa l else enabled pb l)
  | 0x32 =>
    let c := cvtMode i.fb i.b
    let nd := perLane i.t
    maskOf (fun l => any pa ((upTo nd).map (fun k => cvtSource i.src i.t c (nd * l + k) / perLane i.src)))
  | 0x61 => maskOf (fun _ => enabled pa (moveCount i.fb i.b))
  | 0x62 =>
    let ix := operandLanes 3 i.fb i.b i.mtop
    maskOf (fun l => enabled pb l || enabled pa ((laneAt ix l).toNat % 64))
  | 0x63 => maskOf (fun l => enabled pa ((l + moveCount i.fb i.b) % 64))
  | 0x64 => maskOf (fun _ => decide (pa &&& i.en ≠ 0))
  | 0x65 => maskOf (fun _ => decide (pa &&& i.en ≠ 0))
  | 0x68 => maskOf (fun l => (upTo (l + 1)).any (fun k => enabled (pa &&& i.en) k))
  | 0x69 =>
    let set := setLanes i.mtop
    maskOf (fun l => match set[l]? with
      | some k => enabled pa k
      | none => enabled pb l)
  | _ => pa ||| pb ||| (if rw then pd else 0)

/-! ### x-register words (R151) -/

/-- The integer operand B of an x-register word: an x register or a sign-extended immediate. -/
def xOperand (b : Operand) (cap : List Lane) : Word :=
  match b with
  | .imm v => v.signExtend 64
  | _ => lanesScalar cap

/-- The value an x-register word writes, from its captured operands; `sub` tells the second form of XLIMM. -/
def xcompute (op sub t : Nat) (fb : Operand) (a b : List Lane) : Word :=
  let x := lanesScalar a
  let y := xOperand fb b
  let sh := y.toNat % 64
  match op with
  | 0x10 => x + y
  | 0x11 => x - y
  | 0x12 => x * y
  | 0x13 => x <<< sh
  | 0x14 => x.sshiftRight sh
  | 0x15 => x &&& y
  | 0x16 => x ||| y
  | 0x17 => if sub = 1 then x <<< 21 ||| BitVec.ofNat 64 (immNat fb) else y
  | 0x18 => (laneAt a sh).setWidth 64
  | 0x1C =>
    bw (match t with
      | 0 => decide (x = y)
      | 1 => decide (x ≠ y)
      | 2 => x.slt y
      | _ => x.ult y)
  | _ => x

/-! ### Amax (R141) -/

/-- am[n] after elements of the enabled lanes contribute. -/
def amaxWith (am : BitVec 32) (vs : List FV) : BitVec 32 :=
  vs.foldl (fun m v =>
    if (f32 m.toNat).isNan then m
    else match v with
      | .nan => BitVec.ofNat 32 wF32.nan
      | x => BitVec.ofNat 32 (fMinMax true wF32 m.toNat (toF32 x.abs))) am

/-- The elements that VAMAX contributes. -/
def amaxElems (t : Nat) (en : BitVec 64) (a : List Lane) : List FV :=
  ((upTo 64).filter (fun l => enabled en l)).flatMap (fun l => (upTo (perLane t)).map (fun k => elemVal t (elemOf t (laneAt a l) k)))

end Sys2Proof.Machine
end

