-- ==== Sys2Proof/Machine/Frame.lean ====
section
/-! DEFINITION. The composite frame area as bytes: the record, the vector part, the port section, the loop section and the
custom section (spec/08_latency.md R196, R197; spec/09_scratchpad.md R220; spec/10_engines.md R248, R249;
spec/11_loops.md R251; spec/17_control_store.md R342). -/

namespace Sys2Proof.Machine

open Sys2Proof

/-! ### Latencies -/

/-- Latency of a fixed-latency opcode for a type (R117, R133, R151, R157); none for the others. -/
def latencyOf (op t : Nat) : Option Nat :=
  let two (n : Nat) : Option Nat := some (if isFloat t then n else 2)
  if op = 0x26 ∨ op = 0x27 ∨ op = 0x36 then two 4
  else if 0x2B ≤ op ∧ op ≤ 0x2E then two 4
  else if op = 0x30 then some 3
  else if 0x23 ≤ op ∧ op ≤ 0x25 then some 5
  else if op = 0x33 then some 5
  else if op = 0x37 then some 20
  else if op = 0x38 then some 16
  else if 0x20 ≤ op ∧ op ≤ 0x36 then some 4
  else if 0x40 ≤ op ∧ op ≤ 0x4F then some 2
  else if 0x50 ≤ op ∧ op ≤ 0x5F then some (if op % 2 = 0 then 8 else 16)
  else if op = 0x64 ∨ op = 0x65 then some 8
  else if op = 0x66 then some 4
  else if op = 0x68 then some 10
  else if op = 0x6A then some 6
  else if op = 0x6B then some 7
  else if 0x60 ≤ op ∧ op ≤ 0x69 then some 3
  else if 0x70 ≤ op ∧ op ≤ 0x75 then some 1
  else if op = 0x79 ∨ op = 0x7D then some 6
  else if op = 0x19 then some 3
  else if 0x10 ≤ op ∧ op ≤ 0x1C then some 1
  else none

/-- Whether an opcode is a vector store that lands. -/
def isStoreOp (op : Nat) : Bool := decide (op = 0x79) || decide (op = 0x7D)

/-! ### Helpers -/

/-- A 64-bit mask as a number. -/
def m64 (m : BitVec 64) : Nat := m.toNat

/-- Lanes as bytes. -/
def laneBytes (ls : List Lane) : List Byte := (upTo 64).flatMap (fun l => leBytes 4 (laneAt ls l).toNat)

/-- Lanes from bytes at an offset. -/
def lanesFrom (bs : List Byte) (at_ : Nat) : List Lane := lanes64 (fun l => BitVec.ofNat 32 (leAt bs (at_ + 4 * l) 4))

/-- Zero bytes. -/
def zeros (n : Nat) : List Byte := List.replicate n 0

/-- A list cut or padded with zero bytes to a length. -/
def fit (n : Nat) (bs : List Byte) : List Byte := slice bs 0 n

/-! ### Replay entries (R196) -/

/-- The 832 bytes of an entry. -/
def flightBytes (fl : Flight) : List Byte :=
  wordBytes 12 (encodeVec fl.op fl.f) ++ leBytes 1 fl.left ++ leBytes 1 fl.rep ++
    leBytes 1 (b2n fl.valid + 2 * b2n fl.store) ++ zeros 1 ++ leBytes 8 (m64 fl.en) ++ leBytes 8 (m64 fl.pois) ++
    leBytes 8 fl.ea.toNat ++ zeros 24 ++ laneBytes fl.a ++ laneBytes fl.b ++ laneBytes fl.d

/-- An entry from its bytes, with what the frame does not hold of it from the entry `h` as it was captured; none when its word is
no fixed-latency word or its latency lies outside 1 to 20 (R197). An edited address is the address of its own repeat. -/
def flightFrom (bs : List Byte) (h : Flight) : Option Flight :=
  match vecView (leAt bs 0 12) with
  | none => none
  | some (op, _, f) =>
    let left := byteAt bs 12
    if (latencyOf op f.t.toNat).isNone ∨ left = 0 ∨ 20 < left then none
    else
      some
        { h with
             op, f, rep := byteAt bs 13, left, valid := tb (byteAt bs 14) 0, store := isStoreOp op,
             en := BitVec.ofNat 64 (leAt bs 16 8), pois := BitVec.ofNat 64 (leAt bs 24 8),
             ea := BitVec.ofNat 64 (leAt bs 32 8), a := lanesFrom bs 64, b := lanesFrom bs 320, d := lanesFrom bs 576,
             cells := [], mt := 0, chain := if BitVec.ofNat 64 (leAt bs 32 8) = h.ea then h.chain else 0 }

/-! ### Ports (R220) -/

/-- The 272 bytes of a port entry. -/
def portEntBytes (e : PortEnt) : List Byte := laneBytes e.lanes ++ leBytes 8 (m64 e.pois) ++ leBytes 8 (m64 e.fill)

/-- The 2,240 bytes of a port. -/
def portBytes (p : Port) : List Byte :=
  fit 32 p.block ++ leBytes 1 (p.flags.toNat % 128 + 128 * b2n p.cfg) ++ leBytes 1 p.entries.length ++ zeros 6 ++
    leBytes 8 p.pos ++ zeros 16 ++ fit 2176 (p.entries.flatMap portEntBytes)

/-- Element count of a port's block (R215). -/
def portElems (block : List Byte) : Nat :=
  (leAt block 8 2 + 1) * (leAt block 10 2 + 1) * (leAt block 12 2 + 1) * (leAt block 14 2 + 1)

/-- Elements of an entry: 64 or 128 (R215). -/
def portPer (flags : BitVec 8) : Nat := if nb flags.toNat 1 2 = 0 then 64 else 128

/-- Entries that a port yields. -/
def portYield (block : List Byte) (flags : BitVec 8) : Nat := (portElems block + portPer flags - 1) / portPer flags

/-- The most entries a port can have taken when its next element is `pos` and `n` entries stand in it: those of a read port
end at the element before `pos`, those of a write port begin at the entry that holds `pos`. -/
def portTaken (read : Bool) (per pos n : Nat) : Nat := if read then (pos + per - 1) / per - n else pos / per + n

/-- The element that follows the last popped entry of a read port (R220, R259). -/
def Port.mark (p : Port) : Nat := p.taken * portPer p.flags

/-- A read port that fetches again from an element on, with no entry (R220, R261). -/
def Port.refetch (pos : Nat) (p : Port) : Port := { p with entries := [], pos, taken := pos / portPer p.flags, stop := none }

/-- A port restored from its section: the entries counted at byte 33 are kept, the block and position are taken (R220). -/
def portFrom (read : Bool) (bs : List Byte) (old : Port) : Port :=
  let n := if byteAt bs 33 < 8 then byteAt bs 33 else 8
  let flags : BitVec 8 := BitVec.ofNat 8 (byteAt bs 32 % 128)
  let pos := leAt bs 40 8
  let ents := (upTo n).map (fun m =>
    let o := 64 + 272 * m
    let e := old.entries[m]?.getD { lanes := [], pois := 0, fill := 0, pending := none, seq := 0, grp := 0 }
    { e with lanes := lanesFrom bs o, pois := BitVec.ofNat 64 (leAt bs (o + 256) 8), fill := BitVec.ofNat 64 (leAt bs (o + 264) 8) })
  { cfg := tb (byteAt bs 32) 7, block := slice bs 0 32, flags, entries := ents, pos,
    taken := portTaken read (portPer flags) pos n, stop := none, num := old.num }

/-! ### Loops (R251) -/

/-- The 64 bytes of a loop entry. -/
def loopBytes (l : Loop) : List Byte :=
  leBytes 8 l.start.toNat ++ leBytes 4 l.lc.toNat ++ leBytes 4 l.iter.toNat ++
    leBytes 1 (l.st.toNat + 8 * b2n l.r + 16 * b2n l.drain + 32 * b2n l.retry + 64) ++ leBytes 1 l.sp.toNat ++
    leBytes 1 l.rb.toNat ++ leBytes 1 l.ec.toNat ++ leBytes 2 l.len.toNat ++ zeros 2 ++ leBytes 8 l.carry.toNat ++
    leBytes 4 l.n.toNat ++ leBytes 4 l.rj.toNat ++ zeros 24

/-- A loop from its entry of the section, with what the section does not hold of it from the loop `h` that stood there; none where the
entry is not valid (R251). -/
def loopFrom (bs : List Byte) (h : Option Loop) : Option Loop :=
  let fl := byteAt bs 16
  if !tb fl 6 then none
  else
    some { start := BitVec.ofNat 48 (leAt bs 0 8), lc := BitVec.ofNat 32 (leAt bs 8 4), iter := BitVec.ofNat 32 (leAt bs 12 4),
           st := BitVec.ofNat 3 fl, r := tb fl 3, drain := tb fl 4, retry := tb fl 5, sp := BitVec.ofNat 8 (byteAt bs 17),
           rb := BitVec.ofNat 6 (byteAt bs 18), ec := BitVec.ofNat 3 (byteAt bs 19), len := BitVec.ofNat 16 (leAt bs 20 2),
           carry := BitVec.ofNat 64 (leAt bs 24 8), n := BitVec.ofNat 32 (leAt bs 32 4), rj := BitVec.ofNat 32 (leAt bs 36 4),
           roll := h.bind (·.roll), owner := (h.map (·.owner)).getD 0 }

/-! ### Custom section (R342) -/

/-- Element `i` of a list of 64-bit masks. -/
def maskAt (l : List (BitVec 64)) (i : Nat) : BitVec 64 := l[i]?.getD 0

/-- The 3,328 bytes of a stopped invocation; `masks` lists the deepest entry first. -/
def customBytes (c : Custom) : List Byte :=
  let lp (i : Nat) : List Byte :=
    match c.loops[i]? with
    | some (st, rem) => leBytes 2 st ++ zeros 2 ++ leBytes 4 rem
    | none => zeros 8
  wordBytes 12 (encodeVec (0xF0 + c.n.toNat) c.f) ++ leBytes 2 c.upc ++ leBytes 2 c.ver ++ leBytes 1 1 ++
    leBytes 1 c.masks.length ++ zeros 2 ++ leBytes 4 c.count ++ leBytes 8 (m64 c.enable) ++
    (upTo 4).flatMap (fun i => leBytes 8 (m64 (maskAt c.masks i))) ++ lp 0 ++ lp 1 ++
    (upTo 8).flatMap (fun i => leBytes 8 (m64 (vget c.hPois i 0))) ++ leBytes 8 (m64 c.aPois) ++ leBytes 8 (m64 c.bPois) ++
    (upTo 16).flatMap (fun i => leBytes 8 (vget c.xs i 0).toNat) ++ (upTo 8).flatMap (fun i => laneBytes (vget c.h i [])) ++
    laneBytes c.a ++ laneBytes c.b ++ leBytes 8 c.addr.toNat ++ leBytes 2 c.entry ++ leBytes 2 c.len ++ zeros 4 ++
    leBytes 8 (m64 c.mtop) ++ zeros 456

/-- A vector of a function of the index. -/
def vtab {α : Type} (n : Nat) (f : Nat → α) : Vector α n := Vector.ofFn (fun i => f i.val)

/-- The invocation that a custom section holds (R343). -/
def customFrom (bs : List Byte) : Custom :=
  let depth := byteAt bs 17
  let word := leAt bs 0 12
  let f := (vecFields word).getD VWord.zero
  let lp (i : Nat) : Nat × Nat := (leAt bs (64 + 8 * i) 2, leAt bs (68 + 8 * i) 4)
  let used := (upTo 2).filter (fun i => !zeroAt bs (64 + 8 * i) 8)
  { Custom.zero with
    running := true, n := BitVec.ofNat 4 (word / 2 ^ 88), f, addr := BitVec.ofNat 48 (leAt bs 2848 8), upc := leAt bs 12 2,
    ver := leAt bs 14 2, entry := leAt bs 2856 2, len := leAt bs 2858 2, enable := BitVec.ofNat 64 (leAt bs 24 8),
    masks := (upTo (if depth < 4 then depth else 4)).map (fun i => BitVec.ofNat 64 (leAt bs (32 + 8 * i) 8)),
    loops := used.map lp, count := leAt bs 20 4, h := vtab 8 (fun i => lanesFrom bs (288 + 256 * i)),
    hPois := vtab 8 (fun i => BitVec.ofNat 64 (leAt bs (80 + 8 * i) 8)), a := lanesFrom bs 2336,
    aPois := BitVec.ofNat 64 (leAt bs 144 8), b := lanesFrom bs 2592, bPois := BitVec.ofNat 64 (leAt bs 152 8),
    xs := vtab 16 (fun i => BitVec.ofNat 64 (leAt bs (160 + 8 * i) 8)), mtop := BitVec.ofNat 64 (leAt bs 2864 8) }

/-! ### Record (R249) -/

/-- Code of a status. -/
def EngStat.code : EngStat → Nat
  | .halted => 0
  | .issuing => 1
  | .waiting => 2
  | .parked => 3
  | .faulted => 4

/-- Code of a wait kind. -/
def WaitKind.code : WaitKind → Nat
  | .none => 0
  | .wfe => 1
  | .sync => 2
  | .rendezvous => 3
  | .port => 4
  | .scoreboard => 5
  | .fence => 6

/-- Status and wait kind of an engine, with the position. -/
structure EngPos where
  stat : EngStat
  wait : WaitKind
  pos : Nat

/-- The 512 bytes of the record, from the first fault and the ten engines. -/
def recordBytes (fz : Freeze) (engs : List EngPos) : List Byte :=
  let eng (e : Nat) (p : EngPos) : List Byte :=
    let st := if e = fz.eng then EngStat.faulted else p.stat
    leBytes 8 (st.code + 16 * p.wait.code + 256 * (if e = fz.eng then fz.code else 0)) ++ leBytes 8 p.pos
  fit 512 (leBytes 1 fz.code ++ leBytes 1 fz.eng ++ leBytes 1 (1 + 2 * b2n fz.overflow + 4 * b2n fz.lost) ++ zeros 5 ++
    leBytes 8 fz.cycle.toNat ++ leBytes 8 fz.value.toNat ++ zeros 8 ++ (engs.mapIdx eng).flatten)

end Sys2Proof.Machine
end

