-- ==== Sys2Proof/Machine/Memory.lean ====
section
/-! DEFINITION. Memory by location, poison marks, effective addresses, attributes, page walks and the translation of one
access (spec/09_scratchpad.md R199 to R205, spec/14_translation.md R280 to R290, R293, R294, spec/15_ordering.md R297,
R298, spec/24_surviving.md R397). -/

namespace Sys2Proof.Machine

open Sys2Proof

/-! ### Memory -/

/-- What a location that nothing has written reads as: DRAM and scratchpad are zeroed by a cold start (R418 phase 7);
host memory is a design choice (log 2). -/
def memDefault : Byte := Config.hostByte

/-- One byte of memory. -/
def memGet (m : List Host.Cell) (a : Nat) : Byte := sget memDefault m a

/-- A write of one byte. -/
def memSet (m : List Host.Cell) (a : Nat) (b : Byte) : List Host.Cell := sset memDefault m a b

/-- The canonical form of memory: locations strictly rising, no entry equal to what an unlisted location reads as. -/
def memWf (m : List Host.Cell) : Bool := swf memDefault 0 m

/-- Bytes of local DRAM: 768 GiB (R8). -/
def dramBytes : Nat := 0xC000000000

/-- Location of a scratchpad byte: `p` is the cell's position in the quad (R199, R205). -/
def locSpad (p a : Nat) : Nat := 2 ^ 56 + p * 2 ^ 23 + a

/-- Location of a byte of host memory, by host bus address. -/
def locHost (a : Nat) : Nat := 2 ^ 62 + a

/-- Whether a location is in a scratchpad. -/
def isSpad (l : Nat) : Bool := decide (2 ^ 56 ≤ l) && decide (l < 2 ^ 62)

/-- Whether a location is in local DRAM. -/
def isDram (l : Nat) : Bool := decide (l < 2 ^ 56)

/-- The own cell's position in its quad. -/
def ownPos : Nat := Config.cellNo % 4

/-- Bytes as they stand at their homes. -/
def homeBytes (s : State) (l n : Nat) : List Byte := (upTo n).map (fun i => memGet s.dev.mem (l + i))

/-- The latest byte for a location among stores, newest last. -/
def overlay (cells : List Host.Cell) (l : Nat) (old : Byte) : Byte :=
  cells.foldl (fun b c => if c.1 = l then c.2 else b) old

/-- Byte `i` of a 4-byte part. -/
def partByte (v : BitVec 32) (i : Nat) : Byte := BitVec.ofNat 8 (v.toNat / 2 ^ (8 * i))

/-- A byte at its home as an engine sees it: of a lane that memory-side commands have changed, it sees the contents after a
change that it knows, or any later ones (R305). -/
def laneByte (q : Nat) (knows : MsLane → Bool) (s : State) (l : Nat) : Byte :=
  let open_ := ((s.dev.msLanes.filter (fun e => decide (e.part = l / 4))).reverse.takeWhile (fun e => !knows e)).reverse
  if open_.isEmpty then memGet s.dev.mem l
  else
    match open_[Config.laneSeen q s.cell.cycle.toNat (l / 4) % (open_.length + 1)]? with
    | some e => partByte e.old (l % 4)
    | none => memGet s.dev.mem l

/-- A byte as an engine that knows of some memory-side changes sees it: a store visible at cell scope stands before the home
(R298, R305). -/
def cellByteOf (q : Nat) (knows : MsLane → Bool) (s : State) (l : Nat) : Byte :=
  s.cell.cellStores.foldl (fun b e => overlay e.cells l b) (laneByte q knows s l)

/-- A byte as an engine of the cell sees it: clusters 0 to 3, vector 4, matrix 5, collective 7. -/
def cellByte (q : Nat) (s : State) (l : Nat) : Byte := cellByteOf q (fun e => e.fenced.contains q) s l

/-- Bytes as an engine of the cell sees them. -/
def cellBytes (q : Nat) (s : State) (l n : Nat) : List Byte := (upTo n).map (fun i => cellByte q s (l + i))

/-- A byte as the engines of the die see it: a store visible at die scope stands before the home (R296, R297). -/
def dieByte (s : State) (l : Nat) : Byte :=
  s.cell.cellStores.foldl (fun b e => if e.vis < 2 then b else overlay e.cells l b) (memGet s.dev.mem l)

/-- Whether any of `n` bytes carries a poison mark. -/
def poisoned (s : State) (l n : Nat) : Bool := (upTo n).any (fun i => inSet s.dev.poison (l + i))

/-- Marks after a write of bytes: a scratchpad byte loses its mark; a DRAM sector loses its marks only when all of its
32 bytes are written (R397). -/
def marksAfter (poison : List Nat) (cells : List Host.Cell) : List Nat :=
  if poison.isEmpty then poison
  else
    poison.filter (fun l =>
      if isDram l then !((upTo 32).all (fun i => cells.any (fun c => decide (c.1 = l / 32 * 32 + i))))
      else !(cells.any (fun c => decide (c.1 = l))))

/-- Changes of memory-side commands that a write leaves: it ends those of the lanes that it reaches. -/
def lanesAfter (lanes : List MsLane) (cells : List Host.Cell) : List MsLane :=
  lanes.filter (fun e => !cells.any (fun c => decide (c.1 / 4 = e.part)))

/-- A write of bytes at their homes. -/
def homeWrite (cells : List Host.Cell) (s : State) : State :=
  { s with dev := { s.dev with mem := cells.foldl (fun m c => memSet m c.1 c.2) s.dev.mem,
                               poison := marksAfter s.dev.poison cells, msLanes := lanesAfter s.dev.msLanes cells } }

/-- The cells of a byte list at consecutive locations. -/
def cellsAt (l : Nat) (bs : List Byte) : List Host.Cell := bs.mapIdx (fun i b => (l + i, b))

/-- A write of consecutive bytes at their homes. -/
def homePut (l : Nat) (bs : List Byte) (s : State) : State := homeWrite (cellsAt l bs) s

/-- Marks or clears the poison marks of bytes. -/
def markBytes (l n : Nat) (b : Bool) (s : State) : State :=
  { s with dev := { s.dev with poison := (upTo n).foldl (fun p i => putSet p (l + i) b) s.dev.poison } }

/-- The 4-byte part of memory at its home. -/
def homePart (s : State) (p : Nat) : BitVec 32 :=
  BitVec.ofNat 32 (leNat ((upTo 4).map (fun i => memGet s.dev.mem (4 * p + i))))

/-- What the parts that a write reaches held before it is kept for the fetches of the context's tasks (R49). -/
def noteOld (cells : List Host.Cell) (s : State) : State :=
  let parts := ((cells.filter (fun c => !isSpad c.1)).map (fun c => c.1 / 4)).eraseDups
  { s with cell := { s.cell with
    oldCode := s.cell.oldCode ++ parts.map (fun p => (p, s.cell.task.ctx, s.dev.arrivals, homePart s p)) } }

/-- A write of bytes at their homes by a task of the bound context. -/
def taskWrite (cells : List Host.Cell) (s : State) : State := homeWrite cells (noteOld cells s)

/-- A 32-bit value of physical DRAM and of other homes. -/
def homeNat (s : State) (l n : Nat) : Nat := leNat (homeBytes s l n)

/-! ### Effective addresses -/

/-- The space of an effective address (R280). -/
inductive Space where
  | virt (va : Nat)
  | glob (dev va : Nat)
  | spad (a : Nat)
  | window (m a : Nat)
  | control (off : Nat)
  | host (a : Nat)
  | bad
  deriving DecidableEq, Repr

/-- R280. -/
def spaceOf (ea : Word) : Space :=
  let v := ea.toNat
  match nb v 62 2 with
  | 0 => if nb v 48 14 = 0 then .virt v else .bad
  | 1 => .glob (nb v 48 14) (nb v 0 48)
  | 2 =>
    match nb v 60 2 with
    | 0 => if nb v 23 37 = 0 then .spad (nb v 0 23) else .bad
    | 1 => if nb v 26 34 = 0 ∧ nb v 23 1 = 0 then .window (nb v 24 2) (nb v 0 23) else .bad
    | 2 => if nb v 9 51 = 0 then .control (nb v 0 9) else .bad
    | _ => .bad
  | _ => .host (nb v 0 62)

/-- Kind of an access. -/
inductive Acc where
  | read | write | atomic | fetch
  deriving DecidableEq, Repr

/-- Whether an access writes. -/
def Acc.writes : Acc → Bool
  | .write => true
  | .atomic => true
  | _ => false

/-- What a translated byte's page says (R200, R285). -/
structure Attr where
  /-- 0 normal, 1 write-combining, 2 device, 3 strongly ordered -/
  mt : Nat
  fmt : Bool
  desc : Nat
  deriving DecidableEq, Repr

/-- Whether two pages have the same formatted bit and descriptor index (R154). -/
def Attr.same (a b : Attr) : Bool := decide (b.fmt = a.fmt) && decide (b.desc = a.desc)

/-- The attribute entry of a scratchpad byte (R200). -/
def spaEntry (s : State) (p a : Nat) : BitVec 32 := sget 0 s.cell.spa (128 * p + a / 65536)

/-- R201: whether an access to a scratchpad byte is allowed. -/
def spaOk (s : State) (p a : Nat) (k : Acc) (win : Bool) : Bool :=
  let e := (spaEntry s p a).toNat
  tb e 0 && decide (nb e 16 16 = s.cell.task.ctx) && (!k.writes || tb e 10) && (!win || tb e 4)

/-- The attributes of a scratchpad byte. -/
def spaAttr (s : State) (p a : Nat) : Attr :=
  let e := (spaEntry s p a).toNat
  { mt := 0, fmt := tb e 5, desc := nb e 6 4 }

/-- The quad position of gang member `m`, when it is a member other than the own cell (R12, R280). -/
def mateOf (s : State) (m : Nat) : Option Nat :=
  if m = s.cell.task.cellId then none else s.cell.task.mates[m]?

/-! ### Pages -/

/-- The location of a virtual address under a leaf (R285, R289). -/
def leafLoc (leaf : BitVec 64) (va : Nat) : Nat :=
  let ppn := nb leaf.toNat 16 40
  let off := if tb leaf.toNat 14 then va % 2 ^ 21 else va % 2 ^ 16
  if tb ppn 39 then locHost (nb ppn 0 39 * 65536 + off) else ppn * 65536 + off

/-- The attributes of a leaf (R285). -/
def leafAttr (leaf : BitVec 64) : Attr :=
  let v := leaf.toNat
  { mt := nb v 4 2, fmt := tb v 10, desc := nb v 6 4 }

/-- R286: whether a valid leaf allows an access. -/
def leafOk (leaf : BitVec 64) (sup : Bool) (k : Acc) (hostAcc : Bool) : Bool :=
  let v := leaf.toNat
  (tb v 3 || sup) && (!k.writes || tb v 1) && (!decide (k = .fetch) || (tb v 2 && !tb v 10)) &&
    (!tb (nb v 16 40) 39 || hostAcc)

/-- R288, R289: whether a leaf of a level is malformed. -/
def leafBad (leaf : BitVec 64) (level : Nat) : Bool :=
  let v := leaf.toNat
  let ppn := nb v 16 40
  tb v 15 || (decide (level = 3) && tb v 14) || (tb v 14 && decide (ppn % 32 ≠ 0)) ||
    !(tb ppn 39 || decide (ppn < 0xC00000))

/-- R284: whether a pointer is malformed for the next table's alignment. -/
def ptrBad (e : BitVec 64) (align : Nat) : Bool :=
  let v := e.toNat
  let p := nb v 8 48 * 256
  decide (nb v 1 7 ≠ 0) || decide (p % align ≠ 0) || decide (dramBytes ≤ p)

/-- The end of a walk. -/
inductive WalkEnd where
  | leaf (big : Bool) (e : BitVec 64)
  | invalid (level : Nat)
  | malformed
  deriving DecidableEq, Repr

/-- A walk from a level down (R283), reading the tables at their homes. -/
def walkFrom (s : State) (va : Nat) : Nat → Nat → Nat → WalkEnd
  | 0, _, _ => .malformed
  | fuel + 1, level, table =>
    let idx := if level = 0 then nb va 39 9 else if level = 1 then nb va 30 9 else if level = 2 then nb va 21 9 else nb va 16 5
    let e := BitVec.ofNat 64 (homeNat s (table + 8 * idx) 8)
    if !tb e.toNat 0 then .invalid level
    else if level = 3 then (if leafBad e 3 then .malformed else .leaf false e)
    else if level = 2 ∧ tb e.toNat 14 then (if leafBad e 2 then .malformed else .leaf true e)
    else if ptrBad e (if level = 2 then 256 else 4096) then .malformed
    else walkFrom s va fuel (level + 1) (nb e.toNat 8 48 * 256)

/-- The root table of a context (R283, R311). -/
def ctxRoot (s : State) (ctx : Nat) : Nat := homeNat s (s.dev.ctxtBase.toNat + 256 * ctx) 8

/-- A walk of a context's tables (R283). -/
def walkOf (s : State) (ctx va : Nat) : WalkEnd := walkFrom s va 4 0 (ctxRoot s ctx)

/-! ### One access -/

/-- The answer to a request for a location. -/
inductive Xl where
  /-- translated and allowed -/
  | ok (loc : Nat) (at_ : Attr)
  /-- not yet: a walk is under way or the access is parked (R87, R293) -/
  | wait (s : State)
  /-- an access violation -/
  | deny (s : State)

/-- Whether a translation of 64 KiB or 2 MiB covers a page. -/
def TlbEnt.covers (e : TlbEnt) (vpn : Nat) : Bool := if e.big then decide (e.vpn / 32 = vpn / 32) else decide (e.vpn = vpn)

/-- The entry of a TLB for an address of a context (R290). -/
def tlbLook (t : List TlbEnt) (ctx va : Nat) : Option TlbEnt := t.find? (fun e => decide (e.ctx = ctx) && e.covers (va / 65536))

/-- The cell-TLB entry of a page (R290). -/
def tlbFind (s : State) (ctx va : Nat) : Option TlbEnt := tlbLook s.cell.tlb ctx va

/-- A TLB of `n` entries takes a translation; the free index `i` chooses the one that it displaces (R290). -/
def tlbInsert (n i : Nat) (e : TlbEnt) (t : List TlbEnt) : List TlbEnt :=
  let keep := t.filter (fun x => decide (x.ctx ≠ e.ctx ∨ x.big ≠ e.big ∨ x.vpn ≠ e.vpn))
  (if keep.length < n then keep else keep.eraseIdx (i % n)) ++ [e]

/-- Puts a translation into the cell TLB of 256 entries; which one it displaces is unspecified (R290). -/
def tlbPut (e : TlbEnt) (s : State) : State :=
  { s with
    cell := { s.cell with tlb := tlbInsert 256 (Config.freeIndex s.freeCtr) e s.cell.tlb }, freeCtr := s.freeCtr + 1 }

/-- Puts a translation into the die TLB of 16,384 entries (R290). -/
def dieTlbPut (e : TlbEnt) (s : State) : State :=
  { s with
    dev := { s.dev with dieTlb := tlbInsert 16384 (Config.freeIndex s.freeCtr) e s.dev.dieTlb }, freeCtr := s.freeCtr + 1 }

/-- Walks that the die's four walkers hold. -/
def walkSlots : Nat := 128

/-- Requests of the die that may wait for a walker. -/
def walkQueue : Nat := 1024

/-- Code of an access kind in a fault record (R293). -/
def Acc.code : Acc → Nat
  | .read => 1
  | .fetch => 4
  | _ => 2

/-- Whether an access is parked at an outstanding fault of its page (R293). -/
def parkedAt (s : State) (ctx va eng : Nat) : Bool :=
  s.dev.faults.any (fun f => decide (f.walk.ctx = ctx) && decide (f.walk.vpn = va / 65536) && f.walk.joined.contains eng)

/-- Whether an access of an engine is parked (R87, R249, R295). -/
def parkedOn (s : State) (eng : Nat) : Bool :=
  s.dev.faults.any (fun f => decide (f.walk.ctx = s.cell.task.ctx) && f.walk.joined.contains eng)

/-- The access kind of a code (R293): an atomic is asked for as a write, whose permissions it needs. -/
def Acc.ofCode (n : Nat) : Acc := if n = 1 then .read else if n = 4 then .fetch else .write

/-- The requests of a walk with those of another of its page, each engine's last one only. -/
def Walk.join (w v : Walk) : Walk :=
  { w with
    joined := w.joined ++ v.joined.filter (fun e => !w.joined.contains e)
    want := w.want.filter (fun p => !v.want.any (fun q => decide (q.1 = p.1))) ++ v.want }

/-- The number of a job's accesses (R293). -/
def jobEngine (j : Job) : Nat := 6 + 64 * (j.adm + 1)

/-- A request for a page joins the walk of its page, or waits for a walker, or holds while the die's queue is full (R290). -/
def askWalk (v : Walk) (s : State) : State :=
  let here (w : Walk) : Bool := decide (w.ctx = v.ctx) && decide (w.vpn = v.vpn)
  if s.dev.walks.any here then { s with dev := { s.dev with walks := s.dev.walks.map (fun w => if here w then w.join v else w) } }
  else if walkSlots + walkQueue ≤ s.dev.walks.length then s
  else { s with dev := { s.dev with walks := s.dev.walks ++ [{ v with stale := false }] } }

/-- A missing access asks for a walk. -/
def joinWalk (ctx va eng : Nat) (sup : Bool) (k : Acc) (s : State) : State :=
  askWalk { ctx, vpn := va / 65536, va, kind := k.code, eng, joined := [eng], want := [(eng, k.code, sup)], stale := false } s

/-- Whether a leaf allows a request of a walk. -/
def wantOk (leaf : BitVec 64) (host : Bool) (p : Nat × Nat × Bool) : Bool := leafOk leaf p.2.2 (.ofCode p.2.1) host

/-- Accesses of some engines have been given up: their words will not be tried again, or not as the same access (R293, R294). -/
def dropJoins (es : List Nat) (s : State) : State :=
  let leave (w : Walk) : Walk := { w with joined := w.joined.filter (fun e => !es.contains e) }
  { s with
    cell := { s.cell with invalid := s.cell.invalid.filter (fun p => !es.contains p.1) }
    dev := { s.dev with walks := s.dev.walks.map leave, faults := s.dev.faults.map (fun f => { f with walk := leave f.walk }) } }

/-- The location of a virtual address for an access, whose number names its engine and, in an engine with several accesses under way,
the access (R286, R290, R293, R294). -/
def xlVirt (eng : Nat) (sup : Bool) (k : Acc) (va : Nat) (s : State) : Xl :=
  let ctx := s.cell.task.ctx
  if s.cell.invalid.contains (eng, va / 65536) then
    .deny { s with cell := { s.cell with invalid := s.cell.invalid.filter (fun p => decide (p ≠ (eng, va / 65536))) } }
  else if parkedAt s ctx va eng then .wait s
  else
    match tlbFind s ctx va with
    | some e => if leafOk e.leaf sup k s.cell.task.hostAcc then .ok (leafLoc e.leaf va) (leafAttr e.leaf) else .deny s
    | none =>
      match tlbLook s.dev.dieTlb ctx va with
      | some e => .wait (tlbPut e s)
      | none => .wait (joinWalk ctx va eng sup k s)

/-- The location of an access in any local form (R280 to R282, R201, R205). -/
def xl (eng : Nat) (sup : Bool) (k : Acc) (ea : Word) (s : State) : Xl :=
  match spaceOf ea with
  | .virt va => xlVirt eng sup k va s
  | .spad a => if spaOk s ownPos a k false then .ok (locSpad ownPos a) (spaAttr s ownPos a) else .deny s
  | .window m a =>
    (match mateOf s m with
     | some p => if spaOk s p a k true then .ok (locSpad p a) (spaAttr s p a) else .deny s
     | none => .deny s)
  | .host a => if s.cell.task.hostAcc then .ok (locHost a) { mt := 2, fmt := false, desc := 0 } else .deny s
  | _ => .deny s

/-- Locations of several addresses in order: all of them, or the first answer that is none. -/
def xlAll (eng : Nat) (sup : Bool) (k : Acc) : List Word → State → List (Nat × Attr) → Except Xl (List (Nat × Attr))
  | [], _, acc => .ok acc
  | ea :: r, s, acc =>
    match xl eng sup k ea s with
    | .ok l a => xlAll eng sup k r s (acc ++ [(l, a)])
    | x => .error x

/-- The pieces of a block of bytes that lie in one 64 KiB page each: address and length. -/
def pagePieces (ea : Word) (n : Nat) : List (Word × Nat) :=
  let first := 65536 - ea.toNat % 65536
  if n ≤ first then [(ea, n)]
  else
    (ea, first) :: (upTo ((n - first + 65535) / 65536)).map (fun i =>
      (ea + BitVec.ofNat 64 (first + 65536 * i), Nat.min 65536 (n - first - 65536 * i)))

/-- What an implicit read of a block gives (R299): the bytes with their marks and the pieces read (location, length, memory type),
a wait, or a violation at an address. -/
inductive Blk where
  | ok (bs : List Byte) (pois : Bool) (ps : List (Nat × Nat × Nat))
  | wait (s : State)
  | deny (ea : Word) (s : State)

/-- A read of a block by a local form, as the engines of the cell see it (R298, R299). -/
def readBlock (eng : Nat) (sup : Bool) (ea : Word) (n : Nat) (s : State) : Blk :=
  let rec go : List (Word × Nat) → List Byte → Bool → List (Nat × Nat × Nat) → Blk
    | [], bs, p, ps => .ok bs p ps
    | (a, k) :: r, bs, p, ps =>
      match xl eng sup .read a s with
      | .ok l at_ => go r (bs ++ cellBytes eng s l k) (p || poisoned s l k) (ps ++ [(l, k, at_.mt)])
      | .wait s' => .wait s'
      | .deny s' => .deny a s'
  go (pagePieces ea n) [] false []

end Sys2Proof.Machine
end

