-- ==== Sys2Proof/Machine/Base.lean ====
section
/-! DEFINITION. Reading and changing the parts of the state, the Reeve registers, the contexts the device keeps, the
interrupts it sends, and the error banks (spec/03_streams.md R51; spec/04_reeve.md R75, R89; spec/24_surviving.md R391 to
R395). -/

namespace Sys2Proof.Machine

open Sys2Proof

/-! ### Parts of the state -/

/-- A change of the cell. -/
def mapCell (f : CellState → CellState) (s : State) : State := { s with cell := f s.cell }

/-- A change of the vector sequencer. -/
def mapVec (f : VecState → VecState) (s : State) : State := { s with vec := f s.vec }

/-- A change of the matrix engine. -/
def mapMat (f : MatState → MatState) (s : State) : State := { s with mat := f s.mat }

/-- A change of the device. -/
def mapDev (f : DevState → DevState) (s : State) : State := { s with dev := f s.dev }

/-- A change of the custom unit. -/
def mapCu (f : Custom → Custom) (s : State) : State := { s with vec := { s.vec with cu := f s.vec.cu } }

/-- A change of the sluice board. -/
def mapSluice (f : Sluice → Sluice) (s : State) : State := { s with cell := { s.cell with sluice := f s.cell.sluice } }

/-- A cluster. -/
def clus (s : State) (c : Fin 4) : Cluster := s.cl[c]

/-- Replaces a cluster. -/
def setClus (c : Fin 4) (x : Cluster) (s : State) : State := { s with cl := s.cl.set c x }

/-- A change of a cluster. -/
def mapClus (c : Fin 4) (f : Cluster → Cluster) (s : State) : State := setClus c (f (clus s c)) s

/-- The clusters' numbers. -/
def clusters : List (Fin 4) := [0, 1, 2, 3]

/-- Takes a free index. -/
def takeFree (s : State) : Nat × State := (s.freeCtr, { s with freeCtr := s.freeCtr + 1 })

/-- What a word or a job that issues now reads once (R83, R202). -/
def snapOf (s : State) : Snap := { spa := s.cell.spa, fd := s.cell.fd }

/-- The cell with the entries and descriptors that a word or a job read when it issued. -/
def withSnap (x : Snap) (s : State) : State := mapCell (fun k => { k with spa := x.spa, fd := x.fd }) s

/-- A state with the entries and descriptors of another. -/
def sameSnap (s t : State) : State := withSnap (snapOf s) t

/-! ### Reeve registers (R51, R89) -/

/-- The g registers that a word reads (R367): writes of the same cycle are not among them, since they land with the cycle's end
(R53, R76). -/
def gView (s : State) : Vector Word 8 × Vector Bool 8 :=
  match s.gSnap with
  | some g => g
  | none => (s.cell.g, s.cell.gPoison)

/-- The value of a register of a cluster; s0 reads as zero (R51). -/
def readReg (s : State) (c : Fin 4) (r : BitVec 5) : Word :=
  let n := r.toNat
  if n = 0 then 0
  else if n < 24 then vget (clus s c).s (n - 1) 0
  else vget (gView s).1 (n - 24) 0

/-- The poison bit of a register. -/
def regPoison (s : State) (c : Fin 4) (r : BitVec 5) : Bool :=
  let n := r.toNat
  if n = 0 then false
  else if n < 24 then vget (clus s c).sPoison (n - 1) false
  else vget (gView s).2 (n - 24) false

/-- Writes a register with its poison bit; a write of s0 is ignored (R51, R89). -/
def writeReg (c : Fin 4) (r : BitVec 5) (v : Word) (mark : Bool) (s : State) : State :=
  let n := r.toNat
  if n = 0 then s
  else if n < 24 then
    mapClus c (fun k => { k with s := vset k.s (n - 1) v, sPoison := vset k.sPoison (n - 1) mark }) s
  else
    mapCell (fun k => { k with g := vset k.g (n - 24) v, gPoison := vset k.gPoison (n - 24) mark }) s

/-! ### Contexts and launches of the device -/

/-- A context that the device has not met (R20). -/
def Ctx.fresh (id : Nat) : Ctx :=
  { id, ps := Vector.replicate 8 0, sg := Vector.replicate 4 0, fd := Vector.replicate 16 0, cst := Vector.replicate 16 0,
    groups := Vector.replicate 16 Group.zero, fanout := none, sbkey := none,
    log := { base := 0, slots := 0, win := 0, regSlots := 0, regWin := 0, s0 := 0, ownSlot := 0, ownV := false, done := 0, applied := 0, vote := none,
             lastTie := none, live := false },
    cap := { base := 0, pages := 0, dest := 0, digest := 0, cost := 0, valid := false, act := false, fail := false, gen := 0,
             step := 0, iv := 16, sweep := none, busy := [], bad := [], pagesDone := 0, poisoned := 0, root := 0, faults := [],
             created := 0, asked := [] },
    rebuild := false }

/-- What the device keeps for a context. -/
def ctxOf (s : State) (id : Nat) : Ctx := (s.dev.ctxs.find? (fun c => decide (c.id = id))).getD (Ctx.fresh id)

/-- A change of what the device keeps for a context. -/
def mapCtx (id : Nat) (f : Ctx → Ctx) (s : State) : State :=
  mapDev (fun d =>
    { d with ctxs := if d.ctxs.any (fun c => decide (c.id = id)) then d.ctxs.map (fun c => if c.id = id then f c else c)
                     else d.ctxs ++ [f (Ctx.fresh id)] }) s

/-- The bytes of a context record (R311). -/
def ctxRecord (s : State) (id : Nat) : List Byte := homeBytes s (s.dev.ctxtBase.toNat + 256 * id) 256

/-- Whether the configuration record leaves a physical cell active: it is no spare (R7, R417). -/
def cellActive (s : State) (p : Nat) : Bool := decide (p < 512) && !s.dev.flash.spares.contains p

/-- The saved tasks of launches that wait to be bound again (R19, R323). -/
def suspended (s : State) : List Saved :=
  s.dev.saved.filter (fun v => s.dev.launches.any (fun l => !l.bound && decide (l.q = v.q) && decide (l.num = v.num)))

/-- An MSI-X vector of a PCIe function, as one number. -/
def vectorOf (fn vec : Nat) : Nat := fn * 65536 + vec

/-- The MSI-X vectors of a function: 1,024 of the physical function, 64 of each of the 16 virtual functions (R415). -/
def vectorsOf (fn : Nat) : Nat := if fn = 0 then 1024 else if fn ≤ 16 then 64 else 0

/-- Sends an MSI-X vector to the host; a number that its function has no vector for sends none (R415, log 135). -/
def interrupt (v : Nat) (s : State) : State :=
  if v % 65536 < vectorsOf (v / 65536) then mapDev (fun d => { d with msix := d.msix ++ [v] }) s else s

/-- What the host writes to a register acts in a part whose start has reached phase 8: before, and in safe mode, only the identity and
start-up block answers (R419). -/
def booted (s t : State) : State := if s.dev.bootReady then t else s

/-- The vector that a context record names for faults, freezes and retirements (R311). -/
def ctxVector (s : State) (id : Nat) : Nat :=
  let r := ctxRecord s id
  vectorOf (byteAt r 59) (leAt r 56 2)

/-- Sends the vector of a context. -/
def interruptCtx (id : Nat) (s : State) : State := interrupt (ctxVector s id) s

/-- Appends a message to an outside party. -/
def send (m : Msg) (s : State) : State := mapDev (fun d => { d with msgs := d.msgs ++ [m] }) s

/-- The launch to which the bound task belongs. -/
def ownLaunch (s : State) (l : Launch) : Bool :=
  s.cell.bound && l.bound && decide (l.q = s.cell.task.q) && decide (l.num = s.cell.task.num)

/-- Whether the launch of the bound task is being killed. -/
def killedHere (s : State) : Bool := s.dev.launches.any (fun l => ownLaunch s l && l.ending.isSome)

/-- A change of the launch to which the bound task belongs. -/
def mapOwnLaunch (f : Launch → Launch) (s : State) : State :=
  mapDev (fun d => { d with launches := d.launches.map (fun l => if ownLaunch s l then f l else l) }) s

/-! ### Sync words (R233) -/

/-- Fields of a sync word. -/
structure SyncWord where
  arr : Nat
  tgt : Nat
  ovf : Bool
  flt : Bool
  abs : Bool
  gen : Nat

/-- The sync word that two words of 8 bytes are. -/
def SyncWord.of (a b : Nat) : SyncWord :=
  { arr := nb a 32 32, tgt := nb a 0 32, ovf := tb b 34, flt := tb b 33, abs := tb b 32, gen := nb b 0 32 }

/-- The sync word at a location. -/
def syncRead (s : State) (loc : Nat) : SyncWord :=
  SyncWord.of (homeNat s loc 8) (homeNat s (loc + 8) 8)

/-- The flags of a sync word: OVF, FLT, ABS from the highest bit. -/
def SyncWord.flags (w : SyncWord) : Nat := b2n w.ovf * 4 + b2n w.flt * 2 + b2n w.abs

/-- Writes a sync word. -/
def syncWrite (loc : Nat) (w : SyncWord) (s : State) : State :=
  homePut loc (leBytes 8 (w.arr * 2 ^ 32 + w.tgt) ++ leBytes 8 (w.flags * 2 ^ 32 + w.gen)) s

/-- Sets SW.FLT or SW.ABS of a sync word. -/
def syncFlag (loc : Nat) (flt : Bool) (s : State) : State :=
  let w := syncRead s loc
  syncWrite loc (if flt then { w with flt := true } else { w with abs := true }) s

/-! ### Errors (R390 to R395) -/

/-- Whether a class is of the corrected kind (R390). -/
def isCorrected (cls : Nat) : Bool := [0, 2, 3, 4, 9].contains cls

/-- The action that a severity register holds for a source (R391). -/
def esevAction (s : State) (cls src : Nat) : Nat := nb (vget s.dev.esev cls 0).toNat (4 * src) 4

/-- The action that is taken: R392, with action 4 as 5 where no iteration can be rolled back. -/
def actionOf (s : State) (e : Err) (canRoll : Bool) : Nat :=
  let a := esevAction s e.cls e.src
  if 4 ≤ a ∧ e.cell.isNone then 3
  else if 4 ≤ a ∧ e.cls = 6 ∧ e.src = 0 then 3
  else if a = 4 ∧ !canRoll then 5
  else a

/-- A saturating 32-bit count with one added. -/
def satInc (n top : Nat) : Nat := if n < top then n + 1 else top

/-- The bank with an error counted (R391, R393). -/
def bankCount (b : Bank) (corrected : Bool) : Bank :=
  let v := b.counts.toNat
  let c := nb v 0 32
  let u := nb v 32 32
  { b with counts := BitVec.ofNat 64 (if corrected then satInc c 0xFFFFFFFF + u * 2 ^ 32 else c + satInc u 0xFFFFFFFF * 2 ^ 32) }

/-- The bank with an error recorded or counted as overflow (R394). -/
def bankRecord (b : Bank) (e : Err) (act : Nat) (seq : Word) : Bank :=
  let v := b.r0.toNat
  let corrected := isCorrected e.cls
  let p := e.cell.getD 0
  let pos := BitVec.ofNat 64 (e.ctx + p * 2 ^ 16 + e.eng * 2 ^ 28 + p / 128 * 2 ^ 32)
  let fill (keep : Nat) : Bank :=
    { b with r0 := BitVec.ofNat 64 (keep + e.cls * 2 ^ 24 + act * 2 ^ 16 + (if corrected then 4 else 2) + 1), addr := e.addr,
             info := e.info, pos, seq }
  if !tb v 0 then fill 0
  else if tb v 2 && !corrected then fill (nb v 28 4 * 2 ^ 28 + nb v 32 16 * 2 ^ 32)
  else { b with r0 := BitVec.ofNat 64 (v % 2 ^ 28 + e.cls * 2 ^ 28 + satInc (nb v 32 16) 65535 * 2 ^ 32) }

/-- The place of an error among those of its source in one cycle: uncorrectable before corrected, then by class (R394). -/
def errRank (e : Err) : Nat := e.cls + (if isCorrected e.cls then 16 else 0)

/-- An error takes its place among those of its cycle. -/
def placeErr (x : Err × Nat) : List (Err × Nat) → List (Err × Nat)
  | [] => [x]
  | y :: r => if errRank x.1 < errRank y.1 then x :: y :: r else y :: placeErr x r

/-- A bank with the record of another; its counts stay (R393). -/
def Bank.record (b r : Bank) : Bank := { r with counts := b.counts }

/-- The errors of a source in the running cycle, in the order of R394, with the values of ERRSEQ that they take. -/
def cycleErrs (s : State) (src : Nat) : List ((Err × Nat) × Word) :=
  let mine := s.now.errs.filter (fun x => decide (x.1.src = src))
  (mine.foldl (fun l x => placeErr (x.1, x.2.1) l) []).zip (mine.map (fun x => x.2.2))

/-- The bank of a source, whose record before this cycle's errors was that of `b`, with those errors recorded (R394). -/
def replayErrs (src : Nat) (b : Bank) (s : State) : Bank :=
  (cycleErrs s src).foldl (fun k x => bankRecord k x.1.1 x.1.2 x.2) b

/-- The record of a bank before the running cycle's errors. -/
def bankBefore (s : State) (src : Nat) : Bank :=
  ((s.now.banks.find? (fun x => decide (x.1 = src))).map (·.2)).getD (vget s.dev.banks src Bank.zero)

/-- The running cycle notes a bank as it stood before its errors. -/
def noteBank (src : Nat) (b : Bank) (s : State) : State :=
  { s with now := { s.now with banks := (src, b) :: s.now.banks.filter (fun x => decide (x.1 ≠ src)) } }

/-- Counts, records and reports an error under an action; one that rolls an iteration back is not reported to the host (R391, R394,
R395). -/
def recordError (e : Err) (act : Nat) (s : State) : State :=
  if act = 0 then s
  else
    let b := bankCount (vget s.dev.banks e.src Bank.zero) (isCorrected e.cls)
    let s1 :=
      if act < 2 then mapDev (fun d => { d with banks := vset d.banks e.src b }) s
      else
        let old := bankBefore s e.src
        let x := noteBank e.src old { s with now := { s.now with errs := s.now.errs ++ [(e, act, s.dev.errseq)] } }
        mapDev (fun d => { d with banks := vset d.banks e.src (b.record (replayErrs e.src old x)), errseq := d.errseq + 1 }) x
    if act < 3 ∨ act = 4 then s1 else interrupt (vectorOf 0 s.dev.errvec.toNat) s1

end Sys2Proof.Machine
end

