-- ==== Sys2Proof/Machine/Access.lean ====
section
/-! DEFINITION. Tile operands and the lanes of vector memory accesses: their addresses, their translation, and decoding and
encoding through formatted pages (spec/05_vector_arith.md R110, R111; spec/06_vector_flow.md R153 to R157; spec/02_numbers.md
R33 to R35). -/

namespace Sys2Proof.Machine

open Sys2Proof

/-! ### Tile operands (R61, R110) -/

/-- The index of a tile operand in a repeat (R61). -/
def tileIndex (index : BitVec 6) (stride : BitVec 5) (rot : Bool) (rep rb : Nat) : Nat :=
  (((index.toNat : Int) + (if rot then (rb : Int) else 0) + rep * stride.toInt) % 64).toNat

/-- Row and column of lane `l` of direction `dir` and index `k` (R110). -/
def laneCoord (dir k l : Nat) : Nat × Nat :=
  match dir with
  | 0 => (k, l)
  | 1 => (l, k)
  | 2 => (l, (l + k) % 64)
  | _ => (l, (k + 64 - l) % 64)

/-- Key of a tile element. -/
def tileKey (tile row col : Nat) : Nat := 4096 * tile + 64 * row + col

/-- Keys of the 64 lanes of a tile operand; `odd` takes the next tile, for an a40 pair. -/
def operandKeys (o : Operand) (rep rb odd : Nat) : List Nat :=
  match o with
  | .tile dir t index stride rot _ =>
    let k := tileIndex index stride rot rep rb
    (upTo 64).map (fun l => let rc := laneCoord dir.toNat k l; tileKey (t.toNat + odd) rc.1 rc.2)
  | _ => []

/-- Lanes at tile keys. -/
def readKeys (s : State) (ks : List Nat) : List Lane := ks.map (fun k => sget 0 s.vec.tile k)

/-- Poison marks at tile keys. -/
def keyMarks (s : State) (ks : List Nat) : BitVec 64 :=
  if s.vec.tileP.isEmpty then 0 else BitVec.ofNat 64 (boolsNat (ks.map (fun k => inSet s.vec.tileP k)))

/-- Writes the lanes of a mask at tile keys, with their marks (R112, R115). -/
def writeKeys (ks : List Nat) (vals : List Lane) (en pois : BitVec 64) (s : State) : State :=
  let step (p : Sparse Lane × List Nat) (x : Nat × Nat) : Sparse Lane × List Nat :=
    let l := x.1
    let k := x.2
    if enabled en l then
      (sset 0 p.1 k (laneAt vals l), if p.2.isEmpty && !enabled pois l then p.2 else putSet p.2 k (enabled pois l))
    else p
  let r := (ks.mapIdx (fun l k => (l, k))).foldl step (s.vec.tile, s.vec.tileP)
  mapVec (fun v => { v with tile := r.1, tileP := r.2 }) s

/-! ### Addresses of lanes (R154, R155) -/

/-- How the elements of a repeat lie in memory: raw lanes, or containers of a width with 1 or 2 elements per lane. -/
inductive Shape where
  | raw
  | narrow (box per : Nat)
  deriving DecidableEq, Repr

/-- Bytes of a repeat (R154). -/
def Shape.bytes : Shape → Nat
  | .raw => 256
  | .narrow box per => 64 * per * box / 8

/-- An address moved by a number of bytes; a global form keeps its device field (R153). -/
def addrPlus (ea : Word) (n : Int) : Word :=
  if nb ea.toNat 62 2 = 1 then
    (ea &&& 0xFFFF000000000000#64) ||| ((ea + BitVec.ofInt 64 n) &&& 0x0000FFFFFFFFFFFF#64)
  else ea + BitVec.ofInt 64 n

/-- The byte addresses of lane `l` of a repeat, and the container within its byte. -/
def laneAddrs (sh : Shape) (ea : Word) (l : Nat) : List Word × Nat :=
  match sh with
  | .raw => ((upTo 4).map (fun i : Nat => addrPlus ea ((4 * l + i : Nat) : Int)), 0)
  | .narrow box per =>
    if box = 4 then
      (if per = 2 then ([addrPlus ea l], 0) else ([addrPlus ea (l / 2)], l % 2))
    else ((upTo per).map (fun i : Nat => addrPlus ea ((per * l + i : Nat) : Int)), 0)

/-- The byte address that a lane of VGATH or VSCAT names, and its container bit (R155). -/
def gatherAddr (base : Word) (t : Nat) (idx : Lane) : Word × Nat :=
  if t = 10 then (base + w64 (idx.toInt / 2), idx.toNat % 2) else (base + w64 idx.toInt, 0)

/-- The address that R35 takes: the scratchpad address, or the virtual address. -/
def coordAddr (ea : Word) : Nat := if nb ea.toNat 62 2 = 2 then nb ea.toNat 0 23 else nb ea.toNat 0 48

/-! ### Values through a page (R33 to R35, R154) -/

/-- The lane that bytes give: raw, or one or two containers decoded. -/
def decodeLane (fmt : Option Desc) (t : Nat) (bs : List Byte) (half : Nat) : Lane :=
  match fmt with
  | none => BitVec.ofNat 32 (leNat bs)
  | some d =>
    if perLane t = 2 then
      let code (k : Nat) : Nat := if d.box = 4 then nb (byteAt bs 0) (4 * k) 4 else byteAt bs k
      mapLane t (fun k => (wideOf t).enc .rne (d.dec (code k)))
    else BitVec.ofNat 32 (toF32 (d.dec (boxGet d (byteAt bs 0) half)))

/-- The bytes that a lane becomes, given the old bytes and their addresses (R34, R35). -/
def encodeLane (fmt : Option Desc) (ps7 : Word) (t : Nat) (v : Lane) (addrs : List Word) (half : Nat) (old : List Byte) :
    List Byte :=
  match fmt with
  | none => leBytes 4 v.toNat
  | some d =>
    let addr (i : Nat) : Nat := coordAddr (addrs[i]?.getD 0)
    if perLane t = 2 then
      let code (k : Nat) : Nat :=
        let i := if d.box = 4 then 0 else k
        d.enc (descRnd d ps7 (addr i) (if d.box = 4 then k else 0)) ((wideOf t).dec (elemOf t v k))
      if d.box = 4 then leBytes 1 (code 0 % 16 + code 1 % 16 * 16) else leBytes 1 (code 0) ++ leBytes 1 (code 1)
    else leBytes 1 (boxPut d (byteAt old 0) half (d.enc (descRnd d ps7 (addr 0) half) (f32 v.toNat)))

/-! ### Translation of lanes -/

/-- The answer for the bytes of a lane. -/
inductive LaneXl where
  | ok (locs : List (Nat × Attr))
  | wait (s : State)
  | deny (ea : Word) (s : State)

/-- Translates byte addresses one by one. -/
def xlBytes (eng : Nat) (sup : Bool) (k : Acc) : List Word → State → List (Nat × Attr) → LaneXl
  | [], _, acc => .ok acc
  | ea :: r, s, acc =>
    match xl eng sup k ea s with
    | .ok l a => xlBytes eng sup k r s (acc ++ [(l, a)])
    | .wait s' => .wait s'
    | .deny s' => .deny ea s'

/-- Translates the bytes of a lane: four raw bytes of one aligned word at once. -/
def xlLane (eng : Nat) (sup : Bool) (k : Acc) (addrs : List Word) (s : State) : LaneXl :=
  match addrs with
  | [a, _, _, _] =>
    if a.toNat % 4 = 0 then
      (match xl eng sup k a s with
       | .ok l at_ => .ok ((upTo 4).map (fun i => (l + i, at_)))
       | .wait s' => .wait s'
       | .deny s' => .deny a s')
    else xlBytes eng sup k addrs s []
  | _ => xlBytes eng sup k addrs s []

/-! ### What the vector sequencer sees of its own stores (R157, R187) -/

/-- Bytes of its landed scratchpad stores that are still in its queue. -/
def ownLanded (s : State) (l : Nat) (old : Byte) : Byte :=
  s.vec.stores.foldl (fun b e => overlay (e.cells.filter (fun c => isSpad c.1)) l b) old

/-- A byte as a vector load, a port fetch or a partial store of the sequencer sees it. -/
def vecByte (s : State) (l : Nat) : Byte := if isSpad l then ownLanded s l (cellByte 4 s l) else cellByte 4 s l

/-- Bytes at locations as the sequencer sees them. -/
def vecBytes (s : State) (ls : List Nat) : List Byte := ls.map (vecByte s)

/-! ### Stores of a repeat -/

/-- Puts a byte into a list of cells, replacing an earlier one. -/
def putCell : List Host.Cell → Nat → Byte → List Host.Cell
  | [], l, b => [(l, b)]
  | (k, x) :: r, l, b => if k = l then (k, b) :: r else (k, x) :: putCell r l b

/-- The byte a partial store merges with: one already written by the repeat, else the newest pending or landed one. -/
def mergeByte (s : State) (cells : List Host.Cell) (l : Nat) : Byte :=
  match cells.find? (fun c => decide (c.1 = l)) with
  | some c => c.2
  | none => s.vec.flights.foldl (fun b f => overlay f.cells l b) (s.vec.stores.foldl (fun b e => overlay e.cells l b) (cellByte 4 s l))

/-- The cells of one aligned 4-byte word each, in rising address order of first appearance. -/
def splitWords (cells : List Host.Cell) : List (List Host.Cell) :=
  let words := (cells.map (fun c => c.1 / 4)).eraseDups
  words.map (fun w => cells.filter (fun c => decide (c.1 / 4 = w)))

/-- The descriptor that an attribute names, when the page is formatted. -/
def attrDesc (s : State) (a : Attr) : Option Desc := if a.fmt then some (descOf (vget s.cell.fd a.desc 0)) else none

/-! ### Instruction bytes (R48, R49) -/

/-- Arrivals of launches up to that of the bound task's own. -/
def ownArrival (s : State) : Nat := ((s.dev.launches.find? (ownLaunch s)).map (fun l => l.arrival + 1)).getD 0

/-- The contents that a 4-byte part has had since the bound launch was posted, through stores of its context or memory-side
commands, before those that it has now (R49, R305). -/
def oldParts (s : State) (p : Nat) : List (BitVec 32) :=
  (s.cell.oldCode.filter (fun e => decide (e.1 = p) && decide (e.2.1 = s.cell.task.ctx) && decide (ownArrival s ≤ e.2.2.1))).map (·.2.2.2) ++
    (s.dev.msLanes.filter (fun e => decide (e.part = p))).map (·.old)

/-- Bytes of an instruction word at their homes: each 4-byte part holds what it holds now or what it has held (R49). -/
def codeBytes (s : State) (l n : Nat) : List Byte :=
  if s.cell.oldCode.isEmpty && s.dev.msLanes.isEmpty then homeBytes s l n
  else
    (upTo n).map (fun i =>
      let p := (l + i) / 4
      let old := oldParts s p
      match old[Config.fetchPick s.cell.cycle.toNat p % (old.length + 1)]? with
      | some v => partByte v ((l + i) % 4)
      | none => memGet s.dev.mem (l + i))

/-- The bytes of an instruction word, fetched through its pages (R48, R49). -/
def fetchBytes (eng : Nat) (sup : Bool) (pc : BitVec 48) (n : Nat) (s : State) : Blk :=
  let rec go : List (Word × Nat) → List Byte → Blk
    | [], bs => .ok bs false []
    | (a, k) :: r, bs =>
      match xl eng sup .fetch a s with
      | .ok l _ => go r (bs ++ codeBytes s l k)
      | .wait s' => .wait s'
      | .deny s' => .deny a s'
  go (pagePieces (pc.setWidth 64) n) []

end Sys2Proof.Machine
end

