-- ==== Sys2Proof/Machine/Landing.lean ====
section
/-! DEFINITION. The targets of vector memory lanes, the vector store queue, and the landing of fixed-latency results
(spec/05_vector_arith.md R112, R114, R115; spec/06_vector_flow.md R141, R151, R153 to R158; spec/08_latency.md R187, R194,
R197; spec/15_ordering.md R299, R301). -/

namespace Sys2Proof.Machine

open Sys2Proof

/-! ### Targets -/

/-- What a memory access of a word comes to: a value, a wait, or a trap with cause code, value and faulting address. -/
inductive MemRes (α : Type) where
  | ok (x : α)
  | wait (s : State)
  | trap (code : Nat) (tval at_ : Word) (s : State)

/-- The number of the access of the vector word that issued in cycle `iss`: engine 4, and the access (R293, R294). -/
def vecEng (iss : Nat) : Nat := 4 + 64 * (iss + 1)

/-- A lane with its byte addresses, their locations, its container, and its page. -/
structure LaneT where
  lane : Nat
  addrs : List Word
  locs : List Nat
  half : Nat
  attr : Attr

/-- Cause codes of R109. -/
def cMisdata : Nat := 0x05

/-- Access violation. -/
def cAccess : Nat := 0x06

/-- Format fault. -/
def cFormat : Nat := 0x0A

/-- Whether an access works through a formatted page with a type: of packed lanes only a linear one (R154, R155). -/
def fmtTypeOk (op t : Nat) : Bool :=
  decide (t = 0) || decide (t = 10) || ((decide (0x78 ≤ op) && decide (op ≤ 0x7B)) && (decide (t = 1) || decide (t = 2)))

/-- The shape of a repeat from the page of its first byte, which stands at `ea`, or a FORMAT trap (R154, R32). -/
def shapeOf (s : State) (op t : Nat) (a : Attr) (ea : Word) : MemRes Shape :=
  if !a.fmt then .ok .raw
  else
    let d := descOf (vget s.cell.fd a.desc 0)
    if !fmtTypeOk op t || !d.valid then .trap cFormat (BitVec.ofNat 64 a.desc) ea s
    else .ok (.narrow d.box (if perLane t = 2 then 2 else 1))

/-- A lane of a linear access, in a repeat whose first byte has the attributes `a`: every byte lies in a page with the same formatted
bit and descriptor index (R154). -/
def laneLinear (eng : Nat) (k : Acc) (sh : Shape) (a : Attr) (ea : Word) (s : State) (l : Nat) : MemRes LaneT :=
  let p := laneAddrs sh ea l
  match xlLane eng false k p.1 s with
  | .wait s' => .wait s'
  | .deny e s' => .trap cAccess e e s'
  | .ok ls =>
    match (p.1.zip ls).find? (fun x => !a.same x.2.2) with
    | none => .ok { lane := l, addrs := p.1, locs := ls.map (·.1), half := p.2, attr := (ls[0]?.map (·.2)).getD a }
    | some x => .trap cFormat (BitVec.ofNat 64 a.desc) x.1 s

/-- A lane of a gather or scatter (R155). -/
def laneIndexed (eng : Nat) (k : Acc) (op t : Nat) (base : Word) (idx : List Lane) (s : State) (l : Nat) : MemRes LaneT :=
  let g := gatherAddr base t (laneAt idx l)
  match xl eng false k g.1 s with
  | .wait s' => .wait s'
  | .deny s' => .trap cAccess g.1 g.1 s'
  | .ok loc a =>
    if a.fmt ∧ t ≠ 0 ∧ t ≠ 10 then .trap cMisdata g.1 g.1 s
    else
      match shapeOf s op t a g.1 with
      | .wait s' => .wait s'
      | .trap c v x s' => .trap c v x s'
      | .ok .raw =>
        if g.1.toNat % 4 ≠ 0 ∨ g.2 ≠ 0 then .trap cMisdata g.1 g.1 s
        else .ok { lane := l, addrs := (upTo 4).map (fun i => g.1 + BitVec.ofNat 64 i), locs := (upTo 4).map (loc + ·), half := 0, attr := a }
      | .ok (.narrow box _) =>
        if box = 8 ∧ g.2 ≠ 0 then .trap cMisdata g.1 g.1 s
        else .ok { lane := l, addrs := [g.1], locs := [loc], half := g.2, attr := a }

/-- The lanes of a mask: those translated, and whether one must wait; the first trap ends the search. -/
def eachLane (f : State → Nat → MemRes LaneT) : List Nat → State → List LaneT → Bool → MemRes (List LaneT × Bool × State)
  | [], s, acc, w => .ok (acc, w, s)
  | l :: r, s, acc, w =>
    match f s l with
    | .ok x => eachLane f r s (acc ++ [x]) w
    | .wait s' => eachLane f r s' acc true
    | .trap c v x s' => .trap c v x s'

/-- The attributes that stand for those of a first byte that may not be read, while its lane is disabled: an unformatted page, with the
descriptor index of the page of the first lane named (log 114). -/
def firstOpen (eng : Nat) (k : Acc) (ea : Word) (lanes : List Nat) (s : State) : Attr :=
  { mt := 0, fmt := false, desc := (lanes.findSome? (fun l =>
      match xl eng false k (ea + BitVec.ofNat 64 (4 * l)) s with
      | .ok _ a => some a.desc
      | _ => none)).getD 0 }

/-- The named lanes of a repeat with enable mask `en`, with their targets and the byte count of the repeat (R153 to R155). -/
def repeatTargets (eng op t : Nat) (k : Acc) (ea : Word) (idx : List Lane) (en : BitVec 64) (lanes : List Nat) (s : State) :
    MemRes (List LaneT × Bool × Nat × State) :=
  if op = 0x7C ∨ op = 0x7D then
    match eachLane (laneIndexed eng k op t ea idx) lanes s [] false with
    | .ok (ls, w, s') => .ok (ls, w, 0, s')
    | .wait s' => .wait s'
    | .trap c v x s' => .trap c v x s'
  else
    let go (a : Attr) : MemRes (List LaneT × Bool × Nat × State) :=
      match shapeOf s op t a ea with
      | .wait s' => .wait s'
      | .trap c v x s' => .trap c v x s'
      | .ok sh =>
        if sh = .raw ∧ ea.toNat % 4 ≠ 0 then .trap cMisdata ea ea s
        else
          match eachLane (laneLinear eng k sh a ea) lanes s [] false with
          | .ok (ls, w, s') => .ok (ls, w, sh.bytes, s')
          | .wait s' => .wait s'
          | .trap c v x s' => .trap c v x s'
    match xl eng false k ea s with
    | .ok _ a => go a
    | .wait s' => .wait s'
    | .deny s' => if enabled en 0 then .trap cAccess ea ea s' else go (firstOpen eng k ea lanes s')

/-- The bytes that a store writes to its targets; `ps7` is the seed that it read at issue (R34, R35). -/
def storeCells (s : State) (ps7 : Word) (t : Nat) (data : List Lane) (ls : List LaneT) : List Host.Cell :=
  ls.foldl (fun cells x =>
    let old := x.locs.map (mergeByte s cells)
    let bs := encodeLane (attrDesc s x.attr) ps7 t (laneAt data x.lane) x.addrs x.half old
    (x.locs.zip bs).foldl (fun c p => putCell c p.1 p.2) cells) []

/-! ### Addresses of repeats (R153) -/

/-- A step of the address of a linear access: VLDG and VSTG keep the device field and sum bits [47:0]; VLD and VST sum modulo
2^64 (R153). -/
def eaPlus (glob : Bool) (ea : Word) (n : Int) : Word :=
  if glob then BitVec.ofNat 64 (ea.toNat / 2 ^ 48 * 2 ^ 48) + BitVec.ofNat 64 ((((ea.toNat % 2 ^ 48 : Nat) : Int) + n) % (2 ^ 48 : Int)).toNat
  else ea + w64 n

/-- The byte count of a repeat whose first byte stands at `ea` (R154): 256 where the page cannot be read. -/
def repeatBytes (eng op t : Nat) (k : Acc) (ea : Word) (s : State) : MemRes Nat :=
  match xl eng false k ea s with
  | .wait s' => .wait s'
  | .deny _ => .ok 256
  | .ok _ a =>
    match shapeOf s op t a ea with
    | .ok sh => .ok sh.bytes
    | _ => .ok 256

/-- The address past `j` repeats of a local linear access: it moves on by the byte count of each. -/
def eaOf (eng op t : Nat) (k : Acc) (s : State) : Nat → Word → MemRes Word
  | 0, ea => .ok ea
  | j + 1, ea =>
    match repeatBytes eng op t k ea s with
    | .ok n => eaOf eng op t k s j (eaPlus false ea n)
    | .wait s' => .wait s'
    | .trap c v x s' => .trap c v x s'

/-- The lanes of a repeat whose address is known up to the byte counts of `chain` earlier repeats, through the entries and
descriptors that its word read at issue (R153, R158, R202). -/
def chainTargets (page : Snap) (eng chain op t : Nat) (k : Acc) (ea : Word) (idx : List Lane) (en : BitVec 64) (lanes : List Nat) (s : State) :
    MemRes (List LaneT × Bool × Nat × State) :=
  let s1 := withSnap page s
  match eaOf eng op t k s1 chain ea with
  | .wait s' => .wait (sameSnap s s')
  | .trap c v x s' => .trap c v x (sameSnap s s')
  | .ok ea =>
    match repeatTargets eng op t k ea idx en lanes s1 with
    | .ok (ls, w, n, s') => .ok (ls, w, n, sameSnap s s')
    | .wait s' => .wait (sameSnap s s')
    | .trap c v x s' => .trap c v x (sameSnap s s')

/-! ### Strong ordering (R301) -/

/-- Whether some translated lane lies in a strongly ordered page. -/
def anyStrong (ls : List LaneT) : Bool := ls.any (fun x => decide (x.attr.mt = 3))

/-- Whether some translated lane lies in a page whose accesses are performed in order. -/
def anyDevice (ls : List LaneT) : Bool := ls.any (fun x => decide (2 ≤ x.attr.mt))

/-- The memory type under which the bytes of a store stand in the queue: the strictest of its lanes. -/
def lanesType (ls : List LaneT) : Nat :=
  if anyStrong ls then 3 else if anyDevice ls then 2 else if !ls.isEmpty && ls.all (fun x => decide (x.attr.mt = 1)) then 1 else 0

/-- The queues must be realigned after a strongly ordered access. -/
def alignQueues (strong : Bool) (s : State) : State :=
  if strong then mapVec (fun v => { v with realign := true, bar := v.bar + 1 }) s else s

/-- The write ports. -/
def writePorts : List Nat := [6, 7]

/-- The port that an operand names. -/
def operandPort : Operand → Option Nat
  | .port p => some p.toNat
  | _ => none

/-- Whether a result in flight is a store or a push, which enters the sequencer's store queue (R217, R299). -/
def Flight.queues (f : Flight) : Bool := f.store || (operandPort f.f.d).isSome

/-- Whether a store or a push with a number below `seq` has not entered the store queue, or has not left a port that still writes: one
that has been captured does not hold back what has landed (R217, R299, log 128). -/
def queuedBefore (seq : Nat) (s : State) : Bool :=
  s.vec.flights.any (fun f => f.queues && decide (f.num < seq)) || s.vec.parked.any (fun p => decide (p.1 < seq)) ||
    s.vec.loads.any (fun e => (operandPort e.f.d).isSome && decide (e.seq < seq)) ||
    (s.vec.cu.running && !s.vec.cu.stopped && (operandPort s.vec.cu.f.d).isSome && decide (s.vec.cuNum < seq)) ||
    writePorts.any (fun n => let p := vget s.vec.ports n Port.zero; p.stop.isNone && p.entries.any (fun x => decide (x.seq < seq)))

/-- Whether a strongly ordered access with number `seq` in the queues waits for an earlier access (R301). -/
def strongHeld (seq : Nat) (s : State) : Bool :=
  s.vec.stores.any (fun x => decide (x.seq < seq)) || s.cell.cellStores.any (fun x => decide (x.q = 4) && decide (x.seq < seq)) ||
    s.vec.loads.any (fun e => decide (e.seq < seq)) || queuedBefore seq s

/-! ### The store queue -/

/-- Inserts a store by its number. -/
def insertStore : List StoreEnt → StoreEnt → List StoreEnt
  | [], e => [e]
  | x :: r, e => if e.seq < x.seq then e :: x :: r else x :: insertStore r e

/-- The DRAM sectors that cells cover as a whole (R397). -/
def wholeSectors (cells : List Host.Cell) : List Nat :=
  ((cells.filter (fun c => isDram c.1)).map (fun c => c.1 / 32)).eraseDups.filter (fun x =>
    (upTo 32).all (fun i => cells.any (fun c => decide (c.1 = 32 * x + i))))

/-- Puts the bytes of one repeat or push into the vector store queue, one entry for each aligned word: they stand in program order at
`seq`, and those with one `grp` in any order among themselves (R299). -/
def enqueueCells (seq grp : Nat) (wc dev : Bool) (cells : List Host.Cell) (s : State) : State :=
  let whole := wholeSectors cells
  mapVec (fun v => { v with stores := (splitWords cells).foldl (fun q c =>
    insertStore q { q := 4, grp, wc, dev, seq, stf := false, seen := [], bar := v.bar, vis := 0, whole, cells := c }) v.stores }) s

/-- The next number of the vector queues. -/
def nextSeq (s : State) : Nat × State := (s.vec.seqCtr, mapVec (fun v => { v with seqCtr := v.seqCtr + 1 }) s)

/-! ### Pending bits (R194) -/

/-- The own scratchpad words of 32 bytes that cells lie in. -/
def spadWords (cells : List Host.Cell) : List Nat :=
  ((cells.filter (fun c => decide (locSpad ownPos 0 ≤ c.1) && decide (c.1 < locSpad ownPos 0 + 2 ^ 23))).map
    (fun c => (c.1 - locSpad ownPos 0) / 32 * 32)).eraseDups

/-- Clears the pending bits of words that no store in flight, held or captured still covers. -/
def clearPending (s : State) : State :=
  if s.vec.pendWords.isEmpty then s
  else
    let live := (s.vec.flights ++ s.vec.held.map (·.fl) ++ s.vec.capt.filter (·.valid)).flatMap (fun f => spadWords f.cells)
    mapVec (fun v => { v with pendWords := v.pendWords.filter live.contains }) s

/-! ### Landing -/

/-- A fault of an access that issued in cycle `iss`, met while no word stands at it: it is held, and raised before the next word
issues; of several, that of the earliest-issued access is held. One met while a trap is taken or the cell is frozen carries the
faulting address (R195, log 42). -/
def lateFault (iss eng code : Nat) (tval at_ : Word) (s : State) : State :=
  let tval := if s.vec.trap.isSome || s.cell.frozen.isSome then at_ else tval
  mapVec (fun v =>
    if v.heldFault.isSome ∧ v.heldIss ≤ iss then v
    else { v with heldFault := some { eng, code, info := 0, tpc := v.pc, tval, keep := false }, heldIss := iss }) s

/-- The lanes of a flight that are written: a narrowing VCVT writes the lanes of its part alone (R124). -/
def flightMask (fl : Flight) : BitVec 64 :=
  if fl.op = 0x32 then fl.en &&& cvtLanes (sourceType fl.f.t.toNat fl.f.a) fl.f.t.toNat (cvtMode fl.f.b fl.b) else fl.en

/-- Whether a flight writes both tiles of an a40 pair (R136). -/
def flightPair (fl : Flight) : Bool := decide (fl.op = 0x60) && decide (fl.f.t = 11)

/-- Whether an opcode writes an x register (R151). -/
def writesX (op : Nat) : Bool := decide (op < 0x20 ∧ op ≠ 0x19) || decide (0x70 ≤ op ∧ op ≤ 0x75)

/-- The key under which the scoreboard knows an x register: past those of the tiles. -/
def xKey (n : Nat) : Nat := 32768 + n

/-- The tile elements and the x register that a flight writes: keys with their lanes. -/
def flightKeys (fl : Flight) : List (Nat × Nat) :=
  if fl.store || !fl.valid || fl.src.isSome || decide (fl.op = 0x66) then []
  else if writesX fl.op then
    match fl.f.d with
    | .xreg n => [(xKey n.toNat, 0)]
    | _ => []
  else if fl.op = 0x19 then
    let l := (xOperand fl.f.b fl.b).toNat % 64
    ((operandKeys fl.f.d fl.rep fl.rb 0)[l]?.map (fun k => [(k, l)])).getD []
  else
    let m := flightMask fl
    let on (odd : Nat) : List (Nat × Nat) :=
      ((operandKeys fl.f.d fl.rep fl.rb odd).mapIdx (fun l k => (k, l))).filter (fun p => enabled m p.2)
    on 0 ++ (if flightPair fl then on 1 else [])

/-- The D operand's write of a result. -/
def writeResult (fl : Flight) (r : VRes) (s : State) : State :=
  let en := fl.en &&& r.wr
  match fl.f.d with
  | .tile _ _ _ _ _ _ =>
    let s1 := writeKeys (operandKeys fl.f.d fl.rep fl.rb 0) r.lo en fl.pois s
    (match r.hi with
     | some hi => writeKeys (operandKeys fl.f.d fl.rep fl.rb 1) hi en fl.pois s1
     | none => s1)
  | .port p =>
    let n := nextSeq s
    let e : PortEnt := { lanes := r.lo, pois := fl.pois, fill := en, pending := none, seq := fl.num, grp := n.1 }
    let q := vget n.2.vec.ports p.toNat Port.zero
    mapVec (fun v => { v with ports := vset v.ports p.toNat { q with entries := q.entries ++ [e], taken := q.taken + 1 } }) n.2
  | _ => s

/-- The inputs of a flight's computation. -/
def flightIn (fl : Flight) : VIn :=
  let t := fl.f.t.toNat
  { op := fl.op, t, src := sourceType t fl.f.a, rep := fl.rep, fa := fl.f.a, fb := fl.f.b, a := fl.a, b := fl.b, d := fl.d,
    mtop := fl.mtop, en := fl.en, key := fl.key }

/-- The lanes of a store are translated and its bytes made up (R153 to R155, R158). -/
def resolveStore (fl : Flight) (s : State) : MemRes (Flight × State) :=
  match chainTargets fl.page (vecEng fl.iss) fl.chain fl.op fl.f.t.toNat .write fl.ea (operandLanes 3 fl.f.b fl.b fl.mtop) fl.en (setLanes fl.en) s with
  | .wait s' => .wait s'
  | .trap c v x s' => .trap c v x s'
  | .ok (ls, w, _, s') =>
    if w then .wait s'
    else
      let s1 := withSnap fl.page (mapVec (fun v => { v with flights := [] }) s')
      .ok ({ fl with cells := storeCells s1 fl.key fl.f.t.toNat fl.d ls, mt := lanesType ls }, s')

/-- A resolved store enters the store queue under a number; one to a strongly ordered page is a barrier of its queue (R301). -/
def enqueueStore (seq : Nat) (fl : Flight) (s : State) : State :=
  alignQueues (decide (fl.mt = 3)) (enqueueCells seq seq (decide (fl.mt = 1)) (decide (2 ≤ fl.mt)) fl.cells s)

/-- A store lands: its bytes, made up against the bytes that stand there now, enter the store queue, or it is parked until its
addresses are translated (R157, R158). -/
def landStore (fl : Flight) (s : State) : State :=
  if fl.en = 0 then s
  else
    match resolveStore fl s with
    | .ok (f, s') =>
      if f.mt = 3 ∧ strongHeld fl.num s' then mapVec (fun v => { v with parked := v.parked ++ [(fl.num, fl)] }) s'
      else enqueueStore fl.num f s'
    | .wait s' => mapVec (fun v => { v with parked := v.parked ++ [(fl.num, fl)] }) s'
    | .trap c x y s' => lateFault fl.iss 4 c x y s'

/-- XPUT: one lane of a tile operand (R151). -/
def landPut (fl : Flight) (s : State) : State :=
  let ks := operandKeys fl.f.d fl.rep fl.rb 0
  let l := (xOperand fl.f.b fl.b).toNat % 64
  writeKeys ks (List.replicate 64 (laneAt fl.a 0)) (maskOf (fun i => decide (i = l))) 0 s

/-- An x register takes a value. -/
def writeX (n : BitVec 4) (v : Word) (s : State) : State := mapVec (fun k => { k with x := vset k.x n.toNat v }) s

/-- A landing VAMAX enters am[n]. -/
def landAmax (fl : Flight) (s : State) : State :=
  let n := immNat fl.f.d % 8
  let i := flightIn fl
  let a := operandLanes i.t i.fa i.a i.mtop
  mapVec (fun v => { v with am := vset v.am n (amaxWith (vget v.am n 0) (amaxElems i.t fl.en a)) }) s

/-- A fixed-latency result is computed from its captures and lands (R112, R115, R141, R197). -/
def landFlight (fl : Flight) (s : State) : State :=
  if !fl.valid then s
  else if isStoreOp fl.op then landStore fl s
  else if fl.op = 0x66 then landAmax fl s
  else if fl.op = 0x19 then landPut fl s
  else if writesX fl.op then
    match fl.f.d with
    | .xreg n => writeX n (xcompute fl.op (vecSub fl.op fl.f) fl.f.t.toNat fl.f.b fl.a fl.b) s
    | _ => s
  else writeResult fl (vcompute (flightIn fl)) s

/-! ### The passing of cycles (R112, R187, R193) -/

/-- Whether a push must wait: for its vector, for an earlier push to its port whose vector has not come, or for room in its port,
which only the pushes of a committed iteration can find full (R258); `before` are the earlier results that stay in flight. -/
def pushBlocked (before : List Flight) (fl : Flight) (s : State) : Bool :=
  match fl.f.d with
  | .port p => !fl.store && (fl.src.isSome || before.any (fun g => g.src.isSome && decide (g.f.d = fl.f.d)) ||
      decide (8 ≤ (vget s.vec.ports p.toNat Port.zero).entries.length))
  | _ => false

/-- The place of a push whose vector comes later, from the source `n` (R258). -/
def pushPlace (n iss : Nat) (d : Operand) : Flight :=
  { Flight.zero with op := 0x60, f := { VWord.zero with t := 9, d, a := .tile 0 0 0 0 false 9 }, left := 6, iss, src := some n, num := n }

/-- The flights that take the place that source `n` keeps: the vector `fl`, where it has come, before the place itself, where more
may come. -/
def fillPlace (n : Nat) (fl : Option Flight) (more : Bool) (g : Flight) : List Flight :=
  if g.src = some n then (fl.map (fun x => { x with left := g.left, iss := g.iss, num := g.num })).toList ++ (if more then [g] else []) else [g]

/-- The pushes of source `n`, held or committed, take its vector in its place (R258). -/
def fillPushes (n : Nat) (fl : Option Flight) (more : Bool) (s : State) : State :=
  mapVec (fun v => { v with
    held := v.held.flatMap (fun h => (fillPlace n fl more h.fl).map (fun x => { h with fl := x })),
    flights := v.flights.flatMap (fillPlace n fl more) }) s

/-- Whether a push of source `n` has a place kept. -/
def pushKept (n : Nat) (s : State) : Bool :=
  (s.vec.flights ++ s.vec.held.map (·.fl)).any (fun g => decide (g.src = some n))

/-- What a landing tells the checking scoreboard: an element that a later-issued write has reached before becomes stale, and an
earlier-issued write that is still in flight learns which of its elements were written. -/
def noteLanding (keys : List Nat) (sup : List Nat) (earlier : Flight → Bool) (s : State) : State :=
  if keys.isEmpty ∨ (s.vec.flights.isEmpty ∧ s.vec.stale.isEmpty ∧ sup.isEmpty) then s
  else
    mapVec (fun v => { v with
      stale := keys.foldl (fun q k => if sup.contains k then addSet q k else delSet q k) v.stale,
      flights := v.flights.map (fun g =>
        if earlier g then { g with sup := g.sup ++ ((flightKeys g).map (·.1)).filter (fun k => keys.contains k && !g.sup.contains k) }
        else g) }) s

/-- The results in flight whose latency is spent land in issue order; `before` lists the flights of the list that stay and were
issued earlier. -/
def landDue : List Flight → List Flight → State → State
  | [], before, s => mapVec (fun v => { v with flights := before }) s
  | f :: r, before, s =>
    if f.left = 0 then
      if pushBlocked before f s then landDue r (before ++ [{ f with left := 1 }]) s
      else
        let s1 := noteLanding ((flightKeys f).map (·.1)) f.sup (fun _ => true) (mapVec (fun v => { v with flights := before }) s)
        landDue r s1.vec.flights (landFlight f s1)
    else landDue r (before ++ [f]) s

/-- One cycle passes for the results in flight (R112, R187). -/
def tickFlights (s : State) : State :=
  if s.vec.flights.isEmpty then s
  else
    let aged := s.vec.flights.map (fun f => { f with left := f.left - 1 })
    if aged.all (fun f => decide (f.left ≠ 0)) then mapVec (fun v => { v with flights := aged }) s
    else clearPending (landDue aged [] s)

/-- Several cycles pass. -/
def tickMany : Nat → State → State
  | 0, s => s
  | n + 1, s => tickMany n (tickFlights s)

/-- The elements of tile D of the running invocation. -/
def cuKeys (s : State) : List Nat := if s.vec.cu.running then operandKeys s.vec.cu.f.d 0 s.vec.cuRb 0 else []

/-- Results in flight land before their time, each telling the checking scoreboard what it writes (R193); `before` lists the flights of
the list that stay and were issued earlier. -/
def landEarly (mine : Flight → Bool) : List Flight → List Flight → State → State
  | [], before, s => mapVec (fun v => { v with flights := before }) s
  | f :: r, before, s =>
    if mine f then
      let s1 := noteLanding ((flightKeys f).map (·.1)) f.sup (fun _ => true) (mapVec (fun v => { v with flights := before }) s)
      landEarly mine r s1.vec.flights (landFlight f s1)
    else landEarly mine r (before ++ [f]) s

/-- The results in flight that write tile D of an invocation that runs on land: they are sources of its micro-ops, and no other word
can read the elements before the invocation ends (R338, R339, R344, log 117). -/
def landForUnit (s : State) : State :=
  if s.vec.cu.stopped ∨ s.vec.flights.isEmpty then s
  else landEarly (fun f => (flightKeys f).any (fun p => (cuKeys s).contains p.1)) s.vec.flights [] s

/-- X of the word at the vector PC, when it can be read (R56). -/
def wordX (s : State) : Option Bool :=
  match fetchBytes 36 false s.vec.pc 12 s with
  | .ok bs _ _ => some (tb (leNat bs) 84)
  | _ => none

/-- Whether the word at which the sequencer stands is a member of a region: one that cannot be read is a free choice (R188, log 129). -/
def standsX (s : State) : Bool := (wordX s).getD (decide (Config.freeIndex (2 ^ 71 + s.cell.cycle.toNat) % 2 = 1))

/-- The cycles that a waiting fetch has counted pass, unless its word is a member of a region (R188). -/
def payOwed (x : Bool) (s : State) : State :=
  let n := if x then 0 else Nat.min s.vec.owed 20
  mapVec (fun v => { v with owed := 0 }) (tickMany n s)

/-- Every result in flight lands (R191, R261). -/
def landAll (s : State) : State := tickMany 20 s

/-- The results as of the cycle in which the next word would issue (R195): a cycle not yet counted and the idle cycles of
W pass. -/
def settleVec (s : State) : State :=
  let s1 := payOwed (standsX s) s
  mapVec (fun v => { v with adv := false, gap := 0 }) (tickMany (b2n s1.vec.adv + s1.vec.gap) s1)

end Sys2Proof.Machine
end

