-- ==== Sys2Proof/Machine/Packets.lean ====
section
/-! DEFINITION. Packets: streams, paths, epochs and closes at the source, the kept messages of the collective port, and the marks,
responses and notices of the destination (spec/19_fabric.md R347 to R359; spec/20_prog_message.md R366, R367). -/

namespace Sys2Proof.Machine

open Sys2Proof

/-! ### Streams (R350) -/

/-- The entry of a device in the router's copy of the route table (R348). -/
def routeEntry (s : State) (dev : Nat) : Nat := (sget 0 s.dev.frt dev).toNat

/-- Number of equal next hops in a stream's own entry: n of R350. -/
def pathsOf (s : State) (dev : Nat) : Nat := nb (routeEntry s dev) 40 3 + 1

/-- The stream of a queue to a device. -/
def findStream (s : State) (q dev : Nat) : Option Stream :=
  s.dev.streams.find? (fun t => decide (t.q = q) && decide (t.dev = dev))

/-- Whether every packet of a stream has been acknowledged or has failed. -/
def streamIdle (s : State) (t : Stream) : Bool :=
  !s.dev.kept.any (fun p => decide (p.id.q = t.q) && decide (p.id.dev = t.dev) && decide (p.id.epoch = t.epoch))

/-- The first epoch from `e` for which no CLOSE to the destination is unacknowledged (R351). -/
def freeEpoch (closes : List Packet) (q dev : Nat) : Nat → Nat → Nat
  | 0, e => e % 256
  | n + 1, e =>
    if closes.any (fun p => decide (p.id.q = q) && decide (p.id.dev = dev) && decide (p.id.epoch = e % 256)) then
      freeEpoch closes q dev n (e + 1)
    else e % 256

/-- The message of a request packet: on VC 0, or on the channel of the command that sends it (R354). -/
def packetMsg (p : Packet) : Msg :=
  match p.cargo with
  | none =>
    { vc := 0, kind := p.kind, dst := p.id.dev,
      args := [p.id.q, p.id.epoch, p.id.path, p.id.seq, p.ctx, b2n p.sup, p.va, p.size, p.mask.toNat] ++ p.before, data := p.data }
  | some g => { vc := g.vc, kind := g.kind, dst := p.id.dev, args := [p.id.epoch, p.id.path, p.id.seq] ++ g.args, data := p.data }

/-- A CLOSE of a stream; its path number 8 is no path of a stream, so that no packet's acknowledgement or notice is taken for
the CLOSE's (R350, R351, log 106). -/
def closePacket (q dev epoch : Nat) : Packet :=
  { id := { q, dev, epoch, path := 8, seq := 0 }, kind := 8, size := 0, ctx := 0, sup := false, va := 0, data := [], mask := 0,
    before := [], spent := 0, cargo := none }

/-- The retransmissions allowed to one packet (R347). -/
def budget (s : State) : Nat := if s.dev.fbudget = 0 then 1 else s.dev.fbudget.toNat

/-- Closes a stream: it leaves the open streams and its CLOSE is sent (R350, R351). -/
def closeStream (t : Stream) (s : State) : State :=
  let p := closePacket t.q t.dev t.epoch
  send (packetMsg p) (mapDev (fun d =>
    { d with streams := d.streams.filter (fun u => !(decide (u.q = t.q) && decide (u.dev = t.dev))), closes := d.closes ++ [p] }) s)

/-- Opens a stream: pending CLOSEs to the destination whose budget is spent are sent again, and the next free epoch is taken
(R351). -/
def openStream (q dev : Nat) (s : State) : Stream × State :=
  let again := s.dev.closes.filter (fun p => decide (p.id.q = q) && decide (p.id.dev = dev) && decide (budget s ≤ p.spent))
  let s1 := again.foldl (fun st p => send (packetMsg p) st) s
  let e := freeEpoch s.dev.closes q dev 256 (vget s.dev.epochs q 0).toNat
  let n := pathsOf s dev
  let t : Stream := { q, dev, epoch := e, paths := n, sent := List.replicate n 0, used := s.dev.useCtr }
  (t, mapDev (fun d =>
    { d with streams := d.streams ++ [t], epochs := vset d.epochs q (BitVec.ofNat 8 (e + 1)), useCtr := d.useCtr + 1,
             closes := d.closes.map (fun p => if again.contains p then { p with spent := 0 } else p) }) s1)

/-- The stream for a packet: open, opened now, or opened after closing the least recently used idle one; none while a ninth
destination must wait. The collective port is none of the queues that keep at most 8 streams (R350, log 56). -/
def streamFor (q dev : Nat) (s : State) : Option (Stream × State) :=
  match findStream s q dev with
  | some t => some (t, s)
  | none =>
    let mine := s.dev.streams.filter (fun t => decide (t.q = q))
    if q = 7 ∨ mine.length < 8 then some (openStream q dev s)
    else
      match mine.filter (streamIdle s) with
      | [] => none
      | t :: r => some (openStream q dev (closeStream (r.foldl (fun m u => if u.used < m.used then u else m) t) s))

/-- Sends a packet of a queue in a context; none while it must wait for a stream. The answer names the packet (R350). -/
def issuePacket (q dev kind size ctx : Nat) (sup : Bool) (va : Nat) (data : List Byte) (mask : BitVec 64) (cargo : Option Cargo)
    (s : State) : Option (PktId × State) :=
  match streamFor q dev s with
  | none => none
  | some (t, s1) =>
    let k := t.sent.foldl (· + ·) 0
    let path := k % t.paths
    let id : PktId := { q, dev, epoch := t.epoch, path, seq := t.sent[path]?.getD 0 }
    let p : Packet :=
      { id, kind, size, ctx, sup, va, data, mask, before := if kind = 2 then t.sent else [], spent := 0, cargo }
    let t1 : Stream := { t with sent := lset t.sent path (t.sent[path]?.getD 0 + 1), used := s1.dev.useCtr }
    some (id, send (packetMsg p) (mapDev (fun d =>
      { d with kept := d.kept ++ [p], useCtr := d.useCtr + 1,
               streams := d.streams.map (fun u => if u.q = q ∧ u.dev = dev then t1 else u) }) s1))

/-- Sends a request packet of a queue of the bound task (R350). -/
def sendPacket (q dev kind size : Nat) (sup : Bool) (va : Nat) (data : List Byte) (mask : BitVec 64) (s : State) :
    Option (PktId × State) := issuePacket q dev kind size s.cell.task.ctx sup va data mask none s

/-! ### Messages of the collective port (R353, R359, R365, R368) -/

/-- What the packets of a call carry of it. -/
def Coll.ref (ctx : Nat) (c : Coll) : CallRef :=
  { ctx, g := byteAt c.blk 0 % 16, hash := c.hash.toNat, call := c.call, members := c.members, rank := c.rank }

/-- Sends a message of the collective port to a rank as a kept packet (R353); the answer names the packet. -/
def post (owner : Option (Nat × Nat × Nat)) (r : CallRef) (vc kind rank : Nat) (args : List Nat) (data : List Byte) (s : State) :
    Option (PktId × State) :=
  issuePacket 7 (r.members[rank]?.getD 0) 9 0 r.ctx false 0 data 0 (some { vc, kind, args, owner, ref := r, rank }) s

/-- A message of a call: its context, group, hash, number and the sender's rank come first (R368). -/
def postCall (owner : Option (Nat × Nat × Nat)) (r : CallRef) (kind rank : Nat) (args : List Nat) (data : List Byte) (s : State) :
    State := ((post owner r 2 kind rank ([r.ctx, r.g, r.hash, r.call, r.rank] ++ args) data s).map (·.2)).getD s

/-- A FAULT notice of a call to every other member but those left out. -/
def faultNotices (owner : Option (Nat × Nat × Nat)) (r : CallRef) (mismatch : Bool) (out : List Nat) (s : State) : State :=
  ((upTo r.members.length).filter (fun q => decide (q ≠ r.rank) && !out.contains q)).foldl
    (fun x q => postCall owner r 3 q [b2n mismatch] [] x) s

/-- A response without marks. -/
def Resp.plain (ok : Bool) (bs : List Byte) : Resp := { ok, bs, pois := [] }

/-! ### Marks (R351) -/

/-- The marks of a path of a stream: none has arrived when the destination keeps none. -/
def markOf (s : State) (src q epoch path : Nat) : DestMark :=
  (s.dev.dests.find? (fun m => decide (m.src = src) && decide (m.q = q) && decide (m.epoch = epoch) && decide (m.path = path))).getD
    { src, q, epoch, path, c := 0, window := [], kept := [] }

/-- The contiguous mark moves over the window's numbers. -/
def closeGap : Nat → Nat → List Nat → Nat × List Nat
  | 0, c, w => (c, w)
  | n + 1, c, w => if w.contains c then closeGap n (c + 1) (w.filter (· ≠ c)) else (c, w)

/-- A number has arrived, with the response kept for its duplicates. -/
def DestMark.arrived (m : DestMark) (seq : Nat) (a : Resp) : DestMark :=
  let w := m.window ++ [seq]
  let r := closeGap w.length m.c w
  { m with c := r.1, window := r.2, kept := m.kept ++ [(seq, a)] }

/-- Whether a number is a duplicate. -/
def DestMark.has (m : DestMark) (seq : Nat) : Bool := decide (seq < m.c) || m.window.contains seq

/-- Replaces the marks of a path. -/
def putMark (m : DestMark) (s : State) : State :=
  let same (x : DestMark) : Bool := decide (x.src = m.src) && decide (x.q = m.q) && decide (x.epoch = m.epoch) && decide (x.path = m.path)
  mapDev (fun d => { d with dests := d.dests.filter (fun x => !same x) ++ [m] }) s

/-- A response or an acknowledgement on VC 1: kind 0 performed, 1 fault; after the identity it carries the places of poisoned
bytes. -/
def respond (src q epoch path seq : Nat) (a : Resp) (s : State) : State :=
  send { vc := 1, kind := b2n (!a.ok), dst := src, args := [q, epoch, path, seq] ++ a.pois, data := a.bs } s

/-- A notice of the router on VC 6: 0 REROUTE, 1 UNREACHABLE, 2 BUSY. It carries the packet's stream (queue and destination), epoch,
path and sequence (R349 to R351). -/
def notice (kind src q dst epoch path seq : Nat) (s : State) : State :=
  send { vc := 6, kind, dst := src, args := [q, dst, epoch, path, seq], data := [] } s

end Sys2Proof.Machine
end

