-- ==== Sys2Proof/Machine/Ops.lean ====
section
/-! DEFINITION. The named operations that the meanings share: holding, issuing and advancing a Reeve word, its interlocks,
landing Reeve results, TAKING A TRAP and RETURNING FROM ONE, the delivery of delegated traps, the composite frame area, the
first-fault freeze and its release, kills, and the actions of errors (spec/03_streams.md R51 to R54; spec/04_reeve.md R76,
R77, R89, R101, R106 to R109; spec/08_latency.md R195 to R198; spec/09_scratchpad.md R220; spec/10_engines.md R247 to R250;
spec/11_loops.md R251, R262; spec/17_control_store.md R341 to R344; spec/24_surviving.md R391, R392). -/

namespace Sys2Proof.Machine

open Sys2Proof

/-! ### Cause codes (R109) -/

/-- ILLEGAL. -/
def cIllegal : Nat := 0x01
/-- PRIVILEGE. -/
def cPrivilege : Nat := 0x02
/-- FETCH. -/
def cFetch : Nat := 0x03
/-- MISFETCH. -/
def cMisfetch : Nat := 0x04
/-- WCATOMIC. -/
def cWcAtomic : Nat := 0x07
/-- TRAP. -/
def cTrap : Nat := 0x08
/-- CSMISS. -/
def cCsMiss : Nat := 0x09
/-- REGION. -/
def cRegion : Nat := 0x0B
/-- WATCHDOG. -/
def cWatchdog : Nat := 0x0C
/-- POISON. -/
def cPoison : Nat := 0x0D
/-- SEGMENT. -/
def cSegment : Nat := 0x0E
/-- DOUBLE. -/
def cDouble : Nat := 0x0F
/-- CHECK. -/
def cCheck : Nat := 0x10
/-- PENDING. -/
def cPending : Nat := 0x11
/-- MATFMT. -/
def cMatFmt : Nat := 0x12

/-! ### The composite frame area (R248) -/

/-- Scratchpad address of the area. -/
def frameBase (s : State) : Nat := nb s.cell.tframe.toNat 8 15 * 256

/-- Whether the area lies wholly within writable regions of the context. -/
def frameOk (s : State) : Bool :=
  let b := frameBase s
  decide (b + 0x9800 ≤ 0x800000) && spaOk s ownPos b .write false && spaOk s ownPos (b + 0x97FF) .write false

/-- Bytes of the area. -/
def frameBytes (off n : Nat) (s : State) : List Byte := homeBytes s (locSpad ownPos (frameBase s + off)) n

/-- Writes bytes of the area. -/
def framePut (off : Nat) (bs : List Byte) (s : State) : State := homePut (locSpad ownPos (frameBase s + off)) bs s

/-- The section of port `n` in the frame area follows the port, while the frame of a frozen cell holds it (R195, R220, R344). -/
def framePort (n : Nat) (s : State) : State :=
  match s.cell.frozen with
  | some f => if f.lost || s.vec.delivered then s else framePut (0x5100 + 2240 * n) (portBytes (vget s.vec.ports n Port.zero)) s
  | none => s

/-- The sections of the ports of the invocation follow them (R220, R344). -/
def frameUnitPorts (s : State) : State :=
  ([s.vec.cu.f.d, s.vec.cu.f.a, s.vec.cu.f.b].filterMap operandPort).foldl (fun x n => framePort n x) s

/-- The vector part of a frame: the header and the captured entries; the places of the queue that hold no entry keep their bytes.
INREG tells whether the word at TPC lies in a region (R196). -/
def vecPartBytes (s : State) : List Byte :=
  let fs := (s.vec.flights.filter (·.src.isNone)).take 24
  leBytes 1 fs.length ++ leBytes 1 s.vec.rcount ++ leBytes 1 (b2n (standsX s)) ++ leBytes 1 s.vec.repj ++ zeros 60 ++
    fs.flatMap flightBytes

/-- The port section (R220). -/
def portSection (s : State) : List Byte := s.vec.ports.toList.flatMap portBytes

/-- The loop section (R251). -/
def loopSection (s : State) : List Byte := fit 256 (s.vec.loops.flatMap loopBytes)

/-- Writes the custom section of a stopped invocation, which then lives in the frame area alone (R342, R345). -/
def writeCustomPart (s : State) : State :=
  if s.vec.cu.stopped then mapVec (fun v => { v with cu := Custom.zero }) (framePut 0x4340 (customBytes s.vec.cu) s) else s

/-- The queue holds at most 24 entries, and 20 beside a stopped invocation: earlier results beyond that land first (log 41). -/
def shedFlights (s : State) : State :=
  let fs := s.vec.flights.filter (·.src.isNone)
  let n := fs.length - (if s.vec.cu.stopped then 20 else 24)
  if n = 0 then s
  else
    let late := (fs.take n).map (fun f => { f with left := 0 })
    landEarly (fun f => decide (f.left = 0)) (late ++ fs.drop n ++ s.vec.flights.filter (·.src.isSome)) [] s

/-- An entry of the queue as it is captured: the address of a store whose earlier repeats are translated by now is its own. -/
def captured (s : State) (f : Flight) : Flight :=
  match eaOf (vecEng f.iss) f.op f.f.t.toNat .write (withSnap f.page s) f.chain f.ea with
  | .ok ea => { f with ea, chain := 0 }
  | _ => f

/-- Writes the vector part, the ports and the loops; the results in flight then live in the frame area alone (R195). The custom
section reads V = 0 unless an invocation is stopped (log 44). -/
def writeVecPart (s0 : State) : State :=
  let s2 := shedFlights s0
  let fs := (s2.vec.flights.filter (·.src.isNone)).map (captured s2)
  let s := mapVec (fun v => { v with flights := fs ++ v.flights.filter (·.src.isSome) }) s2
  let s1 := framePut 0x9700 (loopSection s) (framePut 0x5100 (portSection s) (framePut 0x200 (vecPartBytes s) (framePut 0x4350 [0] s)))
  writeCustomPart (mapVec (fun v =>
    { v with capt := fs, flights := v.flights.filter (·.src.isSome) }) s1)

/-! ### Calls of a cell that stops (R359) -/

/-- The command of the bound task that sends a packet. -/
def ownerOf (s : State) (c : Coll) : Option (Nat × Nat × Nat) := some (s.cell.task.q, s.cell.task.num, c.adm)

/-- A FAULT notice of a call of the bound task to every other member. -/
def faultNotice (mismatch : Bool) (c : Coll) (s : State) : State :=
  faultNotices (ownerOf s c) (c.ref s.cell.task.ctx) mismatch [] s

/-- Whether a call is under way. -/
def Coll.calling (c : Coll) : Bool := c.started && decide (c.kind ≤ 1) && !c.failed && c.absent.isEmpty

/-- Whether a command is a call that has started. -/
def Coll.isCall (c : Coll) : Bool := c.started && decide (c.kind ≤ 1)

/-- A call leaves the port: the device can still answer for it (R368). -/
def endCall (ctx : Nat) (c : Coll) (s : State) : State :=
  if c.isCall then mapDev (fun d => { d with pastCalls := d.pastCalls ++ [(ctx, { c with sums := [], got := [], inbox := [] })] }) s else s

/-- A kill or a freeze sends a FAULT notice into every call under way, which then completes with FAULT. -/
def stopCalls (s : State) : State :=
  let s1 := (s.cell.colls.filter (·.calling)).foldl (fun x c => faultNotice false c x) s
  mapCell (fun k => { k with colls := k.colls.map (fun c => if c.calling then { c with failed := true, settled := true } else c) }) s1

/-! ### The first fault (R247 to R250) -/

/-- Status of a queue of commands in the record: none, some started, or none started. -/
def queueStat (n started : Nat) : EngStat := if n = 0 then .halted else if started = 0 then .waiting else .issuing

/-- Status and position of the ten engines (R249); `none6` stands for the position of engine 6 with no unfinished job. -/
def enginePositions (none6 : Word) (s : State) : List EngPos :=
  let cluster (k : Cluster) : EngPos := { stat := if k.active then k.stat else .halted, wait := k.wait, pos := k.pc.toNat }
  let oldest := match s.cell.jobs with
    | [] => none6.toNat
    | j :: r => r.foldl (fun m i => Nat.min m i.adm) j.adm
  let jobs := s.cell.jobs.length
  let jstat := queueStat jobs (s.cell.jobs.filter (·.started)).length
  let copies : EngStat := if s.cell.jobs.any (fun j => j.started && parkedOn s (jobEngine j)) then .parked else jstat
  let plain (st : EngStat) (n : Nat) : EngPos := { stat := st, wait := .none, pos := n }
  s.cl.toList.map cluster ++
    [{ stat := if s.vec.running then s.vec.stat else .halted, wait := s.vec.wait, pos := s.vec.pc.toNat },
     { stat := if s.mat.running then s.mat.stat else .halted, wait := s.mat.wait,
       pos := (match s.mat.work with | some w => if s.mat.wait = WaitKind.port then w.pc else s.mat.pc | none => s.mat.pc).toNat },
     plain copies oldest,
     plain (queueStat s.cell.colls.length (s.cell.colls.filter (·.started)).length) s.cell.colls.length,
     plain (queueStat s.cell.mends.length (s.cell.mends.filter (·.started)).length) s.cell.mends.length,
     plain jstat jobs]

/-- Sets the freeze report of the cell (R250). -/
def reportFreeze (fz : Freeze) (s : State) : State :=
  mapDev (fun d => { d with cfrz := sset 0 d.cfrz Config.cellNo (BitVec.ofNat 64
    (1 + 2 * b2n fz.overflow + 4 * b2n fz.lost + fz.code * 256 + s.cell.task.ctx % 65536 * 65536)) }) s

/-- The first freezing fault stops the cell, writes the record and interrupts; a later one sets OVERFLOW only (R247). -/
def freezeCell (code eng : Nat) (value : Word) (s : State) : State :=
  match s.cell.frozen with
  | some f =>
    let f1 := { f with overflow := true, kept := lset f.kept 2 (BitVec.ofNat 8 (1 + 2 + 4 * b2n f.lost)) }
    let s1 := reportFreeze f1 (mapCell (fun k => { k with frozen := some f1 }) s)
    if f.lost then s1 else framePut 2 [BitVec.ofNat 8 (1 + 2)] s1
  | none =>
    let s1 := stopCalls (landForUnit (settleVec s))
    let p := takeFree s1
    let fz0 : Freeze := { code, eng, cycle := s1.cell.cycle, value, overflow := false, lost := !frameOk s1, kept := [] }
    let record := recordBytes fz0 (enginePositions (Config.freeWord p.1) s1)
    let fz := if fz0.lost then { fz0 with kept := record } else fz0
    let s2 :=
      if fz.lost then p.2
      else
        let s3 := framePut 0 record p.2
        if s1.vec.delivered then writeCustomPart s3 else writeVecPart s3
    interruptCtx s2.cell.task.ctx (reportFreeze fz (mapCell (fun k => { k with frozen := some fz }) s2))

/-- The freeze ends (R250). -/
def thaw (s : State) : State :=
  mapDev (fun d => { d with cfrz := sset 0 d.cfrz Config.cellNo 0 }) (mapCell (fun k => { k with frozen := none }) s)

/-- The 512-byte record that a freeze with FRAMELOST keeps in the cell (R248, R250). -/
def keptRecord (s : State) : List Byte :=
  match s.cell.frozen with
  | some f => if f.lost then f.kept else zeros 512
  | none => zeros 512

/-! ### Whether engines move -/

/-- Whether the engines of the cell may move: a task is bound, the cell is not frozen, its quad has power, and it has not
stopped for a pre-emption. -/
def cellRuns (s : State) : Bool :=
  s.cell.bound && s.cell.frozen.isNone && !s.cell.gated && !s.cell.waking && !s.cell.stopped

/-- Whether a pre-emption request is taken: HOLD defers it until it has expired (R322). -/
def stopAsked (s : State) : Bool := s.cell.pReq && (!s.cell.pHold || s.cell.pExpired)

/-- Whether the cell has a task, power and no pre-emption that has stopped it: what an engine has issued goes on then, in a frozen cell
too (R247). -/
def cellAwake (s : State) : Bool := s.cell.bound && !s.cell.gated && !s.cell.waking && !s.cell.stopped

/-- Whether the streams stop at their next issue points: for a pre-emption, or with the partner of a redundant pair (R265). -/
def streamStop (s : State) : Bool := stopAsked s || s.cell.partner

/-- What the other member of a redundant pair does: it stops, stops with a trap, goes on, or freezes, which freezes both (R265). -/
def partnerTurn (p : Partner) (s : State) : State :=
  if !s.cell.bound || !s.cell.task.pair then s
  else
    match p with
    | .goes => mapCell (fun k => { k with partner := false, partnerTrap := false }) s
    | .stops => mapCell (fun k => { k with partner := true }) s
    | .traps => mapCell (fun k => { k with partner := true, partnerTrap := true }) s
    | .freezes code eng value => if s.cell.frozen.isSome then s else freezeCell code eng value s

/-! ### Kills (R14, R306) -/

/-- The accesses of the cell that wait for a walk or a verdict are abandoned: the records of their faults stay (R295). -/
def dropParked (s : State) : State :=
  mapCell (fun k => { k with invalid := [] })
    (mapDev (fun d => { d with walks := [], faults := d.faults.map (fun f => { f with walk := { f.walk with joined := [] } }) }) s)

/-- The cell stops for a kill: clusters and sequencers halt, and the commands of the task end, those with a chunk in progress at its
boundary. Accesses that have started complete: what is in flight in the vector pipeline lands, and stores stay in their queues
(R14, R306). -/
def killCell (s' : State) : State :=
  let s := landAll s'
  let stopCl (k : Cluster) : Cluster :=
    { k with active := false, stat := .halted, wait := .none, loads := [], pend := [], greq := [], gHeld := none, csl := none, rdvArmed := false,
             gap := 0, realign := false, seg := Seg.closed }
  let s9 := stopCalls s
  let s0 := s9.cell.colls.foldl (fun x c => endCall s.cell.task.ctx c x) s9
  let s1 := { s0 with cl := s0.cl.map stopCl }
  let s2 := mapVec (fun v =>
    { v with running := false, token := false, stat := .halted, wait := .none, flights := [], parked := [], loads := [],
             loops := [], held := [], checks := [], pendWords := [], trap := none, delivered := false, heldFault := none,
             halted := false, halting := false, drained := false, ckWait := false, gWait := none, gSent := [], gap := 0, seg := Seg.closed, cu := Custom.zero }) s1
  let s3 := mapMat (fun m =>
    { m with running := false, token := false, work := none, kept := none, unfinished := [], stat := .halted, wait := .none, halted := false,
             seg := Seg.closed }) s2
  let ends (j : Job) : Bool := j.started && decide (j.wait ≠ 0)
  let s4 := dropParked (mapCell (fun k => { k with jobs := (k.jobs.filter ends).map (fun j => { j with stopping := true }),
                                                   colls := [], mends := [], qmarks := [], halting := false, partner := false, partnerTrap := false, pReq := false, pHold := false, pExpired := false, stopped := false }) s3)
  match s4.cell.frozen with
  | some _ => thaw s4
  | none => s4

/-- Clears the scratchpads of the positions of the quad that an action hits, with their attribute entries (R391, actions 6 to 8). Stores
that have started still reach their homes outside (R306). -/
def clearSpads (hit : Nat → Bool) (s : State) : State :=
  let gone (l : Nat) : Bool := isSpad l && hit ((l - 2 ^ 56) / 2 ^ 23)
  let kept (l : List StoreEnt) : List StoreEnt := l.map (fun e => { e with cells := e.cells.filter (fun c => !gone c.1) })
  let s1 : State := { s with cl := s.cl.map (fun k => { k with stores := kept k.stores }), vec := { s.vec with stores := kept s.vec.stores } }
  mapDev (fun d => { d with mem := d.mem.filter (fun c => !gone c.1), poison := d.poison.filter (fun l => !gone l) })
    (mapCell (fun k => { k with cellStores := kept k.cellStores, spa := k.spa.filter (fun e => !hit (e.1 / 128)) }) s1)

/-- Clears the cell's own state and its control-store tags (R391, actions 6 to 8). Stores that have started, and the chunk in progress
of a job, go on (R306). -/
def clearCell (s : State) : State :=
  let cl := s.cl.map (fun k => { Cluster.zero with stores := k.stores, seqCtr := k.seqCtr, bar := k.bar })
  let vec := { VecState.zero with stores := s.vec.stores, seqCtr := s.vec.seqCtr, bar := s.vec.bar }
  mapCell (fun k => { CellState.zero with
    jobs := k.jobs, spa := k.spa, cellStores := k.cellStores, bound := k.bound, task := k.task, gated := k.gated, waking := k.waking, cycle := k.cycle, tlb := k.tlb })
    { s with cl, vec, mat := MatState.zero }

/-- The sync words of the die's Spool, Menders and Baster work: of SPOOL jobs and Menders commands of the cell, and of the sweeps of
contexts (R391, action 8). -/
def dieSyncs (ctxs : List Nat) (s : State) : List Nat :=
  let word (spa : Sparse (BitVec 32)) (on : Bool) (a : Nat) : List Nat :=
    if on && decide (a % 16 = 0) && decide (a < 0x800000) && spaOk { s with cell := { s.cell with spa } } ownPos a .write false
    then [locSpad ownPos a] else []
  (s.cell.jobs.filter (fun j => decide (byteAt j.card 0 = 2))).flatMap (fun j => word j.snap.spa (tb (byteAt j.card 2) 2) (leAt j.card 24 8)) ++
    s.cell.mends.flatMap (fun m => word s.cell.spa (tb (byteAt m.card 5) 0) (leAt m.card 48 8)) ++
    (s.dev.ctxs.filter (fun c => ctxs.contains c.id)).filterMap (fun c => c.cap.sweep.join)

/-- The die's Spool, Menders and Baster work of killed launches ends with FAULT: SW.FLT in its sync words, and a Menders command, one that
has not started too, still writes its status block (R385, R391; assumption 127). `s` stands before the kill, `t` after it. -/
def endDieWork (ctxs : List Nat) (s t : State) : State :=
  let t1 := (dieSyncs ctxs s).foldl (fun x loc => syncFlag loc true x) t
  let t2 := mapCell (fun k => { k with mends := s.cell.mends.map (fun m => { m with started := true, failed := true, settled := true }) }) t1
  mapDev (fun d => { d with ctxs := d.ctxs.map (fun c => if ctxs.contains c.id then { c with cap := { c.cap with sweep := none } } else c) }) t2

/-- The status with which a launch ends is set, unless one is set already (R319). -/
def markEnding (sel : Launch → Bool) (st : Nat) (tcause : Word) (s : State) : State :=
  mapDev (fun d => { d with launches := d.launches.map (fun l =>
    if sel l && l.ending.isNone then { l with ending := some st, tcause := tcause } else l) }) s

/-- The context id in the header of a launch record. -/
def Launch.ctx (l : Launch) : Nat := leAt l.bytes 18 2

/-- The cause code of a freeze or a trap that an error of a class brings: POISON for class 6, SEGMENT for classes 7 and 8
(R392); of the other classes the spec names none: free (log 9). -/
def errCode (cls free : Nat) : Nat :=
  if cls = 6 then cPoison else if cls = 7 ∨ cls = 8 then cSegment else 1 + Config.freeIndex free % 18

/-- The context of the launch that is bound to a physical cell. -/
def ctxAt (s : State) (p : Nat) : Option Nat := (s.dev.launches.find? (fun l => l.bound && l.cells.contains p)).map (·.ctx)

/-- Actions 6 to 8 on the cells that an error hits: their launches are killed with FAULT, and their state, scratchpads and control-store
tags are cleared (R391). A member of a killed launch that the action does not hit is killed and not cleared. -/
def killHit (act : Nat) (hit : Nat → Bool) (s : State) : State :=
  let killed := s.dev.launches.filter (fun l => l.bound && l.cells.any hit)
  let s1 := markEnding (fun l => l.bound && l.cells.any hit) 3 (clus s 0).tcause s
  let mine := hit Config.cellNo
  let s2 := if mine || killed.any (ownLaunch s) then killCell s1 else s1
  let s3 := clearSpads (fun p => hit (Config.cellNo / 4 * 4 + p)) (if mine then clearCell s2 else s2)
  if act = 8 ∧ mine = true then endDieWork (killed.map (·.ctx)) s s3 else s3

/-- Action 5 on a context: the cell freezes with the others that are bound to it, and the launches are killed with FAULT, which releases
them (R247, R324, R391). -/
def freezeContext (e : Err) (s : State) : State :=
  let p := takeFree s
  let mine := s.cell.bound && decide (s.cell.task.ctx = e.ctx)
  let s1 := if mine then freezeCell (errCode e.cls p.1) e.eng e.addr p.2 else p.2
  let s2 := markEnding (fun l => l.bound && decide (l.ctx = e.ctx)) 3 (clus s1 0).tcause s1
  if mine then killCell s2 else s2

/-- An error takes its action (R391, R392); the answer is the action taken. One that a cell without a launch carries has no context. -/
def raiseError (e : Err) (canRoll : Bool) (s : State) : Nat × State :=
  let act := actionOf s e canRoll
  let s1 := recordError e act s
  let p := e.cell.getD 512
  if act < 5 then (act, s1)
  else if act = 5 then
    (act, if (ctxAt s p).isSome ∨ (p = Config.cellNo ∧ s.cell.bound) then freezeContext e s1 else s1)
  else
    let hit (c : Nat) : Bool :=
      if act = 6 then decide (c = p) else if act = 7 then decide (c / 4 = p / 4) else decide (c / 128 = p / 128)
    (act, killHit act hit s1)

/-! ### Reeve words: holding, issuing, advancing -/

/-- The word is held, with a status and a wait kind; the time is not part of a segment (R262). -/
def holdWith (st : EngStat) (w : WaitKind) (s : State) : State :=
  { mapClus s.cur (fun k => { k with stat := st, wait := w }) s with held := true }

/-- The word waits for a translation: it is parked while its page has an outstanding fault, and stalls in a wait before that (R87, R249,
R290). -/
def holdMiss (eng : Nat) (s : State) : State := holdWith (if parkedOn s eng then .parked else .waiting) .none s

/-- A counted cycle of a segment (R262). -/
def Seg.tick (g : Seg) : Seg := if g.opened then { g with count := g.count + 1 } else g

/-- The word is held by a fixed-latency interlock, which a segment counts (R77, R262). -/
def holdFixed (s : State) : State :=
  { mapClus s.cur (fun k => { k with stat := .issuing, wait := .none, seg := k.seg.tick }) s with held := true }

/-- The segment of a stream after a word issues: the cycle counts, and the bytes of a fed word enter the CRC (R262). -/
def segIssue (feed : Bool) (bytes : List Byte) (g : Seg) : Seg :=
  if g.opened then { g with count := g.count + 1, crc := if feed then crc32Feed g.crc bytes else g.crc } else g

/-- A barrier of the queue stands before what follows: no later write-combining store passes an earlier one (R301). -/
def barrier (s : State) : State := mapClus s.cur (fun k => { k with bar := k.bar + 1 }) s

/-- The word issues, with its W gap (R54). -/
def issueFed (feed : Bool) (w : BitVec 2) (s : State) : State :=
  let bytes := leBytes 4 s.word
  let s1 := mapClus s.cur (fun k =>
    { k with gap := w.toNat, stat := .issuing, wait := .none, greq := [], gHeld := none, rdvArmed := false, realign := false,
             seg := segIssue (feed && !k.sup) bytes k.seg }) s
  if s.cur = 0 then mapOwnLaunch (fun l => { l with started := true }) s1 else s1

/-- The word issues and feeds the signature. -/
def issue (w : BitVec 2) (s : State) : State := issueFed true w s

/-- The program counter takes a value. -/
def setPc (pc : BitVec 48) (s : State) : State := mapClus s.cur (fun k => { k with pc }) s

/-- The program counter moves to the next word. -/
def nextPc (s : State) : State := mapClus s.cur (fun k => { k with pc := k.pc + 4 }) s

/-- The word issues and the program counter moves past it. -/
def advance (w : BitVec 2) (s : State) : State := nextPc (issue w s)

/-- A result of a latency is given to a register of a cluster, with its poison bit. A result of one cycle for an s register is
written at once, since no word can read it earlier; every other waits in the cluster's results (R51, R76, R77, R89). -/
def giveResult (c : Fin 4) (lat : Nat) (d : BitVec 5) (v : Word) (mark : Bool) (s : State) : State :=
  if lat = 1 ∧ d.toNat < 24 then writeReg c d v mark s
  else if d = 0 then s
  else mapClus c (fun k => { k with pend := k.pend ++ [{ reg := d, val := v, mark, left := lat }] }) s

/-- A result of the word that runs. -/
def putResult (lat : Nat) (d : BitVec 5) (v : Word) (s : State) : State := giveResult s.cur lat d v false s

/-- One cycle passes for the results of a cluster: those whose latency is spent are written in order (R77). -/
def tickCluster (c : Fin 4) (s : State) : State :=
  let k := clus s c
  let aged := k.pend.map (fun p => { p with left := p.left - 1 })
  let due := aged.filter (fun p => decide (p.left = 0))
  let s1 := mapClus c (fun k => { k with pend := aged.filter (fun p => decide (p.left ≠ 0)) }) s
  due.foldl (fun st p => writeReg c p.reg p.val p.mark st) s1

/-- One cycle passes for the results of all clusters: of two writes of one g register in one cycle, that of the higher-numbered
cluster remains (R51, R76). -/
def tickResults (s : State) : State := clusters.foldl (fun x c => tickCluster c x) s

/-- The longest latency that is still to pass. -/
def longestPend (s : State) : Nat := (clusters.flatMap (fun c => (clus s c).pend)).foldl (fun m p => Nat.max m p.left) 0

/-- Cycles pass for the results of the clusters. -/
def ageResults (n : Nat) (s : State) : State := (upTo (Nat.min n (longestPend s))).foldl (fun x _ => tickResults x) s


/-! ### Taking a trap (R106) -/

/-- Segment voided by a trap, a pre-emption, a drain or a rollback (R263). -/
def Seg.void (g : Seg) : Seg := if g.opened then { g with voided := true } else g

/-- The trap registers' contents for a trap (R106, R108). -/
def causeWord (info eng : Nat) (sup : Bool) (code : Nat) : Word :=
  BitVec.ofNat 64 (info % 256 * 65536 + eng % 16 * 4096 + b2n sup * 256 + code % 256)

/-- The handler's address (R108). -/
def handlerPc (s : State) : BitVec 48 := BitVec.ofNat 48 (nb s.cell.tvb.toNat 6 42 * 64)

/-- Cluster c takes a trap of its own: the trap registers are written, the mode becomes supervisor and the program counter
becomes TVB; in supervisor mode it is a double trap, which writes no trap register and freezes the cell (R106). -/
def takeTrap (c : Fin 4) (code info : Nat) (tpc : BitVec 48) (tval : Word) (s : State) : State :=
  let k := clus s c
  if k.sup then
    let p := takeFree s
    { freezeCell cDouble c.val (Config.freeWord p.1) p.2 with trapped := true }
  else
    { setClus c { k with
        tcause := causeWord info c.val k.sup code, tpc, tval, sup := true, pc := handlerPc s, seg := k.seg.void, gap := 0,
        stat := .issuing, wait := .none, greq := [], gHeld := none, rdvArmed := false } s with trapped := true }

/-- A trap precise at the word that runs. -/
def trapHere (code : Nat) (tval : Word) (s : State) : State := takeTrap s.cur code 0 (clus s s.cur).pc tval s

/-- The illegal-instruction or the privilege trap of a Reeve word: TVAL is the word (R109). -/
def trapWord (code : Nat) (s : State) : State := trapHere code (BitVec.ofNat 64 (s.word % 2 ^ 32)) s

/-- A word reads a poisoned register or a poisoned block: an error of the consumed-poison class from source 0, and the POISON
trap with the register's number (R89, R392). Of several poisoned registers the first in the word's list of reads is named
(log 104). -/
def trapPoison (r : BitVec 5) (s : State) : State :=
  let e : Err := { cls := 6, src := 0, addr := 0, info := 0, eng := s.cur.val, cell := some Config.cellNo, ctx := s.cell.task.ctx }
  trapHere cPoison (r.setWidth 64) (raiseError e false s).2

/-! ### Interlocks (R76, R89) -/

/-- Whether a register waits for a load. -/
def loadPending (k : Cluster) (rs : List (BitVec 5)) : Bool :=
  rs.any (fun r => decide (r ≠ 0) && k.loads.any (fun e => decide (e.dest = r)))

/-- Whether a register waits for a fixed-latency result. -/
def fixedPending (k : Cluster) (rs : List (BitVec 5)) : Bool :=
  rs.any (fun r => decide (r ≠ 0) && k.pend.any (fun p => decide (p.reg = r)))

/-- Whether the queues of a cluster hold nothing. -/
def queuesEmpty (k : Cluster) : Bool := k.loads.isEmpty && k.stores.isEmpty

/-- The frame of a Reeve word: its interlocks on the registers that it reads and writes, the poison of those that it reads,
and then its own effect. -/
def reeve (reads dest : List (BitVec 5)) (body : State → State) (s : State) : State :=
  let k := clus s s.cur
  if loadPending k (reads ++ dest) then holdWith .waiting .scoreboard s
  else if k.realign && !queuesEmpty k then holdWith .waiting .fence s
  else if fixedPending k (reads ++ dest) then holdFixed s
  else
    match reads.find? (fun r => regPoison s s.cur r) with
    | some r => trapPoison r s
    | none => body s

/-- A word that writes one register with a function of the registers: `lat` is its latency. -/
def writeWord (lat : Nat) (w : BitVec 2) (d : BitVec 5) (reads : List (BitVec 5)) (v : State → Word) (s : State) : State :=
  reeve reads [d] (fun s => putResult lat d (v s) (advance w s)) s

/-- The value of a register for the word that runs. -/
abbrev rd (s : State) (r : BitVec 5) : Word := readReg s s.cur r

/-! ### Vector traps and their delivery (R107, R195) -/

/-- The vector stream, or the custom unit, raises a trap; `extra` cycles pass before the word at `tpc` would have issued. -/
def vecTrap (eng code info : Nat) (tpc : BitVec 48) (tval : Word) (extra : Nat) (s : State) : State :=
  mapVec (fun v => { v with
    trap := some { eng, code, info, tpc, tval, keep := false }, delivered := false, adv := false, gap := 0,
    seg := v.seg.void, stat := .waiting, wait := .none }) (landForUnit (tickMany extra (payOwed (standsX s) s)))

/-- Whether the trap of the vector stream can be delivered: c0 stands at a word boundary in user mode, every scoreboarded
access has completed, and an invocation that runs on has ended or stopped (R107, R195, R344). -/
def trapReady (s : State) : Bool :=
  let k := clus s 0
  s.vec.trap.isSome && !s.vec.delivered && s.cell.frozen.isNone && s.cell.bound && k.active && !k.sup && k.greq.isEmpty && k.csl.isNone &&
    s.vec.loads.isEmpty && (!s.vec.cu.running || s.vec.cu.stopped)

/-- c0 takes the trap of another engine: the frame is written, TPC is in that engine's stream and TCPC is c0's next word
(R107). With no room for the frame the trap becomes a first fault of the cell (R248). An access for which c0 waited or stood parked is
given up with the word it leaves: the handler's accesses are their own (R293, R294). -/
def deliverTrap (s : State) : State :=
  match s.vec.trap with
  | none => s
  | some d =>
    if !d.keep && !frameOk s then freezeCell d.code d.eng d.tval s
    else
      let s1 := if d.keep then s else writeVecPart s
      let s2 := dropJoins [0, 32] (mapVec (fun v => { v with delivered := true }) s1)
      mapCell (fun x => { x with halting := false }) (mapClus 0 (fun k => { k with
        tcause := causeWord d.info d.eng k.sup d.code, tpc := d.tpc, tval := d.tval, tcpc := k.pc, sup := true,
        pc := handlerPc s, seg := k.seg.void, gap := 0, stat := .issuing, wait := .none, rdvArmed := false }) s2)

/-! ### Returning from a trap (R101, R197, R343) -/

/-- The word count of the image in the bank tagged with the own context and a version. -/
def imageOf (s : State) (ver : Nat) : Option (Nat × Nat) :=
  (upTo 4).findSome? (fun b =>
    match vget s.cell.csTag b none with
    | some (ctx, v, n) => if ctx = s.cell.task.ctx ∧ v = ver then some (b, n) else none
    | none => none)

/-- The vector stream is not resumed: the frame stays, and a new trap goes to c0 (R197, R343). -/
def refuseResume (eng code : Nat) (tpc : BitVec 48) (tval : Word) (s : State) : State :=
  mapVec (fun v => { v with
    trap := some { eng, code, info := 0, tpc, tval, keep := true }, delivered := false, pc := tpc }) s

/-- The ports as the port section holds them (R220). -/
def portsFromFrame (s : State) : Vector Port 8 :=
  vtab 8 (fun n => portFrom (decide (n < 6)) (frameBytes (0x5100 + 2240 * n) 2240 s) (vget s.vec.ports n Port.zero))

/-- The entry as which place `i` of the queue was captured. -/
def captOf (s : State) (i : Nat) : Flight := s.vec.capt[i]?.getD { Flight.zero with page := snapOf s, iss := s.cell.cycle.toNat }

/-- The entries of the vector part below COUNT; none when one of them cannot be resumed (R197). -/
def entriesFromFrame (count : Nat) (s : State) : Option (List Flight) :=
  (upTo count).mapM (fun i =>
    flightFrom (frameBytes (0x240 + 832 * i) 832 s) (captOf s i))

/-- Whether a stopped invocation in the custom section may continue: R343 step 2. -/
def customOk (c : Custom) (cs : List Byte) (count words : Nat) : Bool :=
  decide (c.entry ≤ c.upc) && decide (c.upc < c.entry + c.len) && decide (c.entry + c.len ≤ words) &&
    decide (byteAt cs 17 ≤ 4) && c.loops.all (fun l => decide (l.1 < words)) && decide (count ≤ 20)

/-- TVAL of an ILLEGAL inside a sequence: the micro-op word at μPC, or 0 (R341). -/
def uopWordAt (bank upc words : Nat) (s : State) : Word :=
  if upc < words then sget 0 s.cell.cs (2048 * bank + upc) else 0

/-- The loops as the loop section holds them (R251). -/
def loopsFromFrame (s : State) : List Loop :=
  (upTo 4).filterMap (fun i => loopFrom (frameBytes (0x9700 + 64 * i) 64 s) s.vec.loops[i]?)

/-- The resumed entries: those with V, the stores among them with the bytes that they will write; the pending bits of those that were
discarded are cleared (R187, R194, R197). -/
def resumeFlights (fs : List Flight) (s : State) : State :=
  let back := (fs.filter (·.valid)).map (fun f =>
    if !f.store then f
    else match resolveStore f s with
      | .ok (g, _) => g
      | _ => f)
  clearPending (mapVec (fun v => { v with flights := back ++ v.flights, capt := [] }) s)

/-- The vector stream resumes from its frame: the header, the entries, the ports, the loops and a stopped invocation are taken from it,
and a held fault is raised as a new trap (R195, R197, R220, R343). The answer is a wait while the word at TPC, whose fields a
check needs, is not translated; where that word cannot be fetched and REPJ is not 0, the resumption is refused (DESIGN CHOICE, log 139). -/
def resumeVector (tpc : BitVec 48) (s : State) : MemRes State :=
  let hd := frameBytes 0x200 4 s
  let count := byteAt hd 0
  let repj := byteAt hd 3
  let ents := if 24 < count then none else entriesFromFrame count s
  let word := if repj = 0 ∧ ents.isSome then Blk.ok (zeros 12) false [] else fetchBytes 36 false tpc 12 s
  match word with
  | .wait s' => .wait s'
  | .deny _ s' => .ok (refuseResume 4 cIllegal tpc 0 s')
  | .ok bs _ _ =>
    let ill := refuseResume 4 cIllegal tpc (BitVec.ofNat 64 (leNat bs)) s
    match ents with
      | none => .ok ill
      | some fs =>
        if repj ≠ 0 ∧ nb (leNat bs) 72 3 < repj then .ok ill
        else
          let cs := frameBytes 0x4340 3328 s
          let custom := tb (byteAt cs 16) 0
          let c := customFrom cs
          let go (keepCu : Bool) (at_ : Nat × Nat) : State :=
            let s1 := if keepCu then framePut 0x4350 [0] s else s
            let s2 := resumeFlights fs (if keepCu || s.vec.cu.running then s1 else match s.vec.cuSeq with
              | some n => fillPushes n none false (mapVec (fun v => { v with cuSeq := none }) s1)
              | none => s1)
            mapVec (fun v => { v with
              rcount := byteAt hd 1, inreg := tb (byteAt hd 2) 0, repj, ports := portsFromFrame s, loops := loopsFromFrame s,
              pc := tpc, adv := false, gap := 0, owed := 0, delivered := false, heldFault := none,
              trap := v.heldFault.map (fun d => { d with tpc, keep := false }), stat := .issuing, wait := .none,
              cu := if keepCu then { c with bank := at_.1, nwords := at_.2 } else v.cu }) s2
          if !custom then .ok (go false (0, 0))
          else
            match imageOf s c.ver with
            | none => .ok (refuseResume 10 cCsMiss tpc (c.n.setWidth 64) s)
            | some (bank, words) =>
              if customOk c cs count words then .ok (go true (bank, words))
              else .ok (refuseResume 10 cIllegal tpc (uopWordAt bank c.upc words s) s)

/-- ERET in supervisor mode: the program counter and the mode come back, and a stopped vector stream resumes (R101). -/
def returnFromTrap (w : BitVec 2) (s : State) : State :=
  let k := clus s s.cur
  let eng := nb k.tcause.toNat 12 4
  let back (pc : BitVec 48) (s : State) : State :=
    mapClus s.cur (fun k => { k with pc, sup := tb k.tcause.toNat 8 }) (issue w s)
  if eng ≤ 3 then back k.tpc s
  else if (eng = 4 ∨ eng = 10) ∧ s.vec.delivered ∧ s.cur = 0 then
    match resumeVector k.tpc s with
    | .ok s' => back k.tcpc s'
    | .wait s' => holdMiss 36 s'
    | .trap _ _ _ s' => back k.tcpc s'
  else back k.tcpc s

/-- An entry that REPLAY has executed is no longer pending, and its landing is told to the checking scoreboard (R193, R194, R198). -/
def replayed (i : Nat) (fl : Flight) (s : State) : State :=
  let keys := (flightKeys fl).map (·.1)
  clearPending (mapVec (fun v => { v with
    capt := v.capt.mapIdx (fun k g => if k = i then { g with valid := false }
      else if k < i ∧ g.valid then { g with sup := g.sup ++ ((flightKeys g).map (·.1)).filter (fun x => keys.contains x && !g.sup.contains x) }
      else g),
    stale := keys.foldl (fun q k => if fl.sup.contains k then addSet q k else delSet q k) v.stale }) s)

/-- REPLAY in supervisor mode: one entry lands at once and its V is cleared (R198). An entry whose word is no fixed-latency word has no
effect, and one lands whatever its latency, since R198 names neither case (DESIGN CHOICE, log 138). -/
def replayEntry (w : BitVec 2) (i : Nat) (s : State) : State :=
  let off := 0x240 + 832 * i
  let bs := frameBytes off 832 s
  if !s.vec.delivered ∨ 24 ≤ i ∨ byteAt (frameBytes 0x200 1 s) 0 ≤ i then advance w s
  else
    match flightFrom (lset bs 12 1) (captOf s i) with
    | none => advance w s
    | some fl =>
      if !fl.valid then advance w s
      else
        let done (s : State) : State := replayed i fl (framePut (off + 14) [BitVec.ofNat 8 (byteAt bs 14 - 1)] (advance w s))
        if fl.store then
          match resolveStore fl s with
          | .wait s' => holdMiss (vecEng fl.iss) s'
          | .trap c x y s' => done (lateFault fl.iss 4 c x y s')
          | .ok (f, s') => done (landStore f s')
        else
          match fl.f.d with
          | .port _ =>
            let s1 := landFlight fl (mapVec (fun v => { v with ports := portsFromFrame s }) s)
            done (framePut 0x5100 (portSection s1) s1)
          | _ => done (landFlight fl s)

/-- The freeze is released: every engine goes on from its position, and the vector stream resumes as ERET resumes it
(R324, R197, R343); of the ports of an invocation that runs on, the section holds what they have become (R344). The answer is whether the release is complete: it waits while a check needs a word that is not
translated. -/
def releaseCell (s : State) : Bool × State :=
  let s1 := thaw (if s.vec.cu.running && !s.vec.cu.stopped then frameUnitPorts s else s)
  if s1.vec.delivered then (true, s1)
  else
    let old := s1.vec.trap
    match resumeVector s1.vec.pc s1 with
    | .ok s2 =>
      (true, if s2.vec.trap.any (·.keep) ∨ old.isNone then s2
        else mapVec (fun v => { v with trap := old, heldFault := s1.vec.heldFault }) s2)
    | .wait s2 => (false, { s2 with cell := { s2.cell with frozen := s.cell.frozen }, dev := { s2.dev with cfrz := s.dev.cfrz } })
    | .trap _ _ _ s2 => (true, s2)

end Sys2Proof.Machine
end

