-- ==== Sys2Proof/Machine/Operands.lean ====
section
/-! DEFINITION. The operand forms of Reeve words: immediates, effective addresses, branch targets and the address form of
the sync-word instructions (spec/03_streams.md R50; spec/04_reeve.md R81, R82, R85, R95; spec/10_engines.md R235). The
operand forms of vector, matrix and micro-op words are in Access.lean, Lanes.lean and Matrix.lean. -/

namespace Sys2Proof.Machine

open Sys2Proof

/-- The sign-extended 13-bit immediate (R81). -/
abbrev simm13 (i : BitVec 13) : Word := i.signExtend 64

/-- The sign-extended 18-bit immediate (R82). -/
abbrev simm18 (i : BitVec 18) : Word := i.signExtend 64

/-- The effective address of a load or a store (R85). -/
def effAddr (a : Word) (off : BitVec 13) : Word := a + simm13 off

/-- A branch target `off` words from the branch word (R47, R95). -/
def branchTo {n : Nat} (pc : BitVec 48) (off : BitVec n) : BitVec 48 := pc + 4 * off.signExtend 48

/-- Whether an address is aligned to a size. -/
def aligned (ea : Word) (size : Nat) : Bool := decide (ea.toNat % size = 0)

/-- The location of a sync word named in the form of R235: a violation, a misaligned address, or the location. -/
inductive SyncAt where
  | access
  | misaligned
  | ok (loc : Nat)
  deriving DecidableEq, Repr

/-- The sync word that an operand names (R235, R205). -/
def syncAt (k : Acc) (a : Word) (s : State) : SyncAt :=
  let v := a.toNat
  let off := nb v 0 23
  if nb v 23 1 ≠ 0 ∨ nb v 27 37 ≠ 0 ∨ (!tb v 26 ∧ nb v 24 2 ≠ 0) then .access
  else
    let place : Option (Nat × Bool) := if tb v 26 then (mateOf s (nb v 24 2)).map (fun p => (p, true)) else some (ownPos, false)
    match place with
    | none => .access
    | some (p, win) =>
      if off % 16 ≠ 0 then .misaligned
      else if spaOk s p off k win then .ok (locSpad p off) else .access

end Sys2Proof.Machine
end

