-- ==== Sys2Proof/Machine/Streams.lean ====
section
/-! DEFINITION. The global request that holds a Reeve word (spec/04_reeve.md R86, R87, R94; spec/20_prog_message.md R367). -/

namespace Sys2Proof.Machine

open Sys2Proof

/-- Whether a packet is neither acknowledged nor failed; a CANCEL stands for one that has failed (R353). -/
def awaited (s : State) (id : PktId) : Bool := s.dev.kept.any (fun p => decide (p.id = id) && decide (p.kind ≠ 7))

/-- Whether every request packet of a queue is acknowledged or has failed (R94, R352). -/
def packetsDone (s : State) (q : Nat) : Bool := !s.dev.kept.any (fun p => decide (p.id.q = q) && decide (p.kind ≠ 7))

/-- A request of the held word has been sent: from its first request on it is held as the word it is and reads the g registers as they stand now (R367). -/
def noteRequest (g : GReq) (s : State) : State :=
  mapClus s.cur (fun c => { c with greq := c.greq ++ [g], gHeld := c.gHeld.or (some (gView s, s.word)) }) s

/-- A Reeve word in global form: it sends one packet, holds until its response, and then goes on with the response; `deny` is what
a fault response with its bytes brings (R86, R87, R281, R367). -/
def globalOr (deny : List Byte → State → State) (kind size dev va : Nat) (data : List Byte) (k : Resp → State → State) (s : State) :
    State :=
  match (clus s s.cur).greq.find? (fun g =>
      decide (g.id.dev = dev) && decide (g.kind = kind) && decide (g.size = size) && decide (g.va = va)) with
  | none =>
    (match sendPacket s.cur.val dev kind size (clus s s.cur).sup va data 0 s with
     | none => holdWith .waiting .none s
     | some (id, s1) =>
       holdWith .waiting .none (noteRequest { id, kind, size, va, answer := none } s1))
  | some g =>
    match g.answer with
    | none => holdWith .waiting .none s
    | some r => if r.ok then k r s else deny r.bs s

/-- A Reeve word in global form: a fault response raises ACCESS, or WCATOMIC where the destination answers that an atomic met a
write-combining page (R87, R92, log 82). -/
def globalRequest (kind size dev va : Nat) (data : List Byte) (ea : Word) (k : Resp → State → State) (s : State) : State :=
  globalOr (fun bs => trapHere (if bs = [BitVec.ofNat 8 cWcAtomic] then cWcAtomic else cAccess) ea) kind size dev va data k s

end Sys2Proof.Machine
end

