-- ==== Sys2Proof/Machine/Guard.lean ====
section
/-! DEFINITION. Writes held by a capture, the context's capture range, what an engine has read of other engines' stores, and
the conditions of the fences (spec/04_reeve.md R92 to R94; spec/15_ordering.md R296 to R306; spec/24_surviving.md R401, R404).
-/

namespace Sys2Proof.Machine

open Sys2Proof

/-! ### Capture (R401, R404) -/

/-- The number of pages of a context's range, and its base (R401). -/
def capRange (s : State) (ctx : Nat) : Nat × Nat :=
  let r := ctxRecord s ctx
  (leAt r 96 4 * 65536, leAt r 100 4)

/-- The address of the leaf entry of a virtual address, with the leaf (R283). -/
def leafFrom (s : State) (va : Nat) : Nat → Nat → Nat → Option (Nat × Bool × BitVec 64)
  | 0, _, _ => none
  | fuel + 1, level, table =>
    let idx := if level = 0 then nb va 39 9 else if level = 1 then nb va 30 9 else if level = 2 then nb va 21 9 else nb va 16 5
    let e := BitVec.ofNat 64 (homeNat s (table + 8 * idx) 8)
    if !tb e.toNat 0 then none
    else if level = 3 then (if leafBad e 3 then none else some (table + 8 * idx, false, e))
    else if level = 2 ∧ tb e.toNat 14 then (if leafBad e 2 then none else some (table + 8 * idx, true, e))
    else if ptrBad e (if level = 2 then 256 else 4096) then none
    else leafFrom s va fuel (level + 1) (nb e.toNat 8 48 * 256)

/-- The leaf of page `p` of a context's range. -/
def rangeLeaf (s : State) (ctx p : Nat) : Option (Nat × Bool × BitVec 64) :=
  leafFrom s ((capRange s ctx).1 + 65536 * p) 4 0 (ctxRoot s ctx)

/-- Whether a leaf is still to be captured in the running generation (R402, R404). -/
def uncaptured (c : Cap) (leaf : BitVec 64) : Bool := tb leaf.toNat 12 && decide (tb leaf.toNat 11 ≠ c.gen.getLsbD 0)

/-- The pages of a context's range that hold a location and are still to be captured in the running generation; one whose capture has
failed is not (R404). -/
def duePages (s : State) (c : Ctx) (l : Nat) : List Nat :=
  if !isDram l || !c.cap.act then []
  else
    (upTo c.cap.pages).filter (fun p =>
      match rangeLeaf s c.id p with
      | some (_, _, e) =>
        let lo := leafLoc e ((capRange s c.id).1 + 65536 * p)
        decide (lo ≤ l) && decide (l < lo + 65536) && uncaptured c.cap e && (!c.cap.bad.contains p || c.cap.busy.contains p)
      | none => false)

/-- Whether a write to a location waits for the capture of its page (R404): a capture of the page is under way, or its first
event is this write; a page whose capture has failed holds no write. -/
def captureHolds (s : State) (l : Nat) : Bool := s.dev.ctxs.any (fun c => !(duePages s c l).isEmpty)

/-- A write that is held, or a read by a job or a weight fetch, at these locations claims the pages that are still to be captured: their
captures may begin (R404). -/
def claimPages (ls : List Nat) (s : State) : State :=
  if s.dev.ctxs.any (fun c => c.cap.act) then
    mapDev (fun d => { d with ctxs := d.ctxs.map (fun c =>
      { c with cap := { c.cap with asked := ls.foldl (fun a l => (duePages s c l).foldl addSet a) c.cap.asked } }) }) s
  else s

/-! ### What an engine has read (R300) -/

/-- Queue `q` has read `n` bytes at a location: stores of other queues that hold a byte of them count as its own earlier
stores from now on. -/
def markSeen (q l n : Nat) (s : State) : State :=
  if s.cell.cellStores.isEmpty then s
  else
    mapCell (fun k => { k with cellStores := k.cellStores.map (fun e =>
      if e.q ≠ q ∧ !e.seen.contains q ∧ e.cells.any (fun c => decide (l ≤ c.1) && decide (c.1 < l + n)) then
        { e with seen := e.seen ++ [q] }
      else e) }) s

/-- An acquire of queue `q`: every store visible at cell scope counts as its own earlier store (R300, R303). -/
def acquire (q : Nat) (s : State) : State :=
  if s.cell.cellStores.isEmpty then s
  else
    mapCell (fun k => { k with cellStores := k.cellStores.map (fun e =>
      if e.q ≠ q ∧ !e.seen.contains q then { e with seen := e.seen ++ [q] } else e) }) s

/-- A store that queue `q` must count as its own. -/
def counts (q : Nat) (e : StoreEnt) : Bool := decide (e.q = q) || e.seen.contains q

/-! ### Conditions (R93, R94) -/

/-- Whether a location is in host memory. -/
def isHost (l : Nat) : Bool := decide (2 ^ 62 ≤ l)

/-- Whether a store goes to host memory. -/
def hostStore (e : StoreEnt) : Bool := e.cells.any (fun c => isHost c.1)

/-- Whether every local load of a cluster has been performed. -/
def loadsDone (k : Cluster) : Bool := k.loads.all (fun e => isHost e.loc)

/-- Whether every local store of a queue is visible at cell scope. -/
def storesOut (q : List StoreEnt) : Bool := q.all hostStore

/-- Whether every store that a queue must count, of its own and of what it has read, is visible at a scope: 0 cell, 1 quad,
2 die, 3 device, 4 system, 5 memory-side. -/
def visibleAt (scope q : Nat) (s : State) : Bool :=
  if scope = 0 then true
  else
    s.cell.cellStores.all (fun e =>
      !counts q e || (decide (scope ≤ 2) && decide (scope ≤ e.vis) && e.cells.all (fun c => !isSpad c.1)))

/-- Whether a fence of a cluster is met at a scope (R94). -/
def fenceMet (scope : Nat) (c : Fin 4) (s : State) : Bool :=
  let k := clus s c
  loadsDone k && storesOut k.stores && visibleAt scope c.val s &&
    (decide (scope ≠ 4) || (packetsDone s c.val && queuesEmpty k))

/-- A memory-side fence of a queue: what it reads from now on shows every change whose completion the cell has observed (R305). -/
def passMsFence (q : Nat) (s : State) : State :=
  if s.dev.msLanes.isEmpty then s
  else
    mapDev (fun d => { d with msLanes := d.msLanes.map (fun e =>
      if e.seenAt.isSome ∧ !e.fenced.contains q then { e with fenced := e.fenced ++ [q] } else e) }) s

/-- What a cluster's word does to the queue beyond waiting: a fence stands as a barrier, and at memory-side scope what follows sees
the observed changes (R94, R301, R305). -/
def passFence (scope : Nat) (s : State) : State :=
  let s1 := barrier s
  if scope = 5 then passMsFence s.cur.val s1 else s1

/-- Whether every earlier store of a cluster to a page of type device has been performed: the device accesses of one engine are
performed in program order (R301). -/
def deviceClear (s : State) : Bool :=
  (clus s s.cur).stores.all (fun e => !e.dev) && s.cell.cellStores.all (fun e => decide (e.q ≠ s.cur.val) || !e.dev)

/-- A store of a queue to its own bytes overlaps bytes that another store still holds short of their home. -/
def overlapsPending (s : State) (l n : Nat) : Bool :=
  s.cell.cellStores.any (fun e => e.cells.any (fun c => decide (l ≤ c.1) && decide (c.1 < l + n)))

/-! ### Implicit reads of a word (R89, R299) -/

/-- Sets the realignment that a strongly ordered access, an AMO or a CAS asks for after itself (R92, R301). -/
def alignAfter (b : Bool) (s : State) : State :=
  mapClus s.cur (fun k => { k with realign := b, bar := k.bar + b2n b }) s

/-- The pieces of a block (location, length, memory type) are read as their pages order it, and the word goes on; `r` is the register
that holds the address (R89, R300, R301). -/
def readPieces (r : BitVec 5) (pois : Bool) (ps : List (Nat × Nat × Nat)) (k : State → State) (s : State) : State :=
  let strong := ps.any (fun p => decide (p.2.2 = 3))
  if (ps.any (fun p => decide (2 ≤ p.2.2)) && !deviceClear s) || (strong && !queuesEmpty (clus s s.cur)) then holdWith .waiting .fence s
  else
    let s1 := ps.foldl (fun x p => markSeen s.cur.val p.1 p.2.1 x) s
    if pois then trapPoison r s1 else if strong then alignAfter true (k s1) else k s1

/-- A word reads a block of `n` bytes at an effective address as a load of the cluster's load queue, and goes on with the
bytes; `r` is the register that holds the address, `deny` is what a block that cannot be read by a local form brings; a fault
response raises ACCESS. A poisoned block raises POISON. -/
def withBlockOr (deny : State → State) (r : BitVec 5) (ea : Word) (n : Nat) (k : List Byte → State → State) (s : State) :
    State :=
  if !(clus s s.cur).loads.isEmpty then holdWith .waiting .scoreboard s
  else
    match spaceOf ea with
    | .glob dev va =>
      globalOr (fun _ => trapHere cAccess ea) 0 n dev va [] (fun x s => if x.pois.isEmpty then k x.bs s else trapPoison r s) s
    | _ =>
      match readBlock s.cur.val (clus s s.cur).sup ea n s with
      | .ok bs p ps => readPieces r p ps (k bs) s
      | .wait s' => holdMiss s.cur.val s'
      | .deny _ s' => deny s'

/-- A word reads a block; one that cannot be read raises ACCESS (R89). -/
def withBlock (r : BitVec 5) (ea : Word) (n : Nat) (k : List Byte → State → State) (s : State) : State :=
  withBlockOr (trapHere cAccess ea) r ea n k s

end Sys2Proof.Machine
end

