-- ==== Sys2Proof/Machine/Board.lean ====
section
/-! DEFINITION. Pulses of the sluice board, sync-word arrivals, markers, rendezvous registers and rings: the operations that
several engines share (spec/09_scratchpad.md R206 to R212; spec/10_engines.md R221 to R234). -/

namespace Sys2Proof.Machine

open Sys2Proof

/-! ### Pulses (R227, R228) -/

/-- An event of a kind pulses its sources; the pulse is on its way to the counters. -/
def pulse (kind p : Nat) (s : State) : State := mapSluice (fun b => { b with pulses := b.pulses ++ [(kind, p)] }) s

/-- Whether a source selector names an event. -/
def srcMatches (src : BitVec 32) (kind p : Nat) : Bool :=
  let v := src.toNat
  decide (nb v 0 5 = kind) &&
    (if kind = 2 ∨ kind = 3 then true
     else if kind = 4 ∨ kind = 5 then decide (nb v 8 8 = p)
     else if kind = 8 ∨ kind = 9 then decide (nb v 8 4 = p)
     else decide (nb v 8 3 = p))

/-- A pulse reaches the enabled counters whose source names its event; a count saturates (R229). -/
def countPulse (kind p : Nat) (b : Sluice) : Sluice :=
  { b with counts := vtab 16 (fun k =>
      let c := vget b.cnt k 0
      let n := vget b.counts k 0
      if c.getLsbD 7 && srcMatches (vget b.src (nb c.toNat 0 5) 0) kind p then
        (if n = BitVec.allOnes 32 then n else n + 1)
      else n) }

/-- The level of a counter (R229). -/
def counterLevel (b : Sluice) (k : Nat) : Bool :=
  let c := vget b.cnt k 0
  c.getLsbD 7 && !b.spent.getLsbD k && decide (nb c.toNat 16 16 ≤ (vget b.counts k 0).toNat)

/-- The non-zero masks of a term whose counters are all at level 1, as one set of counters (R230). -/
def termCounters (b : Sluice) (t : Nat) : Option (BitVec 16) :=
  let term := vget b.terms t { masks := Vector.replicate 4 0, out := 0 }
  let ok (m : BitVec 16) : Bool := decide (m ≠ 0) && (upTo 16).all (fun k => !m.getLsbD k || counterLevel b k)
  let sat := term.masks.toList.filter ok
  if sat.isEmpty then none else some (sat.foldl (· ||| ·) 0)

/-- A set of counters is consumed once (R230). -/
def consumeCounters (m : BitVec 16) (b : Sluice) : Sluice :=
  let auto (k : Nat) : Bool := (vget b.cnt k 0).getLsbD 6
  { b with
    counts := vtab 16 (fun k =>
      let n := vget b.counts k 0
      if m.getLsbD k && auto k then n - BitVec.ofNat 32 (nb (vget b.cnt k 0).toNat 16 16) else n),
    spent := b.spent ||| BitVec.ofNat 16 (boolsNat ((upTo 16).map (fun k => m.getLsbD k && !auto k))) }

/-! ### Sync words (R233, R234) -/

/-- A sync word after an arrival of n bytes, and the number of generations that it advanced (R234). -/
def SyncWord.arrive (w : SyncWord) (n : Nat) : SyncWord × Nat :=
  let c := w.arr + n
  if w.tgt = 0 then
    (if 0xFFFFFFFF < c then { w with arr := 0xFFFFFFFF, ovf := true } else { w with arr := c }, 0)
  else ({ w with gen := (w.gen + c / w.tgt) % 2 ^ 32, arr := c % w.tgt }, c / w.tgt)

/-- Pulses of the watched words that a location is, one for each generation (R228). -/
def watchPulses (loc n : Nat) (s : State) : State :=
  (upTo 8).foldl (fun x w =>
    let v := (vget s.cell.sluice.watch w 0).toNat
    if tb v 63 ∧ loc = locSpad ownPos (nb v 0 23) then
      mapSluice (fun b => { b with pulses := b.pulses ++ List.replicate n (6, w) }) x
    else x) s

/-- A sync word after an SWINIT (R235). -/
def SyncWord.init (w : SyncWord) (tgt : Nat) (z : Bool) : SyncWord :=
  { arr := 0, tgt, ovf := false, flt := false, abs := false, gen := if z then 0 else w.gen }

/-- An SWINIT of this cycle finds another generation: its result, still on its way, is that one. -/
def reInit (i : SwInit) (gen : Nat) (s : State) : State :=
  mapClus i.c (fun k => { k with pend := k.pend.map (fun p =>
    if p.reg = i.dest ∧ p.left = 2 then { p with val := BitVec.ofNat 64 gen } else p) }) s

/-- An arrival of n bytes at a sync word, with the word after it: one indivisible update. The SWINITs of its cycle take effect after it
(R234). -/
def syncAdd (loc n : Nat) (s : State) : SyncWord × State :=
  match s.cell.swNow.filter (fun i => decide (i.loc = loc)) with
  | [] =>
    let r := (syncRead s loc).arrive n
    let s1 := watchPulses loc r.2 (syncWrite loc r.1 s)
    (syncRead s1 loc, s1)
  | i :: r =>
    let x := (SyncWord.of i.old.1 i.old.2).arrive n
    let fin := (i :: r).foldl (fun (p : SyncWord × State) o => (p.1.init o.tgt o.z, reInit o p.1.gen p.2)) (x.1, s)
    let words := (x.1.arr * 2 ^ 32 + x.1.tgt, x.1.flags * 2 ^ 32 + x.1.gen)
    (x.1, watchPulses loc x.2 (syncWrite loc fin.1 (mapCell (fun k =>
      { k with swNow := k.swNow.map (fun o => if o.loc = loc then { o with old := words } else o) }) fin.2)))

/-- An arrival of n bytes at a sync word (R234). -/
def syncArrive (loc n : Nat) (s : State) : State := (syncAdd loc n s).2

/-- Whether a wait for generation b ends (R235). -/
def syncMet (w : SyncWord) (b : Nat) : Bool :=
  decide ((w.gen + 2 ^ 32 - b % 2 ^ 32) % 2 ^ 32 < 2 ^ 31) || w.abs || w.flt

/-! ### Markers (R221 to R223) -/

/-- The retired bits of an engine: 0 copy, 1 collective, 2 Menders, 3 vector, 4 matrix. -/
def retiredBit (s : State) (e : Nat) (m : BitVec 8) : Bool := (vget s.cell.retired e 0).getLsbD m.toNat

/-- Sets or clears a retired bit. -/
def setRetired (e : Nat) (m : BitVec 8) (b : Bool) (s : State) : State :=
  let mask : BitVec 256 := 1 <<< m.toNat
  mapCell (fun k =>
    let v := vget k.retired e 0
    { k with retired := vset k.retired e (if b then v ||| mask else v &&& ~~~ mask) }) s

/-! ### Rendezvous (R224, R225) -/

/-- Whether a rendezvous register fires. -/
def rdvReady (s : State) (r : Rdv) : Bool :=
  r.armed && (upTo 5).all (fun e => !r.mask.getLsbD e || retiredBit s e r.m)

/-! ### Observing memory-side completions (R305) -/

/-- A rendezvous register fires on Menders marker m: it names the completed commands that the marker follows. -/
def noteFired (i : Nat) (r : Rdv) (s : State) : State :=
  if r.mask.getLsbD 2 then
    mapDev (fun d => { d with msLanes := d.msLanes.map (fun e =>
      if e.done ∧ e.marks.contains r.m ∧ !e.rvs.contains i then { e with rvs := e.rvs ++ [i] } else e) }) s
  else s

/-- A rendezvous register is armed again: what it fired on before is no observation any more. -/
def noteArmed (i : Nat) (s : State) : State :=
  mapDev (fun d => { d with msLanes := d.msLanes.map (fun e => { e with rvs := e.rvs.filter (· ≠ i) }) }) s

/-- Menders marker m is placed behind every command that has completed. -/
def noteMark (m : BitVec 8) (s : State) : State :=
  mapDev (fun d => { d with msLanes := d.msLanes.map (fun e =>
    if e.done ∧ !e.marks.contains m then { e with marks := e.marks ++ [m] } else e) }) s

/-- The cell observes the completions that a test accepts: one observation, with a number of its own. -/
def observe (p : MsLane → Bool) (s : State) : State :=
  let now (e : MsLane) : Bool := e.done && e.seenAt.isNone && p e
  if s.dev.msLanes.any now then
    mapDev (fun d => { d with
      msCtr := d.msCtr + 1, msLanes := d.msLanes.map (fun e => if now e then { e with seenAt := some (d.msCtr + 1) } else e) }) s
  else s

/-- A wait for generation b of a sync word has ended. -/
def observeSync (loc b : Nat) (s : State) : State :=
  let past (x g : Nat) : Bool := decide ((x % 2 ^ 32 + 2 ^ 32 - g) % 2 ^ 32 < 2 ^ 31)
  observe (fun e => match e.sync with
    | some (l, g) => decide (l = loc) && past b g && past (syncRead s loc).gen g
    | none => false) s

/-- A wait on a rendezvous register has ended. -/
def observeRdv (i : Nat) (s : State) : State := observe (fun e => e.rvs.contains i) s

/-- Every armed register whose engines have all retired its marker fires and pulses its source (R225). -/
def fireRdvs (s : State) : State :=
  (upTo 8).foldl (fun x i =>
    let r := vget x.cell.rv i Rdv.zero
    if rdvReady x r then
      pulse 7 i (noteFired i r (mapCell (fun k => { k with rv := vset k.rv i { r with armed := false, fired := true } }) x))
    else x) s

/-- A marker of an engine retires, unless a later marker of the same number is still queued (R223). One of a stream has none queued, and
no MARK of the same cycle takes its bit back: the clearings of a cycle come before its retirements. -/
def retireMarker (e : Nat) (m : BitVec 8) (s : State) : State :=
  if s.cell.qmarks.any (fun q => decide (q.eng = e) && decide (q.m = m)) then s
  else
    let t := setRetired e m true s
    if e < 3 then t else { t with now := { t.now with marks := (e, m.toNat) :: t.now.marks } }

/-- Retires the queued markers of an engine that have no command ahead, in order. -/
def retireReadyMarks (e : Nat) : Nat → State → State
  | 0, s => s
  | n + 1, s =>
    match s.cell.qmarks.find? (fun q => decide (q.eng = e) && q.ahead.isEmpty) with
    | none => s
    | some q =>
      retireReadyMarks e n (retireMarker e q.m (mapCell (fun k => { k with qmarks := k.qmarks.erase q }) s))

/-- A command of an engine has completed: the markers behind it have one command less ahead (R223). -/
def commandDone (e adm : Nat) (s : State) : State :=
  let s1 := mapCell (fun k => { k with qmarks := k.qmarks.map (fun q =>
    if q.eng = e then { q with ahead := q.ahead.filter (· ≠ adm) } else q) }) s
  retireReadyMarks e s1.cell.qmarks.length s1

/-- MARK: clears the named retired bits, but for those of a stream's marker that has retired in this cycle (R223), and queues the marker behind the commands of each queued engine (R222). -/
def placeMark (mask : BitVec 5) (m : BitVec 8) (s : State) : State :=
  let s1 := (upTo 5).foldl (fun x e => if mask.getLsbD e && !x.now.marks.contains (e, m.toNat) then setRetired e m false x else x) s
  let ahead (e : Nat) : List Nat :=
    if e = 0 then s.cell.jobs.map (·.adm) else if e = 1 then s.cell.colls.map (·.adm) else s.cell.mends.map (·.adm)
  (upTo 3).foldl (fun x e =>
    if mask.getLsbD e then
      retireReadyMarks e 1 (mapCell (fun k => { k with qmarks := k.qmarks ++ [{ eng := e, m, ahead := ahead e }] }) x)
    else x) (if mask.getLsbD 2 then noteMark m s1 else s1)

/-! ### Rings (R209 to R212) -/

/-- Pulses of the two edges of a ring's count (R212). -/
def ringEdges (m old new cap : Nat) (s : State) : State :=
  let s1 := if old = 0 ∧ 0 < new then pulse 8 m s else s
  if old = cap ∧ new < cap then pulse 9 m s1 else s1

/-- Moves the tail of a ring on by k tiles. -/
def ringProduce (m k : Nat) (s : State) : State :=
  let r := vget s.cell.rings m Ring.zero
  ringEdges m r.count (r.count + k) r.cap
    (mapCell (fun c => { c with rings := vset c.rings m { r with tail := (r.tail + k) % r.cap, count := r.count + k } }) s)

/-- Moves the head of a ring on by k tiles. -/
def ringConsume (m k : Nat) (s : State) : State :=
  let r := vget s.cell.rings m Ring.zero
  ringEdges m r.count (r.count - k) r.cap
    (mapCell (fun c => { c with rings := vset c.rings m { r with head := (r.head + k) % r.cap, count := r.count - k } }) s)

/-! ### Tag table (R206, R207) -/

/-- The set of a key (R206). -/
def tagSet (key : Word) : Nat := (upTo 10).foldl (fun a i => a ^^^ nb key.toNat (7 * i) 7) 0

/-- The key that a slot holds with V = 1; the table lists valid slots only, keys plus a valid mark. -/
def tagKey (s : State) (slot : Nat) : Option Word := (s.cell.tags.find? (fun p => decide (p.1 = slot))).map (·.2)

/-- Recency order of a set, least recent first. -/
def tagOrder (s : State) (set : Nat) : List Nat := ((s.cell.order.find? (fun p => decide (p.1 = set))).map (·.2)).getD (upTo 8)

/-- The slot of a set that holds a key. -/
def tagHit (s : State) (key : Word) : Option Nat :=
  ((upTo 8).map (fun w => tagSet key * 8 + w)).find? (fun x => tagKey s x == some key)

/-- The victim that TLOOK names (R207). -/
def tagVictim (s : State) (key : Word) : Nat :=
  let set := tagSet key
  match (upTo 8).find? (fun w => (tagKey s (set * 8 + w)).isNone) with
  | some w => set * 8 + w
  | none => set * 8 + ((tagOrder s set)[0]?).getD 0

/-- Makes a slot the most recent of its set. -/
def tagTouch (slot : Nat) (s : State) : State :=
  let set := slot / 8
  let o := (tagOrder s set).filter (· ≠ slot % 8) ++ [slot % 8]
  mapCell (fun k => { k with order := if o = upTo 8 then sdel k.order set else sput k.order set o }) s

/-- Clears the V of a slot. -/
def tagClear (slot : Nat) (s : State) : State := mapCell (fun k => { k with tags := sdel k.tags slot }) s

/-- Installs a key in a slot: no other way of the set keeps it, and the slot becomes the most recent (R207). -/
def tagInstall (slot : Nat) (key : Word) (s : State) : State :=
  let s1 := ((upTo 8).map (fun w => slot / 8 * 8 + w)).foldl
    (fun x w => if w ≠ slot ∧ tagKey x w = some key then tagClear w x else x) s
  tagTouch slot (mapCell (fun k => { k with tags := sput k.tags slot key }) s1)

/-! ### The end of a cycle -/

/-- Cycles of the cell's clock pass: the rendezvous registers are evaluated after the clearings and the retirements of the cycle that
ends (R225), results land, and what belongs to one cycle ends with it. The clock, and CYCLE with it, stands while the quad is gated; it
counts from the start of a wake on, though the quad takes 1,120 cycles to wake: the spec says only that CYCLE stops while the quad is
power-gated (DESIGN CHOICE, log 126) (R22, R51, R78, R234). -/
def passCycles (n : Nat) (s0 : State) : State :=
  if n = 0 then s0
  else
    let s := fireRdvs s0
    if s.cell.gated then { s with now := Now.none }
    else
      mapCell (fun k => { k with cycle := k.cycle + BitVec.ofNat 64 n, swNow := [] })
        { ageResults n s with startedNow := [], ran := [], now := Now.none }

end Sys2Proof.Machine
end

