-- ==== Sys2Proof/Machine/Jobs.lean ====
section
/-! DEFINITION. Jobs of the task scheduler and the copy engine: the card and its admission, footprints and edges, elements,
chunks, completion (spec/10_engines.md R237 to R242; spec/19_fabric.md R350). -/

namespace Sys2Proof.Machine

open Sys2Proof

/-! ### The card (R238) -/

/-- Kind of a job: 0 COPY, 1 FILL, 2 SPOOL, 3 GATHER. -/
def cardKind (c : List Byte) : Nat := byteAt c 0

/-- A flag of byte 2: 0 HOLD, 1 MSACQ, 2 SWV, 3 RADV, 4 EXT, 5 CONV, 6 MKV. -/
def cardFlag (c : List Byte) (i : Nat) : Bool := tb (byteAt c 2) i

/-- Element size in bytes. -/
def cardSize (c : List Byte) : Nat := 2 ^ nb (byteAt c 6) 4 2

/-- Source and destination space. -/
def cardSpace (c : List Byte) (dst : Bool) : Nat := if dst then nb (byteAt c 6) 2 2 else nb (byteAt c 6) 0 2

/-- Whether elements are converted; only COPY and GATHER have a source to convert. -/
def cardConv (c : List Byte) : Bool := cardFlag c 5 && (decide (cardKind c = 0) || decide (cardKind c = 3))

/-- Dimensions, innermost first: extent, source stride, destination stride. -/
def cardDims (c ext : List Byte) : List (Nat × Int × Int) :=
  (upTo (byteAt c 1 + 1)).map (fun k =>
    if cardFlag c 4 then (leAt ext (4 * k) 4, sx (leAt ext (64 + 6 * k) 6) 48, sx (leAt ext (160 + 6 * k) 6) 48)
    else (leAt c (64 + 16 * k) 4, sx (leAt c (68 + 16 * k) 6) 48, sx (leAt c (74 + 16 * k) 6) 48))

/-- Whether a card sets a reserved bit (R237 code 1). -/
def cardReserved (c : List Byte) : Bool :=
  tb (byteAt c 2) 7 || decide (15 < byteAt c 1) || decide (nb (byteAt c 3) 3 5 ≠ 0) || tb (byteAt c 4) 7 || tb (byteAt c 4) 3 ||
    decide (nb (byteAt c 5) 4 4 ≠ 0) || decide (nb (byteAt c 6) 6 2 ≠ 0) ||
    (decide (cardKind c = 2) && (decide (nb (byteAt c 32) 6 2 ≠ 0) || !zeroAt c 36 4)) ||
    (decide (cardKind c < 2) && !zeroAt c 40 8) || (decide (cardKind c = 3) && decide (4 ≤ leAt c 40 8)) ||
    decide (nb (leAt c 48 2) 10 6 ≠ 0) || !zeroAt c 53 3 || (!cardFlag c 4 && !zeroAt c 56 8) ||
    (cardFlag c 4 && !zeroAt c 64 64) || !zeroAt c 200 56

/-- Whether a card holds an invalid kind or code (R237 code 2). -/
def cardInvalid (c : List Byte) : Bool :=
  let mode := nb (byteAt c 32) 3 2
  let flt := tb (byteAt c 32) 5
  decide (3 < cardKind c) || decide (4 < nb (byteAt c 3) 0 3) ||
    (cardFlag c 5 && (decide (cardSize c ≠ 1) || decide (2 < nb (byteAt c 48) 0 4) || decide (2 < nb (byteAt c 48) 4 4) ||
      decide (nb (byteAt c 49) 0 2 = 3))) ||
    (decide (cardKind c = 2) &&
      ((decide (mode = 1) && !flt) || ((decide (mode = 0) || flt) && decide (cardSize c ≠ 4))))

/-- Whether an extent is 0, or there are more than four dimensions without EXT (R237 code 3). -/
def cardExtents (c ext : List Byte) : Bool :=
  (!cardFlag c 4 && decide (3 < byteAt c 1)) || (cardDims c ext).any (fun d => decide (d.1 = 0))

/-- The code that a card breaks before its extension is read: 0 for none. -/
def cardCode (c : List Byte) : Nat :=
  if cardReserved c then 1 else if cardInvalid c then 2
  else if cardFlag c 4 then (if leAt c 56 8 % 64 ≠ 0 then 4 else 0)
  else if cardExtents c [] then 3 else 0

/-! ### Footprints and edges (R241) -/

/-- Footprint region i of a card: space, first address, length; 0 to 3 are read, 4 and 5 written. -/
def cardRegion (c : List Byte) (i : Nat) : Nat × Nat × Nat :=
  let b := leAt c (128 + 12 * i) 7
  (nb b 54 2, nb b 0 54, leAt c (135 + 12 * i) 5)

/-- The used regions of a kind. -/
def cardRegions (c : List Byte) (write : Bool) : List (Nat × Nat × Nat) :=
  ((if write then [4, 5] else [0, 1, 2, 3]).map (cardRegion c)).filter (fun r => decide (r.2.2 ≠ 0))

/-- Whether two regions overlap. -/
def regionsMeet (a b : Nat × Nat × Nat) : Bool :=
  decide (a.1 = b.1) && decide (a.2.1 < b.2.1 + b.2.2) && decide (b.2.1 < a.2.1 + a.2.2)

/-- Whether any region of one list overlaps one of another. -/
def anyMeet (a b : List (Nat × Nat × Nat)) : Bool := a.any (fun x => b.any (regionsMeet x))

/-- Whether a new card has an edge to an admitted one. -/
def cardEdge (new old : List Byte) : Bool :=
  anyMeet (cardRegions new false) (cardRegions old true) || anyMeet (cardRegions new true) (cardRegions old false) ||
    anyMeet (cardRegions new true) (cardRegions old true)

/-- Whether n bytes at an address lie within one region of a kind. -/
def inFootprint (c : List Byte) (write : Bool) (space : Nat) (a : Word) (n : Nat) : Bool :=
  let v := nb a.toNat 0 54
  (cardRegions c write).any (fun r => decide (r.1 = space) && decide (r.2.1 ≤ v) && decide (v + n ≤ r.2.1 + r.2.2))

/-! ### Admission (R237) -/

/-- The answer word of a command that is not admitted. -/
def notAdmitted (code : Nat) : Word := BitVec.ofNat 64 (2 ^ 63 + code)

/-- Takes a release token of a hold line, if the job holds and one is kept (R231). -/
def takeToken (hold : Bool) (line : Nat) (s : State) : Bool × State :=
  if !hold then (true, s)
  else
    let n := vget s.cell.sluice.tokens line 0
    if n = 0 then (false, s) else (true, mapSluice (fun b => { b with tokens := vset b.tokens line (n - 1) }) s)

/-- Admits a job. -/
def admitJob (card ext : List Byte) (s : State) : State :=
  let k := clus s s.cur
  let t := takeToken (cardFlag card 0) (nb (byteAt card 4) 4 3) s
  let j : Job :=
    { adm := s.cell.jobCtr, card, ext, sup := k.sup, obs := s.dev.msCtr, snap := snapOf s, seed := vget s.cell.ps (nb (byteAt card 32) 0 3) 0,
      ps7 := vget s.cell.ps 7 0, deps := (s.cell.jobs.filter (fun i => cardEdge card i.card)).map (·.adm), released := t.1,
      started := false, done := 0, asks := [], puts := [], acks := [], wait := 0, complete := false, stopping := false,
      cluster := s.cur, upto := k.seqCtr }
  mapCell (fun c => { c with jobs := c.jobs ++ [j], jobCtr := c.jobCtr + 1 }) t.2

/-- JOB (R237). -/
def execJob (_y : Bool) (w : BitVec 2) (d a : BitVec 5) (s : State) : Host.Outcome State Fault Refusal :=
  .next (reeve [a] [d] (fun s =>
    let ea := rd s a
    let no (code : Nat) (s : State) : State := putResult 1 d (notAdmitted code) (advance w s)
    let yes (card ext : List Byte) (s : State) : State :=
      putResult 1 d (BitVec.ofNat 64 s.cell.jobCtr) (admitJob card ext (advance w s))
    if 64 ≤ s.cell.jobs.length then holdWith .waiting .none s
    else if !aligned ea 64 then no 4 s
    else
      withBlock a ea 256 (fun card s =>
        let code := cardCode card
        if code ≠ 0 then no code s
        else if !cardFlag card 4 then yes card [] s
        else
          withBlock a (BitVec.ofNat 64 (leAt card 56 8)) 256 (fun ext s =>
            if cardExtents card ext then no 3 s else yes card ext s) s) s) s)

/-! ### Elements (R239, R240) -/

/-- The effective address of a job's access in the form of its space (R238, R280). -/
def jobEa (space : Nat) (a : Word) : Word :=
  match space with
  | 0 => 0x8000000000000000#64 ||| (a &&& 0x0FFFFFFFFFFFFFFF#64)
  | 1 => a &&& 0x0FFFFFFFFFFFFFFF#64
  | 2 => 0x4000000000000000#64 ||| (a &&& 0x3FFFFFFFFFFFFFFF#64)
  | _ => 0xC000000000000000#64 ||| (a &&& 0x3FFFFFFFFFFFFFFF#64)

/-- Number of elements. -/
def jobElems (dims : List (Nat × Int × Int)) : Nat := dims.foldl (fun e d => e * d.1) 1

/-- Indices of element e, dimension 0 first. -/
def jobIdx : List (Nat × Int × Int) → Nat → List Nat
  | [], _ => []
  | d :: r, e => e % d.1 :: jobIdx r (e / d.1)

/-- Sum of indices times strides. -/
def strideSum : List Nat → List Int → Int
  | i :: r, s :: t => i * s + strideSum r t
  | _, _ => 0

/-- Row coordinate of SPOOL above dimension 0. -/
def spoolRho : List (Nat × Int × Int) → List Nat → Nat
  | d :: r, i :: t => i + d.1 * spoolRho r t
  | _, _ => 0

/-- What a job does at an element. -/
inductive JobRes (α : Type) where
  | ok (x : α) (s : State)
  /-- a translation or a response is awaited -/
  | wait (s : State)
  | fault (code : Nat) (a : Word) (s : State)

/-- The pieces of a local access of a job: the locations of its bytes, and the attributes of the page of the first. -/
def jobLocs (j : Job) (k : Acc) (a : Word) : List (Word × Nat) → List Nat → Option Attr → State → JobRes (List Nat × Option Attr)
  | [], ls, at_, s => .ok (ls, at_) s
  | (ea, n) :: r, ls, at_, s =>
    match xl (jobEngine j) j.sup k ea s with
    | .wait s' => .wait s'
    | .deny s' => .fault cAccess a s'
    | .ok l x => jobLocs j k a r (ls ++ (upTo n).map (l + ·)) (at_.or (some x)) s

/-- Whether a job's reads see a change of a memory-side command: with MSACQ, those whose completion the cell had observed when the
JOB issued (R242, R305). -/
def jobKnows (j : Job) (e : MsLane) : Bool := cardFlag j.card 1 && e.seenAt.any (· ≤ j.obs)

/-- Bytes that a job reads: with whether one is marked and, of a local access, the attributes of the page and the locations. -/
def jobRead (j : Job) (space : Nat) (a : Word) (n : Nat) (s : State) : JobRes (List Byte × Bool × Option Attr × List Nat) :=
  if !inFootprint j.card false space a n then .fault cAccess a s
  else
    let ea := jobEa space a
    match spaceOf ea with
    | .glob dev va =>
      let cur := (s.cell.jobs.find? (fun x => decide (x.adm = j.adm))).getD j
      (match cur.asks.find? (fun x => decide (x.ea = ea)) with
       | some x =>
         (match x.answer with
          | none => .wait s
          | some r => if r.ok then .ok (r.bs, !r.pois.isEmpty, none, []) s else .fault cAccess a s)
       | none =>
         match sendPacket 6 dev 0 n j.sup va [] 0 s with
         | none => .wait s
         | some (id, s1) =>
           .wait (mapCell (fun c => { c with jobs := c.jobs.map (fun x =>
             if x.adm = j.adm then { x with asks := x.asks ++ [{ id, ea, answer := none }] } else x) }) s1))
    | _ =>
      match jobLocs j .read a (pagePieces ea n) [] none s with
      | .wait s' => .wait s'
      | .fault c b s' => .fault c b s'
      | .ok (ls, at_) s' =>
        let t := claimPages ls s'
        .ok (ls.map (cellByteOf 6 (jobKnows j) t), ls.any (fun l => inSet t.dev.poison l), at_, ls) t

/-- The page of a job's address and the locations of n bytes from it; none for another device. -/
def jobPage (j : Job) (k : Acc) (space : Nat) (a : Word) (n : Nat) (s : State) : JobRes (List Nat × Option Attr) :=
  let ea := jobEa space a
  match spaceOf ea with
  | .glob _ _ => .ok ([], none) s
  | _ => jobLocs j k a (pagePieces ea n) [] none s

/-- Bits of a container on a page, or of a code off one; on a formatted page whose descriptor is invalid, the descriptor number. No
check is made of the code there, which is not used (R4, R32, R109, R240). -/
def unitBits (s : State) (at_ : Option Attr) (code : Nat) : Nat ⊕ Nat :=
  match at_ with
  | some a =>
    if a.fmt then
      let d := descOf (vget s.cell.fd a.desc 0)
      if d.valid then .inl d.box else .inr a.desc
    else .inl (if code = 0 then 32 else 16)
  | none => .inl (if code = 0 then 32 else 16)

/-- The wide format of a code: 0 f32, 1 BF16, 2 h16 (R240). -/
def codeWide (code : Nat) : Wide := if code = 1 then wBf16 else if code = 2 then wH16 else wF32

/-- The address and the half of an element: consecutive containers in a run of 4-bit ones (R240). -/
def elemAddr (base : Word) (idx : List Nat) (strides : List Int) (run : Bool) : Word × Nat :=
  if run then
    let i0 := idx.headD 0
    (base + w64 (strideSum (0 :: idx.tail) strides + ((i0 / 2 : Nat) : Int)), i0 % 2)
  else (base + w64 (strideSum idx strides), 0)

/-- Bytes of an element of some bits. -/
def unitBytes (bits : Nat) : Nat := if bits < 8 then 1 else bits / 8

/-- Whether a job's own read and write regions overlap. -/
def selfOverlap (c : List Byte) : Bool := anyMeet (cardRegions c false) (cardRegions c true)

/-- A source element that earlier elements of the chunk have overwritten is the old or the new one, whole: free (R239). -/
def oldOrNew (newest : List Host.Cell) (ls : List Nat) (old : List Byte) (s : State) : List Byte × State :=
  let new := (ls.zip old).map (fun p => ((newest.find? (fun c => decide (c.1 = p.1))).map (·.2)).getD p.2)
  if new = old then (old, s)
  else (if Config.freeIndex s.freeCtr % 2 = 0 then old else new, { s with freeCtr := s.freeCtr + 1 })

/-- A chunk under way: the local bytes written so far, newest first, the marks of them, the global bytes, newest first, the bits
of the destination that it has filled, and whether it has read poison. -/
structure Chunk where
  cells : List Host.Cell
  marks : List (Nat × Bool)
  pois : Bool
  glob : List (Nat × Nat × Byte)
  bits : Nat
  blocked : Bool

/-- The source address of an element: GATHER takes its index list's entry in place of i1 (R239); with whether the entry carries
poison (R390). -/
def sourceIdx (j : Job) (idx : List Nat) (s : State) : JobRes (Int × List Nat × Bool) :=
  if cardKind j.card = 3 then
    let k := idx[1]?.getD 0
    match jobRead j (nb (byteAt j.card 40) 0 2) (BitVec.ofNat 64 (leAt j.card 32 8) + BitVec.ofNat 64 (4 * k)) 4 s with
    | .ok x s' => .ok (sx (leNat x.1) 32, lset idx 1 0, x.2.1) s'
    | .wait s' => .wait s'
    | .fault c a s' => .fault c a s'
  else .ok (0, idx, false) s

/-- The address and the half of an element and the page it starts in, with what its container is there: a run of 4-bit containers is
one whose first container lies on a page of them, and an element whose place in the run is on another page lies where its stride puts
it (R240, log 51). The answer is a FORMAT fault with the descriptor's number where the page admits no container. -/
def elemPlace (j : Job) (k : Acc) (dst : Bool) (shift : Word) (idx : List Nat) (strides : List Int) (s : State) :
    JobRes (Word × Nat × Nat) :=
  let c := j.card
  let base := BitVec.ofNat 64 (leAt c (if dst then 16 else 8) 8) + shift
  let code := if dst then nb (byteAt c 48) 4 4 else nb (byteAt c 48) 0 4
  let space := cardSpace c dst
  if !cardConv c then .ok ((elemAddr base idx strides false).1, 0, 8 * cardSize c) s
  else
    match jobPage j k space (elemAddr base (lset idx 0 0) strides false).1 1 s with
    | .wait s' => .wait s'
    | .fault x b s' => .fault x b s'
    | .ok (_, at0) s1 =>
      let place (run : Bool) (k2 : Nat → State → JobRes (Word × Nat × Nat)) (s : State) : JobRes (Word × Nat × Nat) :=
        let p := elemAddr base idx strides run
        match jobPage j k space p.1 1 s with
        | .wait s' => .wait s'
        | .fault x b s' => .fault x b s'
        | .ok (_, at_) s2 =>
          match unitBits s2 at_ code with
          | .inl n => if run && decide (n ≠ 4) then k2 n s2 else .ok (p.1, p.2, n) s2
          | .inr d => .fault cFormat (BitVec.ofNat 64 d) s2
      let strided (s : State) : JobRes (Word × Nat × Nat) := place false (fun _ s => .wait s) s
      if unitBits s1 at0 code = .inl 4 then place true (fun _ s => strided s) s1 else strided s1

/-- The value of a container on a page, or of a code off one. -/
def elemDec (s : State) (at_ : Option Attr) (code half : Nat) (bs : List Byte) : FV :=
  match at_ with
  | some pg =>
    if pg.fmt then
      let d := descOf (vget s.cell.fd pg.desc 0)
      d.dec (boxGet d (leNat bs % 256) half)
    else (codeWide code).dec (leNat bs)
  | none => (codeWide code).dec (leNat bs)

/-- The raw value of an element and whether it carries poison. -/
def elemValue (j : Job) (dims : List (Nat × Int × Int)) (idx : List Nat) (ch : Chunk) (s : State) : JobRes ((Nat ⊕ FV) × Bool) :=
  let c := j.card
  let size := cardSize c
  match cardKind c with
  | 1 => .ok (.inl (leAt c 32 8 % 2 ^ (8 * size)), false) s
  | 2 =>
    let rho := leAt c 40 4 + spoolRho dims.tail idx.tail
    let o := bobbin j.seed (BitVec.ofNat 24 (leAt c 33 3)) (BitVec.ofNat 32 rho) (BitVec.ofNat 32 (leAt c 44 4 + idx.headD 0))
    let mode := nb (byteAt c 32) 3 2
    let flt := tb (byteAt c 32) 5
    if mode = 0 then .ok (.inl (if flt then toF32 (FV.ofInt o.toNat) else o.toNat), false) s
    else if mode = 1 then .ok (.inl (toF32 (.fin false (o.toNat / 256) (-24))), false) s
    else
      let k := noiseOf (mode - 1) o
      .ok (.inl (if flt then toF32 (FV.ofInt k) else wrapW (8 * size) k), false) s
  | _ =>
    match sourceIdx j idx s with
    | .wait s' => .wait s'
    | .fault x a s' => .fault x a s'
    | .ok (g, idx1, gp) s1 =>
      let strides := dims.map (fun d => d.2.1)
      match elemPlace j .read false (w64 (g * strides[1]?.getD 0)) idx1 strides s1 with
      | .wait s' => .wait s'
      | .fault x b s' => .fault x b s'
      | .ok (a, half, bits) s2 =>
        match jobRead j (cardSpace c false) a (unitBytes bits) s2 with
        | .wait s' => .wait s'
        | .fault x b s' => .fault x b s'
        | .ok (bs0, pz, at_, ls) s3 =>
          let r := if selfOverlap c then oldOrNew ch.cells ls bs0 s3 else (bs0, s3)
          .ok (if cardConv c then .inr (elemDec r.2 at_ (nb (byteAt c 48) 0 4) half r.1) else .inl (leNat r.1), pz || gp) r.2

/-- The card's rounding for element e (R240). -/
def cardRnd (j : Job) (e : Nat) : Rnd :=
  match nb (byteAt j.card 49) 0 2 with
  | 1 => .rz
  | 2 => .sr (bobbin j.ps7 (BitVec.ofNat 24 (leAt j.card 50 3)) (BitVec.ofNat 32 e) (BitVec.ofNat 32 (e / 2 ^ 32))).toNat
  | _ => .rne

/-- The bytes of a value in its destination's container. -/
def elemEnc (j : Job) (e : Nat) (at_ : Option Attr) (a : Word) (half bits : Nat) (old : Byte) (v : Nat ⊕ FV) (s : State) : List Byte :=
  let code := nb (byteAt j.card 48) 4 4
  match v, at_ with
  | .inl x, _ => leBytes (unitBytes bits) x
  | .inr x, some pg =>
    if pg.fmt then
      let d := descOf (vget s.cell.fd pg.desc 0)
      [BitVec.ofNat 8 (boxPut d (if d.box = 4 then old.toNat else 0) half
        (d.enc (descRnd d j.ps7 (coordAddr (jobEa (cardSpace j.card true) a)) half) x))]
    else leBytes (unitBytes bits) ((codeWide code).enc (cardRnd j e) x)
  | .inr x, none => leBytes (unitBytes bits) ((codeWide code).enc (cardRnd j e) x)

/-- One element: its value goes to its destination. -/
def oneElem (j : Job) (dims : List (Nat × Int × Int)) (e : Nat) (ch : Chunk) (s : State) : JobRes Chunk :=
  let c := j.card
  let idx := jobIdx dims e
  let space := cardSpace c true
  match elemValue j dims idx ch s with
  | .wait s' => .ok { ch with blocked := true } s'
  | .fault x a s' => .fault x a s'
  | .ok (v, pz) s1 =>
    match elemPlace j .write true 0 idx (dims.map (fun d => d.2.2)) s1 with
    | .wait s' => .ok { ch with blocked := true } s'
    | .fault x b s' => .fault x b s'
    | .ok (a, half, bits) s2 =>
      let n := unitBytes bits
      if !inFootprint c true space a n then .fault cAccess a s2
      else
        match jobPage j .write space a n s2 with
        | .wait s' => .ok { ch with blocked := true } s'
        | .fault x b s' => .fault x b s'
        | .ok (ls, at_) s3 =>
          let l0 := ls.headD 0
          let old : Byte := ((ch.cells.find? (fun x => decide (x.1 = l0))).map (·.2)).getD (cellByte 6 s3 l0)
          let bs := elemEnc j e at_ a half bits old v s3
          let ch1 := { ch with bits := ch.bits + bits, pois := ch.pois || pz }
          match spaceOf (jobEa space a) with
          | .glob dev va => .ok { ch1 with glob := (bs.mapIdx (fun i b => (dev, va + i, b))).reverse ++ ch.glob } s3
          | _ => .ok { ch1 with cells := (ls.zip bs).reverse ++ ch.cells, marks := ls.map (fun l => (l, pz)) ++ ch.marks } s3

/-- Elements from number `e` on, until the chunk has 4,096 destination bytes or the job ends; with the number of the next one
(R242). -/
def elems (j : Job) (dims : List (Nat × Int × Int)) : Nat → Nat → Chunk → State → JobRes (Chunk × Nat)
  | 0, e, ch, s => .ok (ch, e) s
  | n + 1, e, ch, s =>
    if 32768 ≤ ch.bits ∨ jobElems dims ≤ e then .ok (ch, e) s
    else
      match oneElem j dims e ch s with
      | .ok ch1 s1 => if ch1.blocked then .ok (ch1, e) s1 else elems j dims n (e + 1) ch1 s1
      | .wait s' => .wait s'
      | .fault x a s' => .fault x a s'

/-- The packets of global bytes: runs of consecutive bytes within one 256-byte block (R350). -/
def putRuns : List (Nat × Nat × Byte) → List JobPut → List JobPut
  | [], acc => acc.reverse
  | (dev, va, b) :: r, acc =>
    match acc with
    | p :: q =>
      if p.dev = dev ∧ p.va + p.data.length = va ∧ va % 256 ≠ 0 then putRuns r ({ p with data := p.data ++ [b] } :: q)
      else putRuns r ({ dev, va, data := [b] } :: acc)
    | [] => putRuns r [{ dev, va, data := [b] }]

/-! ### Sync words of commands (R233, R234, R242) -/

/-- The location of a command's sync word in own scratchpad; none where it cannot be written. -/
def spadSync (a : Nat) (s : State) : Option Nat :=
  if a % 16 = 0 ∧ a < 0x800000 ∧ spaOk s ownPos a .write false then some (locSpad ownPos a) else none

/-- The location of a job's sync word, under the attribute entries of its issue (R202). -/
def jobSync (j : Job) (s : State) : Option Nat := spadSync (leAt j.card 24 8) (withSnap j.snap s)

/-! ### Running (R241, R242) -/

/-- A change of an admitted job. -/
def mapJob (adm : Nat) (f : Job → Job) (s : State) : State :=
  mapCell (fun c => { c with jobs := c.jobs.map (fun j => if j.adm = adm then f j else j) }) s

/-- The job of an admission number. -/
def jobOf (s : State) (adm : Nat) : Option Job := s.cell.jobs.find? (fun j => decide (j.adm = adm))

/-- A fault of a job: SW.FLT of its sync word, and a first fault of the cell with engine 6 (R242). -/
def jobFault (j : Job) (code : Nat) (a : Word) (s : State) : State :=
  let s1 :=
    if cardFlag j.card 2 then
      (match jobSync j s with
       | some loc => syncFlag loc true s
       | none => s)
    else s
  freezeCell code 6 a s1

/-- Writes that a chunk has made: they go to their homes with their marks. -/
def chunkWrite (ch : Chunk) (s : State) : State :=
  let s1 := taskWrite ch.cells.reverse s
  (ch.marks.reverse.filter (·.2)).foldl (fun x m => markBytes m.1 1 true x) s1

/-- Sends the global writes of a job, as far as streams allow. -/
def sendPuts (j : Job) : List JobPut → State → List JobPut × List PktId × State
  | [], s => ([], [], s)
  | p :: r, s =>
    match sendPacket 6 p.dev 6 p.data.length j.sup p.va p.data 0 s with
    | none => (p :: r, [], s)
    | some (id, s1) =>
      let x := sendPuts j r s1
      (x.1, id :: x.2.1, x.2.2)

/-- The end of a chunk: once its writes are visible, its bytes are added to the sync word; the last one completes the job, and a job
whose task has been killed ends here (R14, R242). -/
def chunkEnd (adm : Nat) (s : State) : State :=
  match jobOf s adm with
  | none => s
  | some j =>
    let p := sendPuts j j.puts s
    let acks := (j.acks ++ p.2.1).filter (awaited p.2.2)
    let s1 := mapJob adm (fun x => { x with puts := p.1, acks }) p.2.2
    if !p.1.isEmpty ∨ !acks.isEmpty then s1
    else
      let fin (s : State) : State :=
        if j.stopping then mapCell (fun c => { c with jobs := c.jobs.filter (fun x => decide (x.adm ≠ adm)) }) s
        else mapJob adm (fun x => { x with wait := 0, asks := [], complete := decide (jobElems (cardDims j.card j.ext) ≤ x.done) }) s
      if !cardFlag j.card 2 then fin s1
      else
        match jobSync j s1 with
        | some loc => fin (syncArrive loc j.wait s1)
        | none => if j.stopping then fin s1 else jobFault j cAccess (BitVec.ofNat 64 (leAt j.card 24 8)) s1

/-- Runs the next chunk of a job: 4,096 destination bytes, or what is left, under the entries and descriptors of its admission. -/
def runChunk (j : Job) (s : State) : State :=
  let dims := cardDims j.card j.ext
  match elems j dims 8192 j.done { cells := [], marks := [], pois := false, glob := [], bits := 0, blocked := false } (withSnap j.snap s) with
  | .wait t => sameSnap s t
  | .fault x a t => jobFault j x a (sameSnap s t)
  | .ok (ch, e) t =>
    let s2 := sameSnap s t
    if ch.blocked ∨ ch.cells.any (fun c => overlapsPending s2 c.1 1 || captureHolds s2 c.1) then claimPages (ch.cells.map (·.1)) s2
    else
      let s3 := mapJob j.adm (fun x =>
        { x with done := e, wait := (ch.bits + 7) / 8, puts := putRuns ch.glob.reverse [] }) (chunkWrite ch s2)
      let s4 := chunkEnd j.adm s3
      if ch.pois then
        (raiseError { cls := 6, src := 3, addr := BitVec.ofNat 64 (leAt j.card 8 8), info := 0, eng := 6, cell := some Config.cellNo,
                      ctx := s.cell.task.ctx } false s4).2
      else s4

/-- Whether the stores of the issuing cluster that came before a command have left its store queue. -/
def earlierOut (s : State) (c : Fin 4) (upto : Nat) : Bool := (clus s c).stores.all (fun e => decide (upto ≤ e.seq))

/-- JOB_START: an admitted job whose edges are met, and that is not held, starts (R241, R242). -/
def execJobStart (adm : Nat) (s : State) : Host.Outcome State Fault Refusal :=
  .next (match jobOf s adm with
    | none => s
    | some j =>
      if cellRuns s ∧ !stopAsked s ∧ j.released ∧ j.deps.isEmpty ∧ earlierOut s j.cluster j.upto then
        mapJob adm (fun x => { x with started := true }) s
      else s)

/-- JOB_CHUNK_COMPLETE: the next chunk of a started job is read and written, and counts once it is visible (R242). A chunk in progress
reaches its boundary also in a cell that is frozen, stops or is killed (R14, R247). -/
def execJobChunkComplete (adm : Nat) (s : State) : Host.Outcome State Fault Refusal :=
  .next (match jobOf s adm with
    | none => s
    | some j =>
      if !j.started ∨ j.complete ∨ s.cell.gated then s
      else if j.wait ≠ 0 then chunkEnd adm s
      else if !cellAwake s ∨ (j.asks.isEmpty ∧ (!cellRuns s ∨ stopAsked s)) then s
      else runChunk j s)

/-- JOB_COMPLETE: after the last chunk the ring advances, marker m retires and the event line pulses, in this order (R242, R212); the
card's marker sets its bit unless a marker of its number is queued behind the job (R223). -/
def execJobComplete (adm : Nat) (s : State) : Host.Outcome State Fault Refusal :=
  .next (match jobOf s adm with
    | none => s
    | some j =>
      if !cellRuns s ∨ !j.complete then s
      else
        let m := byteAt j.card 5 % 16
        let ring := vget s.cell.rings m Ring.zero
        if cardFlag j.card 3 ∧ !ring.cfg then jobFault j cFormat (BitVec.ofNat 64 m) s
        else
          let s1 := if cardFlag j.card 3 ∧ ring.count < ring.cap then ringProduce m 1 s else s
          let s2 := mapCell (fun c => { c with jobs := (c.jobs.filter (fun x => decide (x.adm ≠ adm))).map (fun x =>
            { x with deps := x.deps.filter (· ≠ adm) }) }) s1
          let m7 := BitVec.ofNat 8 (byteAt j.card 7)
          let later := s2.cell.qmarks.any (fun q => decide (q.eng = 0) && decide (q.m = m7) && q.ahead.contains adm)
          let s3 := if cardFlag j.card 6 && !later then setRetired 0 m7 true s2 else s2
          commandDone 0 adm (pulse 1 (nb (byteAt j.card 4) 0 3) s3))

end Sys2Proof.Machine
end

