-- ==== Sys2Proof/Machine/Log.lean ====
section
/-! DEFINITION. The log unit: placement, creation, entries, watermarks, the digest vote, receipt of entries, the capture
interval, and the digest tree (spec/22_pair_log.md R371 to R380, R387, R388; spec/19_fabric.md R365; spec/24_surviving.md R401,
R406 to R409). -/

namespace Sys2Proof.Machine

open Sys2Proof

/-! ### Placement (R371) -/

/-- The log of a context. -/
def logOf (s : State) (ctx : Nat) : Log := (ctxOf s ctx).log

/-- A change of the log of a context. -/
def mapLog (ctx : Nat) (f : Log → Log) (s : State) : State := mapCtx ctx (fun c => { c with log := f c.log }) s

/-- First byte of the log area. -/
def Log.area (l : Log) : Nat := nb l.base.toNat 5 35 * 32

/-- Whether a placement is valid: registers as they stand, the other fields from the context record. -/
def logPlaced (s : State) (ctx : Nat) (l : Log) : Bool :=
  let r := ctxRecord s ctx
  let s0 := leAt r 80 8
  decide (nb l.base.toNat 1 4 = 0) && decide (nb l.base.toNat 40 24 = 0) && decide (1 ≤ l.slots) && decide (l.slots ≤ 65536) &&
    decide (1 ≤ l.win) && decide (l.win ≤ 65536) && decide (1 ≤ s0) && decide (s0 < 2 ^ 40) &&
    decide (nb (leAt r 88 4) 17 15 = 0) && zeroAt r 92 4 && decide (l.area + l.slots * l.win * 32 ≤ dramBytes)

/-! ### Entries and positions (R373, R374) -/

/-- Step of an entry. -/
def entStep (e : List Byte) : Nat := nb (leAt e 0 8) 0 40

/-- Slot of an entry. -/
def entSlot (e : List Byte) : Nat := nb (leAt e 0 8) 48 16

/-- VOID of an entry. -/
def entVoid (e : List Byte) : Bool := tb (leAt e 0 8) 40

/-- Whether the checksum of an entry holds. -/
def entCrcOk (e : List Byte) : Bool := decide ((crc32c (slice e 0 28)).toNat = leAt e 28 4)

/-- Whether an entry is malformed. -/
def entMalformed (l : Log) (e : List Byte) : Bool := decide (nb (leAt e 0 8) 41 7 ≠ 0) || decide (l.slots ≤ entSlot e)

/-- Position of the entry of a step and a slot (R374). -/
def entAt (l : Log) (st k : Nat) : Nat := l.area + ((st % l.win) * l.slots + k) * 32

/-- The bytes at the position of a step and a slot. -/
def entBytes (s : State) (l : Log) (st k : Nat) : List Byte := homeBytes s (entAt l st k) 32

/-- The entry of a step and a slot, when its position holds it. -/
def entryOf (s : State) (l : Log) (st k : Nat) : Option (List Byte) :=
  let e := entBytes s l st k
  if entCrcOk e ∧ !entMalformed l e ∧ entStep e = st ∧ entSlot e = k then some e else none

/-- Whether a step is complete (R376). -/
def stepComplete (s : State) (l : Log) (st : Nat) : Bool := (upTo l.slots).all (fun k => (entryOf s l st k).isSome)

/-- The highest step such that every step from the one after `st` is complete. -/
def doneFrom (s : State) (l : Log) : Nat → Nat → Nat
  | 0, st => st
  | n + 1, st => if stepComplete s l (st + 1) then doneFrom s l n (st + 1) else st

/-! ### The digest vote (R387, R388, R409) -/

/-- Outcome of a vote: the slots that differ, whether it is a tie. -/
structure Vote where
  differ : List Nat
  tied : Bool

/-- The vote of a step. -/
def voteOf (s : State) (l : Log) (st : Nat) : Vote :=
  let frags := (upTo l.slots).filterMap (fun k =>
    match entryOf s l st k with
    | some e => if entVoid e ∨ leAt e 24 4 = 0 then none else some (k, leAt e 24 4)
    | none => none)
  match frags with
  | [] => { differ := [], tied := false }
  | (_, f0) :: _ =>
    if frags.all (fun p => decide (p.2 = f0)) then { differ := [], tied := false }
    else
      match frags.find? (fun p => decide (frags.length < 2 * (frags.filter (fun q => decide (q.2 = p.2))).length)) with
      | some (_, m) => { differ := (frags.filter (fun p => decide (p.2 ≠ m))).map (·.1), tied := false }
      | none => { differ := (frags.filter (fun p => decide (p.2 ≠ f0))).map (·.1), tied := true }

/-- An error of the log class from the log unit; a repeated tie escalates its action to at least 3 (R409). -/
def logError (ctx info : Nat) (atLeast : Nat) (s : State) : State :=
  let e : Err := { cls := 11, src := 13, addr := 0, info := BitVec.ofNat 64 info, eng := 0, cell := none, ctx }
  let a := actionOf s e false
  recordError e (if a < atLeast then atLeast else a) s

/-- A rebuild of a context begins, once until its log is created again; captures count it at the step applied then (R406, R409). -/
def beginRebuild (ctx : Nat) (s : State) : State :=
  mapCtx ctx (fun c =>
    if c.rebuild then c else { c with rebuild := true, cap := { c.cap with faults := c.cap.faults ++ [c.log.applied] } }) s

/-- Takes the vote of a complete step: errors, the vote state and LASTTIE (R387, R388, R409). -/
def takeVote (ctx st : Nat) (s : State) : State :=
  let l := logOf s ctx
  let v := voteOf s l st
  if v.differ.isEmpty then s
  else
    let again := v.tied && (match l.lastTie with | some t => decide (st ≤ t) | none => false)
    let s1 := v.differ.foldl (fun x k =>
      logError ctx (st + k * 2 ^ 40 + b2n again * 2 ^ 56) (if again then 3 else 0) x) s
    let applies := v.tied || (l.ownV && v.differ.contains l.ownSlot)
    let s2 := mapLog ctx (fun l =>
      { l with lastTie := if v.tied then some st else l.lastTie,
               vote := if applies then (match l.vote with | some f => some (Nat.min f st) | none => some st) else l.vote }) s1
    if applies then beginRebuild ctx s2 else s2

/-- Takes the votes of several steps in ascending order. -/
def takeVotes (ctx from_ n : Nat) (s : State) : State := (upTo n).foldl (fun x i => takeVote ctx (from_ + i) x) s

/-! ### Creation (R372) -/

/-- The bytes of an area become zero. -/
def zeroArea (lo n : Nat) (s : State) : State :=
  let out (l : Nat) : Bool := !(decide (lo ≤ l) && decide (l < lo + n))
  mapDev (fun d => { d with mem := d.mem.filter (fun c => out c.1), poison := d.poison.filter out }) s

/-- Bits of LOGBASE that are not reserved: KEEP and the address (R371). -/
def logbaseMask : Word := 0x000000FFFFFFFFE1#64

/-- Creates the log of a context from its registers and its record. -/
def createLog (ctx : Nat) (s0 : State) : State :=
  let s := mapCtx ctx (fun c => { c with rebuild := false, log := { c.log with slots := c.log.regSlots, win := c.log.regWin } }) s0
  let l := logOf s ctx
  let r := ctxRecord s ctx
  if !logPlaced s ctx l then mapLog ctx (fun l => { l with live := false, done := 0, applied := 0, vote := none }) s
  else
    let s0 := leAt r 80 8
    let s1 := if tb l.base.toNat 0 then s else zeroArea l.area (l.slots * l.win * 32) s
    let l1 : Log := { l with s0, ownSlot := leAt r 88 2, ownV := tb (leAt r 88 4) 16, applied := s0 - 1, vote := none, live := true }
    let done := doneFrom s1 l1 l1.win (s0 - 1)
    let s2 := mapCtx ctx (fun c => { c with log := { l1 with done }, cap := { c.cap with created := s0 - 1 } }) s1
    takeVotes ctx s0 (done + 1 - s0) s2

/-- The first binding of a context on the device creates its log, with the registers of its record (R372, R402). -/
def firstBinding (ctx : Nat) (s : State) : State :=
  let r := ctxRecord s ctx
  createLog ctx (mapLog ctx (fun l =>
    { l with base := BitVec.ofNat 64 (leAt r 64 8), regSlots := leAt r 72 4, regWin := leAt r 76 4 }) s)

/-! ### Receipt (R365, R375 to R377) -/

/-- Whether a position holds an entry identical to a new one: two VOID entries agree in bytes 0 to 7. -/
def sameEntry (a b : List Byte) : Bool :=
  if entVoid a ∧ entVoid b then decide (slice a 0 8 = slice b 0 8) else decide (a = b)

/-- The status of an entry that is to be placed (R375). -/
def entryStatus (ctx : Nat) (e : List Byte) (s : State) : Nat :=
  let l := logOf s ctx
  if !l.live then 7
  else if !entCrcOk e then 3
  else if entMalformed l e then 4
  else if entStep e ≤ l.applied then 5
  else if l.applied + l.win < entStep e then 6
  else
    match entryOf s l (entStep e) (entSlot e) with
    | some old => if sameEntry old e then 1 else 2
    | none => 0

/-- Places an entry: the status of R375 and the state. -/
def placeEntry (ctx : Nat) (e : List Byte) (s : State) : Nat × State :=
  let l := logOf s ctx
  let st := entryStatus ctx e s
  if st = 0 then
    let s1 := homePut (entAt l (entStep e) (entSlot e)) e s
    let s2 := mapLog ctx (fun k => { k with done := doneFrom s1 k (k.applied + k.win - k.done) k.done }) s1
    (0, if stepComplete s2 l (entStep e) then takeVote ctx (entStep e) s2 else s2)
  else (st, if 2 ≤ st ∧ st ≤ 4 then logError ctx (entStep e + entSlot e * 2 ^ 40) 0 s else s)

/-- Whether the write of an entry to its position waits for the capture of its page (R404). -/
def entryHeld (ctx : Nat) (e : List Byte) (s : State) : Bool :=
  decide (entryStatus ctx e s = 0) && captureHolds s (entAt (logOf s ctx) (entStep e) (entSlot e))

/-- The held write of an entry claims its page (R404). -/
def claimEntry (ctx : Nat) (e : List Byte) (s : State) : State := claimPages [entAt (logOf s ctx) (entStep e) (entSlot e)] s

/-- A relay of an entry to the other members of the fan-out group, and its packets (R365). -/
def relayEntry (ctx : Nat) (e : List Byte) (s : State) : List PktId × State :=
  let c := ctxOf s ctx
  match c.fanout with
  | none => ([], s)
  | some g =>
    let grp := vget c.groups g Group.zero
    let ref : CallRef := { ctx, g, hash := grp.hash.toNat, call := 0, members := grp.members, rank := grp.rank }
    ((upTo grp.members.length).filter (fun r => decide (r ≠ grp.rank))).foldl (fun x r =>
      match post none ref 3 0 r [ctx, 0] e x.2 with
      | some (id, s') => (x.1 ++ [id], s')
      | none => x) ([], s)

/-- LOG_RECEIVE: checks, places, and relays an original (R365). The answer is the status of R375 and the packets of the relays. -/
def logReceive (ctx : Nat) (e : List Byte) (original : Bool) (s : State) : Nat × List PktId × State :=
  let r := placeEntry ctx e s
  if original ∧ r.1 ≤ 2 then (r.1, relayEntry ctx e r.2) else (r.1, [], r.2)

/-! ### LOGAPPLIED and the capture interval (R379, R406) -/

/-- The capture interval for a cost, a window of steps and a count of failures: the square root of 2C / λ, rounded to the
nearest integer, within 16 to 65,536 (R406). -/
def captureInterval (cost : BitVec 32) (w f : Nat) : Nat :=
  let c : Nat × Int := match f32 cost.toNat with
    | .fin false m e => if m = 0 then (1, 0) else (m, e)
    | _ => (1, 0)
  let num := 2 * c.1 * w * pow2 c.2
  let den := (if f = 0 then 1 else f) * pow2 (-c.2)
  let x := num / den
  let r := isqrt 64 (Nat.min x (2 ^ 40)) 0
  let up := decide (den * (4 * r * r + 4 * r + 1) ≤ 4 * num)
  let n := if up then r + 1 else r
  if n < 16 then 16 else if 65536 < n then 65536 else n

/-- The firmware recomputes CAPIV as LOGAPPLIED advances (R406). -/
def updateCapiv (ctx : Nat) (s : State) : State :=
  let l := logOf s ctx
  let c := (ctxOf s ctx).cap
  let steps := l.applied - c.created
  let w := if steps = 0 then 1 else if 65536 < steps then 65536 else steps
  let f := (c.faults.filter (fun a => decide (l.applied ≤ a + w))).length
  let cost := BitVec.ofNat 32 (leAt (ctxRecord s ctx) 120 4)
  mapCtx ctx (fun k => { k with cap := { k.cap with iv := BitVec.ofNat 17 (captureInterval cost w f) } }) s

/-! ### The digest tree (R407, R408) -/

/-- The top level of the tree of P pages. -/
def digestTop : Nat → Nat → Nat → Nat
  | 0, _, l => l
  | n + 1, p, l => if p ≤ 16 ^ l then l else digestTop n p (l + 1)

/-- The number of nodes of a level: 0 beyond the top. -/
def digestCount (p l : Nat) : Nat :=
  if p = 0 ∨ digestTop 10 p 1 < l then 0 else (p + 16 ^ l - 1) / 16 ^ l

/-- The digest of leaf i of a context's range. -/
def digestLeaf (s : State) (ctx i : Nat) : BitVec 64 :=
  match rangeLeaf s ctx i with
  | none => 0
  | some (_, _, e) =>
    if !tb e.toNat 13 then 0
    else
      let lo := leafLoc e ((capRange s ctx).1 + 65536 * i)
      if poisoned s lo 65536 then BitVec.allOnes 64 else crc64 (homeBytes s lo 65536)

/-- The digest of node j of a level. -/
def digestNode (s : State) (ctx : Nat) : Nat → Nat → BitVec 64
  | 0, j => digestLeaf s ctx j
  | l + 1, j =>
    let last := digestCount (capRange s ctx).2 l
    crc64 (((upTo 16).filter (fun i => decide (16 * j + i < last))).flatMap (fun i =>
      leBytes 8 (digestNode s ctx l (16 * j + i)).toNat))

end Sys2Proof.Machine
end

