-- ==== Sys2Proof/Machine/Colls.lean ====
section
/-! DEFINITION. Groups and the collective port: CGRP, admission of CLDRED, CROT, CPAIR and LOGPULL, the presence and data
phases, rotation, pair entries, log pulls, completion (spec/19_fabric.md R355 to R364; spec/21_prog_allreduce.md R368 to R370;
spec/22_pair_log.md R380, R388). -/

namespace Sys2Proof.Machine

open Sys2Proof

/-! ### Groups (R355, R356) -/

/-- A group of the own context. -/
def groupOf (s : State) (g : Nat) : Group := vget (ctxOf s s.cell.task.ctx).groups g Group.zero

/-- Sets a group of the own context. -/
def setGroup (g : Nat) (x : Group) (s : State) : State :=
  mapCtx s.cell.task.ctx (fun c => { c with groups := vset c.groups g x }) s

/-- A command's group. -/
def collGroup (c : Coll) : Nat := byteAt c.blk 0 % 16

/-- A group of the own context is defined or deleted: its calls are numbered anew, and those of before count no more. -/
def newGroup (g : Nat) (x : Group) (s : State) : State :=
  let ctx := s.cell.task.ctx
  setGroup g x (mapDev (fun d => { d with pastCalls := d.pastCalls.filter (fun c => !(decide (c.1 = ctx) && decide (collGroup c.2 = g))) }) s)

/-- Whether an admitted, unfinished command of the own context names a group: one of the bound task or of a pre-empted one. -/
def groupBusy (s : State) (g : Nat) : Bool :=
  s.cell.colls.any (fun c => decide (collGroup c = g)) ||
    s.dev.saved.any (fun x => decide (x.cell.task.ctx = s.cell.task.ctx) && x.cell.colls.any (fun c => decide (collGroup c = g)))

/-- CGRP: defines a group from its block (R355). -/
def execCgrp (_y : Bool) (w : BitVec 2) (d a : BitVec 5) (g : BitVec 4) (s : State) : Host.Outcome State Fault Refusal :=
  .next (reeve [a] [d] (fun s =>
    let ea := rd s a
    let say (v : Word) (s : State) : State := putResult 2 d v (advance w s)
    if !aligned ea 64 then trapHere cMisdata ea s
    else
      withBlock a ea 8 (fun hd s =>
        let n := leAt hd 0 2
        withBlock a (ea + 8) (2 * n) (fun ids s =>
            let ms := (upTo n).map (fun r => leAt ids (2 * r) 2)
            let me := s.dev.fdevid.toNat
            if n = 0 ∨ 1024 < n ∨ !zeroAt hd 2 6 ∨ ms.any (fun m => decide (16384 ≤ m)) then say 1 s
            else if !ms.contains me ∨ ms.eraseDups.length < n then say 2 s
            else if groupBusy s g.toNat then say 3 s
            else
              say 0 (newGroup g.toNat
                { defined := true, members := ms, rank := ms.idxOf me, calls := 0, hash := crc32c (hd ++ ids) } s)) s) s) s)

/-- CGRP.D: deletes a group (R355). -/
def execCgrpD (_y : Bool) (w : BitVec 2) (d : BitVec 5) (g : BitVec 4) (s : State) : Host.Outcome State Fault Refusal :=
  .next (reeve [] [d] (fun s =>
    if groupBusy s g.toNat then putResult 2 d 3 (advance w s)
    else
      putResult 2 d 0 (mapCtx s.cell.task.ctx (fun c => { c with fanout := if c.fanout = some g.toNat then none else c.fanout })
        (newGroup g.toNat Group.zero (advance w s)))) s)

/-- What CGRP.Q answers. -/
def groupWord (x : Group) : Word :=
  if x.defined then BitVec.ofNat 64 (x.members.length + x.rank * 2 ^ 16 + x.calls % 2 ^ 32 * 2 ^ 32) else BitVec.allOnes 64

/-- CGRP.Q: size, own rank and call count (R355, R369). -/
def execCgrpQ (_y : Bool) (w : BitVec 2) (d : BitVec 5) (g : BitVec 4) (s : State) : Host.Outcome State Fault Refusal :=
  .next (writeWord 2 w d [] (fun s => groupWord (groupOf s g.toNat)) s)

/-- CGRP.L: makes a group the log fan-out group (R355, R364). -/
def execCgrpL (_y : Bool) (w : BitVec 2) (d : BitVec 5) (g : BitVec 4) (s : State) : Host.Outcome State Fault Refusal :=
  .next (reeve [] [d] (fun s =>
    if (groupOf s g.toNat).defined then
      putResult 2 d 0 (mapCtx s.cell.task.ctx (fun c => { c with fanout := some g.toNat }) (advance w s))
    else putResult 2 d (BitVec.allOnes 64) (advance w s)) s)

/-! ### Admission (R357, R360, R363, R364, R380) -/

/-- Whether a block sets a reserved bit. -/
def collReserved (kind : Nat) (b : List Byte) : Bool :=
  decide (16 ≤ byteAt b 0) ||
    (match kind with
     | 0 => decide (8 ≤ byteAt b 1) || !zeroAt b 3 1 || !zeroAt b 22 2 || !zeroAt b 32 16
     | 1 =>
       decide (16 ≤ byteAt b 1) || decide (16 ≤ byteAt b 2) || !zeroAt b 3 1 || !zeroAt b 12 4 ||
         (!tb (byteAt b 1) 2 && !zeroAt b 24 16) || (!tb (byteAt b 1) 3 && !zeroAt b 40 8)
     | 2 => decide (4 ≤ byteAt b 1) || !zeroAt b 2 6 || !zeroAt b 16 32
     | _ => decide (4 ≤ byteAt b 1) || !zeroAt b 4 4 || !zeroAt b 13 3 || !zeroAt b 21 3 || !zeroAt b 24 24)

/-- Whether a size or a count is out of range. -/
def collRange (kind : Nat) (g : Group) (l : Log) (b : List Byte) : Bool :=
  let n := g.members.length
  match kind with
  | 0 => decide (leAt b 4 4 = 0) || decide (16777216 < leAt b 4 4)
  | 1 =>
    let size := leAt b 8 4
    decide (leAt b 4 4 = 0) || decide (n ≤ leAt b 4 4) || decide (size % 256 ≠ 0) || decide (size < 256) || decide (65536 < size)
  | 2 => false
  | _ =>
    let first := leAt b 8 5
    let last := leAt b 16 5
    let peer := leAt b 2 2
    decide (last < first) || decide (first ≤ l.applied) || decide (l.applied + l.win < last) || decide (n ≤ peer) ||
      decide (peer = g.rank)

/-- Whether an address of a block is misaligned. -/
def collMisaligned (kind : Nat) (b : List Byte) : Bool :=
  (tb (byteAt b 1) 0 && decide (leAt b 48 8 % 16 ≠ 0)) || decide (leAt b 56 8 % 8 ≠ 0) ||
    (match kind with
     | 0 => decide (leAt b 8 8 % 2 ≠ 0) || decide (leAt b 24 8 % (if tb (byteAt b 1) 2 then 4 else 2) ≠ 0)
     | 1 => tb (byteAt b 1) 3 && decide (leAt b 40 8 % 16 ≠ 0)
     | 2 => decide (leAt b 8 8 % 32 ≠ 0)
     | _ => false)

/-- The lowest code that a block breaks; 0 for none. -/
def collCode (kind : Nat) (b : List Byte) (s : State) : Nat :=
  let g := groupOf s (byteAt b 0 % 16)
  let l := logOf s s.cell.task.ctx
  if collReserved kind b then 1
  else if !g.defined then 2
  else if collRange kind g l b then 3
  else if collMisaligned kind b then 4
  else if kind = 3 ∧ !l.live then 5
  else 0

/-- Admits a command of the collective port. -/
def admitColl (kind : Nat) (b : List Byte) (s : State) : State :=
  let k := clus s s.cur
  let hold := tb (byteAt b 1) 1
  let take := hold && decide (s.cell.sluice.collTokens ≠ 0)
  let s1 := if take then mapSluice (fun x => { x with collTokens := x.collTokens - 1 }) s else s
  let c : Coll :=
    { adm := s.cell.collCtr, kind, blk := b, sup := k.sup, cluster := s.cur, upto := k.seqCtr, released := !hold || take,
      started := false, members := [], rank := 0, call := 0, hash := 0, awaiting := [], absent := [], verdict := false,
      sums := [], got := [], steps := 0, wrote := 0, inbox := [], asked := [], listed := [], ranks := [], gone := false,
      failed := false, mismatch := false, settled := false, cause := none }
  mapCell (fun x => { x with colls := x.colls ++ [c], collCtr := x.collCtr + 1 }) s1

/-- A word of the collective port (R357). -/
def collWord (kind : Nat) (w : BitVec 2) (d a : BitVec 5) (s : State) : State :=
  reeve [a] [d] (fun s =>
    let ea := rd s a
    if 16 ≤ s.cell.colls.length then holdWith .waiting .none s
    else if !aligned ea 64 then putResult 1 d (notAdmitted 4) (advance w s)
    else
      withBlock a ea 64 (fun b s =>
        let code := collCode kind b s
        if code ≠ 0 then putResult 1 d (notAdmitted code) (advance w s)
        else putResult 1 d (BitVec.ofNat 64 s.cell.collCtr) (admitColl kind b (advance w s))) s) s

/-- CLDRED d, a (R357, R361). -/
def execCldred (_y : Bool) (w : BitVec 2) (d a : BitVec 5) (s : State) : Host.Outcome State Fault Refusal :=
  .next (collWord 0 w d a s)

/-- CROT d, a (R357, R363). -/
def execCrot (_y : Bool) (w : BitVec 2) (d a : BitVec 5) (s : State) : Host.Outcome State Fault Refusal :=
  .next (collWord 1 w d a s)

/-- CPAIR d, a (R357, R364). -/
def execCpair (_y : Bool) (w : BitVec 2) (d a : BitVec 5) (s : State) : Host.Outcome State Fault Refusal :=
  .next (collWord 2 w d a s)

/-- LOGPULL d, a (R380). -/
def execLogpull (_y : Bool) (w : BitVec 2) (d a : BitVec 5) (s : State) : Host.Outcome State Fault Refusal :=
  .next (collWord 3 w d a s)

/-! ### Memory of a command port (R358, R386) -/

/-- Locations of n bytes for a command of engine `eng`, in own scratchpad or device virtual memory, on unformatted pages: a
formatted page is a FORMAT fault with the descriptor's number (R109). -/
def portLocs (eng : Nat) (sup : Bool) (k : Acc) (ea : Word) (n : Nat) (s : State) : JobRes (List Nat × List Attr) :=
  let rec go : List (Word × Nat) → List Nat → List Attr → JobRes (List Nat × List Attr)
    | [], ls, ats => .ok (ls, ats) s
    | (a, m) :: r, ls, ats =>
      let act : JobRes (List Nat × List Attr) :=
        match xl eng sup k a s with
        | .wait s' => .wait s'
        | .deny s' => .fault cAccess a s'
        | .ok l at_ => if at_.fmt then .fault cFormat (BitVec.ofNat 64 at_.desc) s else go r (ls ++ (upTo m).map (l + ·)) (ats ++ [at_])
      match spaceOf a with
      | .virt _ => act
      | .spad _ => act
      | _ => .fault cAccess a s
  go (pagePieces ea n) [] []

/-- Reads bytes for a command. -/
def portRead (eng : Nat) (sup : Bool) (ea : Word) (n : Nat) (s : State) : JobRes (List Byte × Bool) :=
  match portLocs eng sup .read ea n s with
  | .ok (ls, _) s' => .ok (ls.map (cellByte 7 s'), ls.any (fun l => inSet s'.dev.poison l)) s'
  | .wait s' => .wait s'
  | .fault c a s' => .fault c a s'

/-- Writes bytes for a command at their homes; it waits while another store of the cell or a capture holds one of them. -/
def portWrite (eng : Nat) (sup : Bool) (ea : Word) (bs : List Byte) (s : State) : JobRes Unit :=
  match portLocs eng sup .write ea bs.length s with
  | .ok (ls, _) s' =>
    if ls.any (fun l => overlapsPending s' l 1 || captureHolds s' l) then .wait (claimPages ls s')
    else .ok () (taskWrite (ls.zip bs) s')
  | .wait s' => .wait s'
  | .fault c a s' => .fault c a s'

/-- The status block and the sync word of a command that completes. -/
structure Ending where
  status : Word
  bytes : List Byte
  syncOn : Bool
  sync : Nat
  good : Bool
  count : Nat
  flt : Bool
  /-- the count is added whatever the outcome (R385) -/
  always : Bool := false

/-- Completes a command: the status block is written and the sync word counts or takes a flag (of a Menders command, both). The answer is a wait, or
whether the status block (cause first) or the sync word could not be written; `status` may hold nothing when the status block
is the cause. -/
def writeEnding (eng : Nat) (sup : Bool) (e : Ending) (s : State) : JobRes (Option (Nat × Word)) :=
  let place := spadSync e.sync s
  let note (bad : Bool) (s : State) : State :=
    if !e.syncOn then s
    else
      match place with
      | none => s
      | some loc =>
        if e.good ∧ !bad then syncArrive loc e.count s
        else syncFlag loc (e.flt || bad) (if e.always then syncArrive loc e.count s else s)
  let syncBad := e.syncOn && place.isNone
  let bytes := if syncBad then (match e.bytes with | b :: r => (b ||| 4) :: r | [] => []) else e.bytes
  match portWrite eng sup e.status bytes s with
  | .wait s' => .wait s'
  | .fault c a s' => .ok (some (c, a)) (note true s')
  | .ok _ s' => .ok (if syncBad then some (cAccess, BitVec.ofNat 64 e.sync) else none) (note false s')

/-! ### Trees (R361, R368) -/

/-- The split of a node of `len` ranks: the largest power of two below it. -/
def splitOf (len : Nat) : Nat := 2 ^ Nat.log2 (len - 1)

/-- The parent of a rank, the end of the subtree that it owns, and the ranks that it asks, in ascending order. -/
def treeWalk (r : Nat) : Nat → Nat → Nat → Nat → List Nat → Nat × Nat × List Nat
  | 0, _, hi, up, kids => (up, hi, kids)
  | fuel + 1, lo, hi, up, kids =>
    if hi - lo < 2 then (up, hi, kids)
    else
      let h := splitOf (hi - lo)
      if lo = r then
        let t := treeWalk r fuel lo (lo + h) up ((lo + h) :: kids)
        (t.1, hi, t.2.2)
      else if r < lo + h then treeWalk r fuel lo (lo + h) up kids
      else treeWalk r fuel (lo + h) hi lo kids

/-- Parent, end of the own subtree, and children of rank r among n. -/
def treeOf (r n : Nat) : Nat × Nat × List Nat := treeWalk r 11 0 n 0 []

/-! ### Commands under way -/

/-- A change of a command of the collective port. -/
def mapColl (adm : Nat) (f : Coll → Coll) (s : State) : State :=
  mapCell (fun k => { k with colls := k.colls.map (fun c => if c.adm = adm then f c else c) }) s

/-- A command of the collective port. -/
def collOf (s : State) (adm : Nat) : Option Coll := s.cell.colls.find? (fun c => decide (c.adm = adm))

/-- The started call of a context, a group and a call number. -/
def callOf (s : State) (ctx g call : Nat) : Option Coll :=
  if s.cell.bound ∧ s.cell.task.ctx = ctx then
    s.cell.colls.find? (fun c => c.started && decide (c.kind ≤ 1) && decide (collGroup c = g) && decide (c.call = call))
  else none

/-- Sends a message of a call of the bound task to a rank. -/
def toRank (c : Coll) (kind rank : Nat) (args : List Nat) (data : List Byte) (s : State) : State :=
  postCall (ownerOf s c) (c.ref s.cell.task.ctx) kind rank args data s

/-- Sends a message of a call to several ranks, the own one left out. -/
def toRanks (c : Coll) (kind : Nat) (ranks : List Nat) (args : List Nat) (data : List Byte) (s : State) : State :=
  (ranks.filter (fun r => decide (r ≠ c.rank))).foldl (fun x r => toRank c kind r args data x) s

/-- The outcome of a call is settled: absent ranks, or none. -/
def settleAbsent (adm : Nat) (absent : List Nat) (s : State) : State :=
  mapColl adm (fun c => { c with absent, settled := true }) s

/-- A command takes a fault: it settles with FAULT, and the call's other members are told (R358). -/
def collFault (adm code : Nat) (a : Word) (s : State) : State :=
  match collOf s adm with
  | none => s
  | some c =>
    let s1 := if c.kind ≤ 1 ∧ c.started then faultNotice false c s else s
    mapColl adm (fun x => { x with failed := true, settled := true, cause := some (code, a) }) s1

/-! ### CLDRED (R360 to R362, R370) -/

/-- Whether the result is f32. -/
def redF32 (c : Coll) : Bool := tb (byteAt c.blk 1) 2

/-- Elements of a reduction. -/
def redElems (c : Coll) : Nat := leAt c.blk 4 4

/-- Elements of a chunk of 4,096 destination bytes. -/
def redChunk (c : Coll) : Nat := if redF32 c then 1024 else 2048

/-- Number of chunks. -/
def redChunks (c : Coll) : Nat := (redElems c + redChunk c - 1) / redChunk c

/-- First element and count of a chunk. -/
def redSpan (c : Coll) (k : Nat) : Nat × Nat := (k * redChunk c, Nat.min (redChunk c) (redElems c - k * redChunk c))

/-- The sum of the local vectors i and up over `n` elements, added to a running sum. -/
def redLocal (c : Coll) (first n : Nat) : Nat → Nat → List Nat → State → JobRes (List Nat × Bool)
  | 0, _, acc, s => .ok (acc, false) s
  | m + 1, i, acc, s =>
    let ea := BitVec.ofNat 64 (leAt c.blk 8 8) + w64 ((i : Int) * sx (leAt c.blk 16 6) 48) + BitVec.ofNat 64 (2 * first)
    match portRead (7 + 64 * (c.adm + 1)) c.sup ea (2 * n) s with
    | .wait s' => .wait s'
    | .fault x a s' => .fault x a s'
    | .ok (bs, p) s' =>
      let v (e : Nat) : Nat := leAt bs (2 * e) 2 * 65536
      let acc1 := if i = 0 then (upTo n).map v else acc.mapIdx (fun e a => fElem 0x20 wF32 0 a (v e) 0)
      match redLocal c first n m (i + 1) acc1 s' with
      | .ok (r, q) s2 => .ok (r, p || q) s2
      | x => x

/-- The sum of the own subtree for a chunk: the local sum and then the children in ascending order. -/
def redSum (c : Coll) (kids : List Nat) (k : Nat) (own : List Nat) : List Nat :=
  let first := (redSpan c k).1
  kids.foldl (fun acc r =>
    acc.mapIdx (fun e a => fElem 0x20 wF32 0 a (sget 0 c.sums (2 ^ 24 * r + first + e)).toNat 0)) own

/-- Writes a chunk of the result to the own destination. -/
def redWrite (c : Coll) (k : Nat) (vals : List Nat) (s : State) : JobRes Unit :=
  let size := if redF32 c then 4 else 2
  let bs := vals.flatMap (fun v => leBytes size (if redF32 c then v else wBf16.enc .rne (f32 v)))
  portWrite (7 + 64 * (c.adm + 1)) c.sup (BitVec.ofNat 64 (leAt c.blk 24 8) + BitVec.ofNat 64 (size * (redSpan c k).1)) bs s

/-- Data bytes of f32 values. -/
def f32Bytes (vals : List Nat) : List Byte := vals.flatMap (leBytes 4)

/-- An error of a command that reads poison. -/
def collPoison (p : Bool) (s : State) : State :=
  if p then (raiseError { cls := 6, src := 4, addr := 0, info := 0, eng := 7, cell := some Config.cellNo, ctx := s.cell.task.ctx } false s).2 else s

/-- Goes on with the data phase: chunks of the own subtree whose children's sums have come are formed and sent up, and the
root's chunks that have come are written (R361, R362). -/
def redAdvance (adm : Nat) : Nat → State → State
  | 0, s => s
  | fuel + 1, s =>
    match collOf s adm with
    | none => s
    | some c =>
      if c.settled ∨ !c.verdict ∨ stopAsked s then s
      else if c.wrote = redChunks c then mapColl adm (fun x => { x with settled := true }) s
      else
        let t := treeOf c.rank c.members.length
        let k := c.steps
        if k < redChunks c ∧ t.2.2.all (fun r => c.got.contains (r, k)) then
          match redLocal c (redSpan c k).1 (redSpan c k).2 (byteAt c.blk 2 + 1) 0 [] s with
          | .wait s' => s'
          | .fault x a s' => collFault adm x a s'
          | .ok (own, p) s1 =>
            let vals := redSum c t.2.2 k own
            if c.rank = 0 then
              (match redWrite c k vals s1 with
               | .wait s' => s'
               | .fault x a s' => collFault adm x a s'
               | .ok _ s2 =>
                 redAdvance adm fuel (toRanks c 4 (upTo c.members.length) [k] (f32Bytes vals)
                   (collPoison p (mapColl adm (fun x => { x with steps := k + 1, wrote := k + 1 }) s2))))
            else
              redAdvance adm fuel (toRank c 4 t.1 [k] (f32Bytes vals)
                (collPoison p (mapColl adm (fun x => { x with steps := k + 1 }) s1)))
        else if c.rank ≠ 0 ∧ c.got.contains (0, c.wrote) then
          let sp := redSpan c c.wrote
          match redWrite c c.wrote ((upTo sp.2).map (fun e => (sget 0 c.sums (sp.1 + e)).toNat)) s with
          | .wait s' => s'
          | .fault x a s' => collFault adm x a s'
          | .ok _ s1 => redAdvance adm fuel (mapColl adm (fun x => { x with wrote := x.wrote + 1 }) s1)
        else s

/-- Steps that a reduction may still need. -/
def redFuel (c : Coll) : Nat := 2 * redChunks c + 2

/-! ### CROT (R363) -/

/-- Block bytes and steps of a rotation. -/
def rotBytes (c : Coll) : Nat := leAt c.blk 8 4
def rotSteps (c : Coll) : Nat := leAt c.blk 4 4

/-- Own scratchpad as an effective address. -/
def ownSpad (a : Nat) : Word := BitVec.ofNat 64 (2 ^ 63 + a % 2 ^ 60)

/-- Whether the credit of a rotation lets block t be placed. -/
def rotCredit (c : Coll) (t : Nat) (s : State) : Option Bool :=
  if !tb (byteAt c.blk 1) 3 then some true
  else
    let a := leAt c.blk 40 8
    if a < 0x800000 ∧ spaOk s ownPos a .read false then
      some (decide (((syncRead s (locSpad ownPos a)).gen + 2 ^ 32 + 2 - t) % 2 ^ 32 < 2 ^ 31))
    else none

/-- The block of an origin that has come and is not placed. -/
def blockOf (c : Coll) (o : Nat) : Option (List Byte) := (c.inbox.find? (fun b => decide (b.1 = o))).map (·.2)

/-- Sends the own block to the next rank, once the call's data may move (R356, R363). -/
def rotSend (c : Coll) (s : State) : State :=
  match portRead (7 + 64 * (c.adm + 1)) c.sup (ownSpad (leAt c.blk 16 8)) (rotBytes c) s with
  | .wait s' => s'
  | .fault x a s' => collFault c.adm x a s'
  | .ok (bs, p) s1 =>
    mapColl c.adm (fun x => { x with got := [(c.rank, 0)] })
      (collPoison p (toRank c 5 ((c.rank + 1) % c.members.length) [rotSteps c, c.rank] bs s1))

/-- Places the received blocks in the order of their steps, as far as credit and room allow (R363). -/
def rotAdvance (adm : Nat) : Nat → State → State
  | 0, s => s
  | fuel + 1, s =>
    match collOf s adm with
    | none => s
    | some c =>
      let t := c.steps + 1
      let n := c.members.length
      let o := (c.rank + n - t % n) % n
      if c.settled ∨ !c.verdict ∨ stopAsked s then s
      else if c.got.isEmpty then rotAdvance adm fuel (rotSend c s)
      else
      match blockOf c o with
      | none => s
      | some blk =>
          let m := byteAt c.blk 2 % 16
          let ring := vget s.cell.rings m Ring.zero
          let tag := tb (byteAt c.blk 1) 2
          match rotCredit c t s with
          | none => collFault adm cAccess (BitVec.ofNat 64 (leAt c.blk 40 8)) s
          | some false => s
          | some true =>
            if !tag ∧ ring.cap ≤ ring.count then s
            else
              let key := BitVec.ofNat 64 (leAt c.blk 32 8) + BitVec.ofNat 64 o
              let slot := (tagHit s key).getD (tagVictim s key)
              let at_ := if tag then leAt c.blk 24 8 + slot * rotBytes c else ring.base + ring.size * ring.tail
              match portWrite (7 + 64 * (c.adm + 1)) c.sup (ownSpad at_) blk s with
              | .wait s' => s'
              | .fault x a s' => collFault adm x a s'
              | .ok _ s1 =>
                let s2 := if tag then tagInstall slot key s1 else s1
                let s3 := if t < rotSteps c then toRank c 5 ((c.rank + 1) % n) [rotSteps c, o] blk s2 else s2
                let s4 := if tag then s3 else ringProduce m 1 s3
                let go (s : State) : State :=
                  rotAdvance adm fuel (mapColl adm (fun x =>
                    { x with inbox := c.inbox.filter (fun b => decide (b.1 ≠ o)), steps := t, settled := decide (t = rotSteps c) }) s)
                if !tb (byteAt c.blk 1) 0 then go s4
                else
                  match spadSync (leAt c.blk 48 8) s4 with
                  | some loc => go (syncArrive loc (rotBytes c) s4)
                  | none => collFault adm cAccess (BitVec.ofNat 64 (leAt c.blk 48 8)) s4

/-! ### Agreement (R356, R362, R368) -/

/-- Steps that a rotation may still need. -/
def rotFuel (c : Coll) : Nat := c.inbox.length + 2

/-- Goes on with the data of a call. -/
def callAdvance (c : Coll) (s : State) : State :=
  if c.kind = 0 then redAdvance c.adm (redFuel c) s else rotAdvance c.adm (rotFuel c) s

/-- Takes a GO: the data phase begins. -/
def takeGo (c : Coll) (s : State) : State := callAdvance c (mapColl c.adm (fun x => { x with verdict := true }) s)

/-- The fields of a call that must match, as presence messages carry them: E, or s and B of a rotation (R356, R360, R363; assumption 56). -/
def matched (c : Coll) : Nat := if c.kind = 0 then redElems c else rotSteps c + 2 ^ 32 * rotBytes c

/-- OUTF32 of a reduction, as presence messages carry it. -/
def wideOut (c : Coll) : Bool := decide (c.kind = 0) && redF32 c

/-- Whether a presence message agrees with a call (R368). -/
def presAgrees (c : Coll) (kind elems : Nat) (out32 : Bool) : Bool :=
  decide (c.kind = kind) && decide (matched c = elems) && decide (wideOut c = out32)

/-- Whether a presence request agrees with a call: the group's hash counts too (R356, R368). -/
def reqAgrees (c : Coll) (p : PresReq) : Bool := decide (p.hash = c.hash.toNat) && presAgrees c p.kind p.elems p.out32

/-- What a message to the device that sent a presence request carries of a call: the asking rank stands for that device. -/
def refTo (ctx : Nat) (c : Coll) (p : PresReq) : CallRef :=
  let members := c.members ++ List.replicate (p.rank + 1 - c.members.length) p.src
  { Coll.ref ctx c with members := lset members p.rank p.src }

/-- The answer to a presence request: the report of the subtree, or a FAULT notice of a mismatch (R356, R368). -/
def answerReq (ctx : Nat) (c : Coll) (owner : Option (Nat × Nat × Nat)) (p : PresReq) (s : State) : State :=
  if reqAgrees c p then postCall owner (refTo ctx c p) 1 p.rank ([c.kind, matched c, b2n (wideOut c)] ++ c.absent) [] s
  else postCall owner (refTo ctx c p) 3 p.rank [1] [] s

/-- A mismatch: every member completes with FAULT and MISMATCH before any data move (R356). -/
def collMismatch (c : Coll) (s : State) : State :=
  mapColl c.adm (fun x => { x with failed := true, mismatch := true, settled := true }) (faultNotice true c s)

/-- Answers the held presence requests of a call whose own requests have all been answered or have failed; a request that
disagrees with the call is a mismatch, and a settled call answers with what it knows (R356, R368). -/
def answerPresence (adm : Nat) (s : State) : State :=
  match collOf s adm with
  | none => s
  | some c =>
    let ctx := s.cell.task.ctx
    let mine (p : PresReq) : Bool := decide (p.ctx = ctx) && decide (p.g = collGroup c) && decide (p.call = c.call)
    let ps := s.dev.presence.filter mine
    let bad := ps.filter (fun p => !reqAgrees c p)
    let taken (s : State) : State := mapDev (fun d => { d with presence := d.presence.filter (fun p => !mine p) }) s
    if !c.isCall ∨ ps.isEmpty then s
    else if !bad.isEmpty then
      bad.foldl (fun x p => answerReq ctx c (ownerOf s c) p x) (if c.failed then taken s else collMismatch c (taken s))
    else if !c.settled ∧ !c.awaiting.isEmpty then s
    else ps.foldl (fun x p => answerReq ctx c (ownerOf s c) p x) (taken s)

/-- The presence phase goes on: rank 0 decides, and any other owner answers its parent (R362, R368). -/
def presenceAdvance (adm : Nat) (s : State) : State :=
  match collOf s adm with
  | none => s
  | some c =>
    if c.settled ∨ c.verdict ∨ !c.awaiting.isEmpty then s
    else if c.rank = 0 then
      let live := (upTo c.members.length).filter (fun r => !c.absent.contains r)
      let s1 := toRanks c 2 live c.absent [] s
      if c.absent.isEmpty then takeGo c s1 else settleAbsent adm c.absent s1
    else answerPresence adm s

/-! ### Starting (R358) -/

/-- The absent positions of a range of steps of the own log (R380). -/
def absentIn (s : State) (l : Log) (first last : Nat) : List (Nat × Nat) :=
  (upTo (last + 1 - first)).flatMap (fun i =>
    ((upTo l.slots).filter (fun k => (entryOf s l (first + i) k).isNone)).map (fun k => (first + i, k)))

/-- Whether a command may start. -/
def collReady (c : Coll) (s : State) : Bool :=
  cellRuns s && !stopAsked s && c.released && !c.started && earlierOut s c.cluster c.upto &&
    s.cell.colls.all (fun x => decide (c.adm ≤ x.adm) || decide (collGroup x ≠ collGroup c))

/-- A call starts: it takes the next number of its group (R356, R369). -/
def startCall (c : Coll) (s : State) : State :=
  let g := groupOf s (collGroup c)
  let call := g.calls + 1
  mapColl c.adm (fun x => { x with started := true, members := g.members, rank := g.rank, call, hash := g.hash })
    (setGroup (collGroup c) { g with calls := call } s)

/-- Starts a call: presence requests go to the ranks of the nodes that it owns (R362, R368). -/
def startPresence (c : Coll) (s : State) : State :=
  let s1 := startCall c s
  match collOf s1 c.adm with
  | none => s1
  | some c1 =>
    let kids := (treeOf c1.rank c1.members.length).2.2
    let s2 := toRanks c1 0 kids [c1.kind, matched c1, b2n (wideOut c1)] [] (mapColl c.adm (fun x => { x with awaiting := kids }) s1)
    answerPresence c.adm (presenceAdvance c.adm s2)

/-- Starts a rotation: its ring is checked; its own block is sent once the members are known to agree (R356, R363). -/
def startRot (c : Coll) (s : State) : State :=
  let m := byteAt c.blk 2 % 16
  let ring := vget s.cell.rings m Ring.zero
  if !tb (byteAt c.blk 1) 2 ∧ (!ring.cfg ∨ ring.size ≠ rotBytes c) then collFault c.adm cFormat (BitVec.ofNat 64 m) (startCall c s)
  else startPresence c s

/-- Starts a pair command: its entry is checked, placed, and sent to every other rank (R364, R388). -/
def startPair (c : Coll) (s : State) : State :=
  let ctx := s.cell.task.ctx
  let g := groupOf s (collGroup c)
  let begin_ (s : State) : State := mapColl c.adm (fun x => { x with started := true, members := g.members, rank := g.rank }) s
  let fail (s : State) : State := mapColl c.adm (fun x => { x with failed := true, settled := true }) (begin_ s)
  if (logOf s ctx).vote.isSome then fail s
  else
    match portRead (7 + 64 * (c.adm + 1)) c.sup (BitVec.ofNat 64 (leAt c.blk 8 8)) 32 s with
    | .wait s' => s'
    | .fault x a s' => collFault c.adm x a (begin_ s')
    | .ok (e, p) s1 =>
      if entryHeld ctx e s1 then claimEntry ctx e s1
      else if !entCrcOk e then fail (collPoison p s1)
      else
        let r := logReceive ctx e true (begin_ s1)
        let others := (upTo g.members.length).filter (fun q => decide (q ≠ g.rank))
        let bad := decide (r.1 = 4) || decide (6 ≤ r.1)
        let ref : CallRef := { ctx, g := collGroup c, hash := g.hash.toNat, call := 0, members := g.members, rank := g.rank }
        let s2 := others.foldl (fun x q => ((post (ownerOf x c) ref 3 0 q [ctx, 1] e x).map (·.2)).getD x) r.2.2
        collPoison p (mapColl c.adm (fun x =>
          { x with ranks := others, absent := if bad then [g.rank] else [], settled := others.isEmpty }) s2)

/-- Starts a log pull: every absent position of the range is asked of the peer (R380). -/
def startPull (c : Coll) (s : State) : State :=
  let ctx := s.cell.task.ctx
  let g := groupOf s (collGroup c)
  let l := logOf s ctx
  let ps := absentIn s l (leAt c.blk 8 5) (leAt c.blk 16 5)
  let ref : CallRef := { ctx, g := collGroup c, hash := g.hash.toNat, call := 0, members := g.members, rank := g.rank }
  let s1 := ps.foldl (fun x p =>
    ((post (ownerOf x c) ref 3 1 (leAt c.blk 2 2) [ctx, c.adm, p.1, p.2] [] x).map (·.2)).getD x) s
  mapColl c.adm (fun x =>
    { x with started := true, members := g.members, rank := g.rank, asked := ps, listed := ps, settled := ps.isEmpty }) s1

/-! ### What reaches a command (R356, R359, R362, R363, R368) -/

/-- Whether the device has a context: its record is valid (R311, R365, R368). -/
def ctxValid (s : State) (ctx : Nat) : Bool := decide (ctx < s.dev.ctxtN.toNat) && tb (byteAt (ctxRecord s ctx) 58) 0

/-- The command that a message is for, when it runs on the cell. -/
def collFor (cmd : CollTo) (s : State) : Option Coll :=
  match cmd with
  | .call ctx g call => callOf s ctx g call
  | .cmd q num adm =>
    if s.cell.bound ∧ s.cell.task.q = q ∧ s.cell.task.num = num then (collOf s adm).filter (·.started) else none

/-- Whether a message waits: its call has not started on the device, or its command belongs to a pre-empted task (R359). -/
def collWaits (cmd : CollTo) (s : State) : Bool :=
  match cmd with
  | .call ctx g call =>
    decide ((vget (ctxOf s ctx).groups g Group.zero).calls < call) ||
      s.dev.saved.any (fun x => decide (x.cell.task.ctx = ctx) &&
        x.cell.colls.any (fun c => c.calling && decide (collGroup c = g) && decide (c.call = call)))
  | .cmd q num adm => s.dev.saved.any (fun x => decide (x.q = q) && decide (x.num = num) && x.cell.colls.any (fun c => decide (c.adm = adm)))

/-- A member whose data are lost makes the call complete with FAULT on every member that can be reached (R362). -/
def callLost (c : Coll) (s : State) : State :=
  mapColl c.adm (fun x => { x with failed := true, settled := true }) (faultNotice false c s)

/-- A packet of a command to a rank has failed, or was answered by a fault response: what that means depends on what the packet
carried (R359, R362 to R365, R368, R380). -/
def takeLost (c : Coll) (vc kind r : Nat) (s : State) : State :=
  let n := c.members.length
  let t := treeOf c.rank n
  match vc, kind with
  | 2, 0 =>
    if c.settled ∨ !c.awaiting.contains r then s
    else
      presenceAdvance c.adm (mapColl c.adm (fun x =>
        { x with awaiting := x.awaiting.filter (· ≠ r), absent := addSet x.absent r }) s)
  | 2, 1 =>
    if c.settled then s
    else settleAbsent c.adm [r] (toRanks c 2 ((upTo t.2.1).filter (fun q => decide (c.rank < q))) [r] [] s)
  | 2, 2 => if c.rank ≠ 0 then s else mapColl c.adm (fun x => { x with failed := true, settled := true, absent := [] }) s
  | 2, 4 => if c.failed ∨ !c.absent.isEmpty then s else callLost c s
  | 2, 5 =>
    if c.failed ∨ !c.absent.isEmpty then s
    else settleAbsent c.adm [r] (toRanks c 6 ((upTo n).filter (fun q => decide (q ≠ r))) [r] [] s)
  | 3, 0 =>
    mapColl c.adm (fun x =>
      let left := x.ranks.filter (· ≠ r)
      { x with ranks := left, absent := addSet x.absent r, settled := left.isEmpty }) s
  | 3, 1 => mapColl c.adm (fun x => { x with asked := [], absent := [r], settled := true }) s
  | _, _ => s

/-- A rank has acknowledged a pair entry (R364). -/
def takeAck (c : Coll) (vc kind r : Nat) (s : State) : State :=
  if vc = 3 ∧ kind = 0 ∧ !c.settled then
    mapColl c.adm (fun x =>
      let left := x.ranks.filter (· ≠ r)
      { x with ranks := left, settled := left.isEmpty }) s
  else s

/-- The report of a child; one that names the child itself absent stands for a request that has failed (R368). -/
def takeReport (c : Coll) (rank : Nat) (absent : List Nat) (kind elems : Nat) (out32 : Bool) (s : State) : State :=
  if c.settled ∨ !c.awaiting.contains rank then s
  else if !absent.contains rank ∧ !presAgrees c kind elems out32 then collMismatch c s
  else
    presenceAdvance c.adm (mapColl c.adm (fun x =>
      { x with awaiting := x.awaiting.filter (· ≠ rank), absent := absent.foldl addSet x.absent }) s)

/-- A child's sum, or the root's result from rank 0; a chunk that has come already changes nothing (R362). -/
def takeChunk (c : Coll) (rank chunk : Nat) (data : List (BitVec 32)) (s : State) : State :=
  if c.settled ∨ c.kind ≠ 0 ∨ c.got.contains (rank, chunk) ∨ redChunks c ≤ chunk then s
  else
    let base := 2 ^ 24 * rank + (redSpan c chunk).1
    let vals := data.take (redSpan c chunk).2
    let sums := (vals.mapIdx (fun e v => (base + e, v))).foldl (fun m p => sset 0 m p.1 p.2) c.sums
    redAdvance c.adm (redFuel c) (mapColl c.adm (fun x => { x with sums, got := x.got ++ [(rank, chunk)] }) s)

/-- A rotated block: it is placed once there is credit and room. One of a call that disagrees in kind, hash, steps or block bytes
is a mismatch before any block is placed (R356, R363). -/
def takeBlock (c : Coll) (hash steps origin : Nat) (data : List Byte) (s : State) : State :=
  if c.settled then s
  else if c.kind ≠ 1 ∨ hash ≠ c.hash.toNat ∨ steps ≠ rotSteps c ∨ data.length ≠ rotBytes c then collMismatch c s
  else rotAdvance c.adm (rotFuel c) (mapColl c.adm (fun x => { x with inbox := x.inbox ++ [(origin, data)] }) s)

/-- The request of a position that has been answered is kept no longer (R353). -/
def freePull (owner : Option (Nat × Nat × Nat)) (step slot : Nat) (s : State) : State :=
  mapDev (fun d => { d with kept := d.kept.filter (fun p => match p.cargo with
    | some g => !(decide (g.vc = 3) && decide (g.kind = 1) && decide (g.owner = owner) && decide (g.args.drop 2 = [step, slot]))
    | none => true) }) s

/-- The answer to a pulled position: a returned entry is placed as a relay (R380). -/
def takePulled (c : Coll) (step slot : Nat) (answer : Option (List Byte)) (gone : Bool) (s : State) : State :=
  let held := match answer with | some e => entryHeld s.cell.task.ctx (fit 32 e) s | none => false
  if c.kind ≠ 3 ∨ c.settled ∨ !c.asked.contains (step, slot) then s
  else if held then claimEntry s.cell.task.ctx (fit 32 (answer.getD [])) s
  else
    let s0 := freePull (ownerOf s c) step slot s
    let s1 := match answer with
      | some e => (placeEntry s.cell.task.ctx (fit 32 e) s0).2
      | none => s0
    mapColl c.adm (fun x =>
      let left := x.asked.erase (step, slot)
      { x with asked := left, settled := left.isEmpty, gone := x.gone || (answer.isNone && gone) }) s1

/-- What a message does to its command. -/
def takeMsg (c : Coll) (m : CollMsg) (s : State) : State :=
  match m with
  | .report rank absent kind elems out32 => takeReport c rank absent kind elems out32 s
  | .verdict absent =>
    if c.settled ∨ c.verdict ∨ 2 ≤ c.kind then s
    else if absent.isEmpty then takeGo c s
    else settleAbsent c.adm absent s
  | .chunk rank chunk data => takeChunk c rank chunk data s
  | .fault mismatch =>
    if c.failed then s else mapColl c.adm (fun x => { x with failed := true, mismatch, settled := true, absent := [] }) s
  | .block hash steps origin data => takeBlock c hash steps origin data s
  | .abort absent => if c.settled ∨ c.kind ≠ 1 then s else settleAbsent c.adm absent s
  | .pulled step slot answer gone => takePulled c step slot answer gone s
  | .lost vc kind rank => takeLost c vc kind rank s
  | .acked vc kind rank => takeAck c vc kind rank s

/-- A message reaches its command, waits for it, or comes too late. -/
def collTake (cmd : CollTo) (m : CollMsg) (s : State) : State :=
  match collFor cmd s with
  | some c => takeMsg c m s
  | none => if collWaits cmd s then mapDev (fun d => { d with collHeld := d.collHeld ++ [{ cmd, msg := m }] }) s else s

/-- The held messages of a command that runs are taken in the order of their arrival. -/
def takeHeld (adm : Nat) : Nat → State → State
  | 0, s => s
  | n + 1, s =>
    match s.dev.collHeld.find? (fun h => ((collFor h.cmd s).map (·.adm)) == some adm) with
    | none => s
    | some h => takeHeld adm n (collTake h.cmd h.msg (mapDev (fun d => { d with collHeld := d.collHeld.erase h }) s))

/-- A command takes what has waited for it. -/
def collCatchUp (adm : Nat) (s : State) : State := answerPresence adm (takeHeld adm s.dev.collHeld.length s)

/-! ### Starting a command (R358) -/

/-- COLL_CMD_START (R358). -/
def execCollCmdStart (adm : Nat) (s : State) : Host.Outcome State Fault Refusal :=
  .next (match collOf s adm with
    | none => s
    | some c =>
      if !collReady c s then s
      else
        collCatchUp adm (match c.kind with
        | 0 => startPresence c s
        | 1 => startRot c s
        | 2 => startPair c s
        | _ => startPull c s))

/-! ### Completion (R358, R380) -/

/-- The byte count of a command: a rotation has counted each block. -/
def collCount (c : Coll) : Nat :=
  match c.kind with
  | 0 => redElems c * (if redF32 c then 4 else 2)
  | 1 => 0
  | _ => 32

/-- The status block of a settled command. -/
def collStatus (c : Coll) (still : Nat) : List Byte :=
  let n := c.members.length
  let top := if c.kind = 3 then still else if c.kind = 2 then 0 else c.call
  let absent := if c.absent.isEmpty then 0 else 1
  leBytes 8 (1 + 2 * absent + 4 * b2n c.failed + 8 * b2n c.mismatch + 16 * b2n c.gone + c.absent.length * 2 ^ 16 +
    top % 2 ^ 32 * 2 ^ 32) ++
    (upTo ((n + 63) / 64)).flatMap (fun k => leBytes 8 (boolsNat ((upTo 64).map (fun i => c.absent.contains (64 * k + i)))))

/-- A command leaves the port: the markers behind it have one command less ahead, the source pulses, and a fault freezes the
cell. -/
def collFinish (c : Coll) (cause : Option (Nat × Word)) (s : State) : State :=
  let s1 := endCall s.cell.task.ctx c (mapCell (fun k => { k with colls := k.colls.filter (fun x => decide (x.adm ≠ c.adm)) }) s)
  let s2 := pulse 2 0 (commandDone 1 c.adm s1)
  match cause with
  | none => s2
  | some (code, a) => freezeCell code 7 a s2

/-- Whether a call still awaits the fate of what it has sent: of rank 0's verdicts, and, while it is to complete with success, of its data.
A member that they cannot reach makes the call fail (R362, R363). -/
def sendsOut (c : Coll) (s : State) : Bool :=
  s.dev.kept.any (fun p => match p.cargo with
    | some g => decide (g.vc = 2) && decide (g.owner = ownerOf s c) &&
        (decide (g.kind = 2) || (c.calling && (decide (g.kind = 4) || decide (g.kind = 5))))
    | none => false)

/-- COLL_CMD_COMPLETE: a command goes on as far as it can; a settled one writes its status block, counts at its sync word, and
leaves the port (R358). -/
def execCollCmdComplete (adm : Nat) (s0 : State) : Host.Outcome State Fault Refusal :=
  let s := if cellRuns s0 then collCatchUp adm s0 else s0
  .next (match collOf s adm with
    | none => s
    | some c =>
      if !cellRuns s ∨ !c.started then s
      else if !c.settled then
        (if stopAsked s then s
         else if c.isCall then callAdvance c s
         else s)
      else if sendsOut c s then s
      else
        let l := logOf s s.cell.task.ctx
        let still := (c.listed.filter (fun p => (entryOf s l p.1 p.2).isNone)).length
        let good := !c.failed && c.absent.isEmpty
        let e : Ending :=
          { status := BitVec.ofNat 64 (leAt c.blk 56 8), bytes := collStatus c still, syncOn := tb (byteAt c.blk 1) 0,
            sync := leAt c.blk 48 8, good, count := collCount c, flt := c.failed }
        match writeEnding (7 + 64 * (c.adm + 1)) c.sup e s with
        | .wait s' => s'
        | .fault _ _ s' => s'
        | .ok bad s1 =>
          collFinish c (c.cause <|> bad) (if c.kind = 3 ∧ c.gone then beginRebuild s.cell.task.ctx s1 else if bad.isSome ∧ c.kind ≤ 1 ∧ c.cause.isNone then faultNotice false c s1 else s1))

/-! ### Receipts (R351, R365, R368) -/

/-- A duplicate is answered again (R351). -/
def answerAgain (p : Inbound) (m : DestMark) (s : State) : State :=
  respond p.src 7 p.epoch p.path p.seq (((m.kept.find? (fun k => decide (k.1 = p.seq))).map (·.2)).getD (Resp.plain true [])) s

/-- The answer to a message that has been taken or refused: its number counts as arrived (R351, R375). -/
def answerFirst (p : Inbound) (ok : Bool) (s : State) : State :=
  respond p.src 7 p.epoch p.path p.seq (Resp.plain ok [])
    (putMark ((markOf s p.src 7 p.epoch p.path).arrived p.seq (Resp.plain ok [])) s)

/-- A message of the collective port arrives: it is performed at most once and acknowledged, or answered by a fault response in a
device without its context (R351, R353, R368). -/
def collArrive (p : Inbound) (act : State → State) (s : State) : State :=
  let m := markOf s p.src 7 p.epoch p.path
  if m.has p.seq then answerAgain p m s
  else if m.c + 64 ≤ p.seq then notice 2 p.src 7 s.dev.fdevid.toNat p.epoch p.path p.seq s
  else
    let ok := ctxValid s p.ctx
    answerFirst p ok (if ok then act s else s)

/-- A message of a call arrives. -/
def callArrive (p : Inbound) (g call : Nat) (m : CollMsg) (s : State) : State :=
  collArrive p (collTake (.call p.ctx g call) m) s

/-- A presence request: held until the call starts, and answered once the requests of the call itself are. A call that has ended here is
answered for as it ended; where the device holds none of that number, its own rank alone answers (R368, log 56). -/
def takeRequest (p : PresReq) (s : State) : State :=
  let grp := vget (ctxOf s p.ctx).groups p.g Group.zero
  if collWaits (.call p.ctx p.g p.call) s ∨ (callOf s p.ctx p.g p.call).isSome then
    let s1 := mapDev (fun d => { d with presence := d.presence ++ [p] }) s
    match callOf s1 p.ctx p.g p.call with
    | some c => answerPresence c.adm s1
    | none => s1
  else
    match s.dev.pastCalls.find? (fun c => decide (c.1 = p.ctx) && decide (collGroup c.2 = p.g) && decide (c.2.call = p.call)) with
    | some (_, c) => answerReq p.ctx c none p s
    | none =>
      postCall none { ctx := p.ctx, g := p.g, hash := p.hash, call := p.call, rank := grp.rank,
                      members := lset (List.replicate (p.rank + 1) p.src) p.rank p.src } 1 p.rank [p.kind, p.elems, b2n p.out32] [] s

/-- PRESENCE_REQUEST_RECEIVE (R368). -/
def execPresenceRequestReceive (p : Inbound) (grp : GroupName) (call rank kind elems : Nat) (out32 : Bool) (s : State) :
    Host.Outcome State Fault Refusal :=
  .next (collArrive p (takeRequest { ctx := p.ctx, g := grp.g, hash := grp.hash, call, rank, kind, elems, out32, src := p.src }) s)

/-- PRESENCE_REPORT_RECEIVE (R368). -/
def execPresenceReportReceive (p : Inbound) (g call rank : Nat) (absent : List Nat) (kind elems : Nat) (out32 : Bool)
    (s : State) : Host.Outcome State Fault Refusal :=
  .next (callArrive p g call (.report rank absent kind elems out32) s)

/-- COLL_VERDICT_RECEIVE: GO, or ABSENT with its ranks (R362). -/
def execCollVerdictReceive (p : Inbound) (g call : Nat) (absent : List Nat) (s : State) :
    Host.Outcome State Fault Refusal := .next (callArrive p g call (.verdict absent) s)

/-- COLL_DATA_CHUNK_RECEIVE (R362). -/
def execCollDataChunkReceive (p : Inbound) (g call rank chunk : Nat) (data : List (BitVec 32)) (s : State) :
    Host.Outcome State Fault Refusal := .next (callArrive p g call (.chunk rank chunk data) s)

/-- COLL_FAULT_NOTICE: the call completes with FAULT (R359). -/
def execCollFaultNotice (p : Inbound) (g call : Nat) (mismatch : Bool) (s : State) : Host.Outcome State Fault Refusal :=
  .next (callArrive p g call (.fault mismatch) s)

/-- CROT_BLOCK_RECEIVE: a rotated block, with the hash and the steps of its call and its origin (R363). -/
def execCrotBlockReceive (p : Inbound) (grp : GroupName) (call : Nat) (block : Rotated) (s : State) :
    Host.Outcome State Fault Refusal := .next (callArrive p grp.g call (.block grp.hash block.steps block.origin block.data) s)

/-- CROT_ABORT_RECEIVE: the rotation completes with ABSENT (R363). -/
def execCrotAbortReceive (p : Inbound) (g call : Nat) (absent : List Nat) (s : State) :
    Host.Outcome State Fault Refusal := .next (callArrive p g call (.abort absent) s)

/-! ### Entries (R365, R375, R380) -/

/-- A relay is acknowledged or its member is absent: a receipt whose last relay it was is acknowledged (R365). -/
def relayDone (id : PktId) (s : State) : State :=
  let rs := s.dev.receipts.map (fun r => { r with left := r.left.filter (· ≠ id) })
  (rs.filter (fun r => r.left.isEmpty)).foldl (fun x r => answerFirst { src := r.src, epoch := r.epoch, path := r.path, seq := r.seq, ctx := 0 } true x)
    (mapDev (fun d => { d with receipts := rs.filter (fun r => !r.left.isEmpty) }) s)

/-- An entry from another device: checked, placed and relayed; it is acknowledged at once or once its relays are, and answered by
a fault response as R375 says (R365). -/
def entryArrive (p : Inbound) (entry : List Byte) (original : Bool) (s : State) : State :=
  let m := markOf s p.src 7 p.epoch p.path
  if m.has p.seq then answerAgain p m s
  else if s.dev.receipts.any (fun r => decide (r.src = p.src ∧ r.epoch = p.epoch ∧ r.path = p.path ∧ r.seq = p.seq)) then s
  else if m.c + 64 ≤ p.seq then notice 2 p.src 7 s.dev.fdevid.toNat p.epoch p.path p.seq s
  else if !ctxValid s p.ctx then answerFirst p false s
  else
    if entryHeld p.ctx (fit 32 entry) s then claimEntry p.ctx (fit 32 entry) s
    else
    let r := logReceive p.ctx (fit 32 entry) original s
    if r.2.1.isEmpty then answerFirst p (!(decide (r.1 = 3) || decide (r.1 = 4) || decide (6 ≤ r.1))) r.2.2
    else mapDev (fun d => { d with
      receipts := d.receipts ++ [{ src := p.src, epoch := p.epoch, path := p.path, seq := p.seq, left := r.2.1 }] }) r.2.2

/-- LOG_RECEIVE: a pair entry or a relay from another device (R365). -/
def execLogReceive (p : Inbound) (entry : List (BitVec 8)) (original : Bool) (s : State) : Host.Outcome State Fault Refusal :=
  .next (entryArrive p entry original s)

/-- The answer to a LOGPULL request: the entry, or NOTHELD with whether the step is no longer kept. A device without the context or the log
holds no entry (R380). -/
def pullAnswer (ctx dev adm step slot : Nat) (s : State) : State :=
  let l := logOf s ctx
  let here := ctxValid s ctx && l.live
  match (if here then entryOf s l step slot else none) with
  | some e => send { vc := 3, kind := 2, dst := dev, args := [ctx, adm, step, slot, 1, 0], data := e } s
  | none => send { vc := 3, kind := 2, dst := dev, args := [ctx, adm, step, slot, 0, b2n (here && decide (step ≤ l.applied))], data := [] } s

/-- LOGPULL_REQUEST_RECEIVE; a duplicate is answered again (R351, R380). -/
def execLogpullRequestReceive (p : Inbound) (adm step slot : Nat) (s : State) : Host.Outcome State Fault Refusal :=
  .next (
      let m := markOf s p.src 7 p.epoch p.path
      if !m.has p.seq ∧ m.c + 64 ≤ p.seq then notice 2 p.src 7 s.dev.fdevid.toNat p.epoch p.path p.seq s
      else pullAnswer p.ctx p.src adm step slot (if m.has p.seq then s else putMark (m.arrived p.seq (Resp.plain true [])) s))

/-- The command of a context that asked for a position: of the bound task, or of a pre-empted one. -/
def pullerOf (s : State) (ctx adm : Nat) : Option CollTo :=
  let asks (k : CellState) : Bool := decide (k.task.ctx = ctx) && k.colls.any (fun c => decide (c.adm = adm) && decide (c.kind = 3) && c.started)
  if s.cell.bound && asks s.cell then some (.cmd s.cell.task.q s.cell.task.num adm)
  else (s.dev.saved.find? (fun x => asks x.cell)).map (fun x => .cmd x.q x.num adm)

/-- LOGPULL_ANSWER_RECEIVE (R380). -/
def execLogpullAnswerReceive (ctx adm step slot : Nat) (answer : Option (List (BitVec 8))) (gone : Bool) (s : State) :
    Host.Outcome State Fault Refusal :=
  .next (match pullerOf s ctx adm with
    | none => s
    | some cmd => collTake cmd (.pulled step slot answer gone) s)

/-! ### Packets that fail or are acknowledged (R353, R359) -/

/-- A packet of the collective port has failed. Rank 0's verdict that cannot reach a member makes rank 0 send FAULT to every other
member, though its command has left the port (R362). -/
def cargoLost (id : PktId) (g : Cargo) (s : State) : State :=
  match g.owner with
  | none => relayDone id s
  | some (q, num, adm) =>
    let s1 := if g.vc = 2 ∧ g.kind = 2 ∧ g.ref.rank = 0 then faultNotices g.owner g.ref false [g.rank] s else s
    collTake (.cmd q num adm) (.lost g.vc g.kind g.rank) s1

/-- A packet of the collective port is acknowledged. -/
def cargoAcked (id : PktId) (g : Cargo) (s : State) : State :=
  match g.owner with
  | none => relayDone id s
  | some (q, num, adm) => collTake (.cmd q num adm) (.acked g.vc g.kind g.rank) s

end Sys2Proof.Machine
end

