-- ==== Sys2Proof/Machine/Flags.lean ====
section
/-! DEFINITION. Comparison results and the other values that a machine with a flag register would keep in flags. The LN-9072
has no flag register: "The ALU group has no flags and no traps" (spec/04_reeve.md R79); a comparison writes 1 or 0 to its
destination, the branches test a register (R95), and the only flags are the three of a sync word (spec/10_engines.md R233).
-/

namespace Sys2Proof.Machine

open Sys2Proof

/-- 1 if equal, else 0 (R79). -/
def flagEq (a b : Word) : Word := bw (decide (a = b))

/-- 1 if not equal, else 0 (R79). -/
def flagNe (a b : Word) : Word := bw (decide (a ≠ b))

/-- 1 if less as signed, else 0 (R79). -/
def flagLt (a b : Word) : Word := bw (a.slt b)

/-- 1 if less as unsigned, else 0 (R79). -/
def flagLtn (a b : Word) : Word := bw (a.ult b)

/-- Whether a value is below zero as signed (R95). -/
def isNeg (a : Word) : Bool := a.getLsbD 63

end Sys2Proof.Machine
end

