-- ==== Sys2Proof/Machine/ReeveAlu.lean ====
section
/-! DEFINITION. The scalar arithmetic of the Reeve: the ALU group, multiply and divide, immediates and constants
(spec/04_reeve.md R77, R79 to R82). -/

namespace Sys2Proof.Machine

open Sys2Proof

/-- The number of a shift: b[5:0] (R79). -/
def shAmt (b : Word) : Nat := b.toNat % 64

/-- Signed minimum (R79). -/
def minS (a b : Word) : Word := if a.slt b then a else b

/-- Signed maximum (R79). -/
def maxS (a b : Word) : Word := if a.slt b then b else a

/-- Unsigned minimum (R79). -/
def minU (a b : Word) : Word := if a.ult b then a else b

/-- Unsigned maximum (R79). -/
def maxU (a b : Word) : Word := if a.ult b then b else a

/-- Bits [127:64] of a product (R80). -/
def hiWord (p : Int) : Word := w64 (p / 2 ^ 64)

/-- The signed quotient, truncated toward zero; -1 for a zero divisor (R80). -/
def divS (a b : Word) : Word := if b = 0 then -1 else w64 (a.toInt.tdiv b.toInt)

/-- The unsigned quotient; all ones for a zero divisor (R80). -/
def divU (a b : Word) : Word := if b = 0 then -1 else BitVec.ofNat 64 (a.toNat / b.toNat)

/-- The signed remainder; the dividend for a zero divisor (R80). -/
def remS (a b : Word) : Word := if b = 0 then a else w64 (a.toInt.tmod b.toInt)

/-- The unsigned remainder; the dividend for a zero divisor (R80). -/
def remU (a b : Word) : Word := if b = 0 then a else BitVec.ofNat 64 (a.toNat % b.toNat)

/-- ADD: a + b (R79). -/
def execAdd (_y : Bool) (w : BitVec 2) (d a b : BitVec 5) (s : State) :
    Host.Outcome State Fault Refusal :=
  .next (writeWord 1 w d [a, b] (fun s => rd s a + rd s b) s)

/-- SUB: a - b (R79). -/
def execSub (_y : Bool) (w : BitVec 2) (d a b : BitVec 5) (s : State) :
    Host.Outcome State Fault Refusal :=
  .next (writeWord 1 w d [a, b] (fun s => rd s a - rd s b) s)

/-- AND (R79). -/
def execAnd (_y : Bool) (w : BitVec 2) (d a b : BitVec 5) (s : State) :
    Host.Outcome State Fault Refusal :=
  .next (writeWord 1 w d [a, b] (fun s => rd s a &&& rd s b) s)

/-- OR (R79). -/
def execOr (_y : Bool) (w : BitVec 2) (d a b : BitVec 5) (s : State) :
    Host.Outcome State Fault Refusal :=
  .next (writeWord 1 w d [a, b] (fun s => rd s a ||| rd s b) s)

/-- XOR (R79). -/
def execXor (_y : Bool) (w : BitVec 2) (d a b : BitVec 5) (s : State) :
    Host.Outcome State Fault Refusal :=
  .next (writeWord 1 w d [a, b] (fun s => rd s a ^^^ rd s b) s)

/-- ANDN: a AND NOT b (R79). -/
def execAndn (_y : Bool) (w : BitVec 2) (d a b : BitVec 5) (s : State) :
    Host.Outcome State Fault Refusal :=
  .next (writeWord 1 w d [a, b] (fun s => rd s a &&& ~~~ rd s b) s)

/-- SHL (R79). -/
def execShl (_y : Bool) (w : BitVec 2) (d a b : BitVec 5) (s : State) :
    Host.Outcome State Fault Refusal :=
  .next (writeWord 1 w d [a, b] (fun s => rd s a <<< shAmt (rd s b)) s)

/-- SHRL: zeros shifted in (R79). -/
def execShrl (_y : Bool) (w : BitVec 2) (d a b : BitVec 5) (s : State) :
    Host.Outcome State Fault Refusal :=
  .next (writeWord 1 w d [a, b] (fun s => rd s a >>> shAmt (rd s b)) s)

/-- SHRA: copies of a[63] shifted in (R79). -/
def execShra (_y : Bool) (w : BitVec 2) (d a b : BitVec 5) (s : State) :
    Host.Outcome State Fault Refusal :=
  .next (writeWord 1 w d [a, b] (fun s => (rd s a).sshiftRight (shAmt (rd s b))) s)

/-- ROTL (R79). -/
def execRotl (_y : Bool) (w : BitVec 2) (d a b : BitVec 5) (s : State) :
    Host.Outcome State Fault Refusal :=
  .next (writeWord 1 w d [a, b] (fun s => (rd s a).rotateLeft (shAmt (rd s b))) s)

/-- MIN: signed minimum (R79). -/
def execMin (_y : Bool) (w : BitVec 2) (d a b : BitVec 5) (s : State) :
    Host.Outcome State Fault Refusal :=
  .next (writeWord 1 w d [a, b] (fun s => minS (rd s a) (rd s b)) s)

/-- MAX: signed maximum (R79). -/
def execMax (_y : Bool) (w : BitVec 2) (d a b : BitVec 5) (s : State) :
    Host.Outcome State Fault Refusal :=
  .next (writeWord 1 w d [a, b] (fun s => maxS (rd s a) (rd s b)) s)

/-- MINN: unsigned minimum (R79). -/
def execMinn (_y : Bool) (w : BitVec 2) (d a b : BitVec 5) (s : State) :
    Host.Outcome State Fault Refusal :=
  .next (writeWord 1 w d [a, b] (fun s => minU (rd s a) (rd s b)) s)

/-- MAXN: unsigned maximum (R79). -/
def execMaxn (_y : Bool) (w : BitVec 2) (d a b : BitVec 5) (s : State) :
    Host.Outcome State Fault Refusal :=
  .next (writeWord 1 w d [a, b] (fun s => maxU (rd s a) (rd s b)) s)

/-- CMPEQ (R79). -/
def execCmpeq (_y : Bool) (w : BitVec 2) (d a b : BitVec 5) (s : State) :
    Host.Outcome State Fault Refusal :=
  .next (writeWord 1 w d [a, b] (fun s => flagEq (rd s a) (rd s b)) s)

/-- CMPNE (R79). -/
def execCmpne (_y : Bool) (w : BitVec 2) (d a b : BitVec 5) (s : State) :
    Host.Outcome State Fault Refusal :=
  .next (writeWord 1 w d [a, b] (fun s => flagNe (rd s a) (rd s b)) s)

/-- CMPLT: signed (R79). -/
def execCmplt (_y : Bool) (w : BitVec 2) (d a b : BitVec 5) (s : State) :
    Host.Outcome State Fault Refusal :=
  .next (writeWord 1 w d [a, b] (fun s => flagLt (rd s a) (rd s b)) s)

/-- CMPLTN: unsigned (R79). -/
def execCmpltn (_y : Bool) (w : BitVec 2) (d a b : BitVec 5) (s : State) :
    Host.Outcome State Fault Refusal :=
  .next (writeWord 1 w d [a, b] (fun s => flagLtn (rd s a) (rd s b)) s)

/-- CLZ: leading zero bits, 0 to 64 (R79). -/
def execClz (_y : Bool) (w : BitVec 2) (d a : BitVec 5) (s : State) :
    Host.Outcome State Fault Refusal :=
  .next (writeWord 1 w d [a] (fun s => BitVec.ofNat 64 (clzNat 64 (rd s a).toNat)) s)

/-- POPC: set bits, 0 to 64 (R79). -/
def execPopc (_y : Bool) (w : BitVec 2) (d a : BitVec 5) (s : State) :
    Host.Outcome State Fault Refusal :=
  .next (writeWord 1 w d [a] (fun s => BitVec.ofNat 64 (popNat 64 (rd s a).toNat)) s)

/-- SEL: b when a is not 0, else d; it reads d (R79). -/
def execSel (_y : Bool) (w : BitVec 2) (d a b : BitVec 5) (s : State) :
    Host.Outcome State Fault Refusal :=
  .next (writeWord 1 w d [a, b, d] (fun s => if rd s a = 0 then rd s d else rd s b) s)

/-- MUL: bits [63:0] of the product (R80). -/
def execMul (_y : Bool) (w : BitVec 2) (d a b : BitVec 5) (s : State) :
    Host.Outcome State Fault Refusal :=
  .next (writeWord 3 w d [a, b] (fun s => rd s a * rd s b) s)

/-- MULH: bits [127:64] of the signed product (R80). -/
def execMulh (_y : Bool) (w : BitVec 2) (d a b : BitVec 5) (s : State) :
    Host.Outcome State Fault Refusal :=
  .next (writeWord 3 w d [a, b] (fun s => hiWord ((rd s a).toInt * (rd s b).toInt)) s)

/-- MULHN: bits [127:64] of the unsigned product (R80). -/
def execMulhn (_y : Bool) (w : BitVec 2) (d a b : BitVec 5) (s : State) :
    Host.Outcome State Fault Refusal :=
  .next (writeWord 3 w d [a, b] (fun s => hiWord (((rd s a).toNat * (rd s b).toNat : Nat) : Int)) s)

/-- DIV: signed quotient (R80). -/
def execDiv (_y : Bool) (w : BitVec 2) (d a b : BitVec 5) (s : State) :
    Host.Outcome State Fault Refusal :=
  .next (writeWord 34 w d [a, b] (fun s => divS (rd s a) (rd s b)) s)

/-- DIVN: unsigned quotient (R80). -/
def execDivn (_y : Bool) (w : BitVec 2) (d a b : BitVec 5) (s : State) :
    Host.Outcome State Fault Refusal :=
  .next (writeWord 34 w d [a, b] (fun s => divU (rd s a) (rd s b)) s)

/-- REM: signed remainder (R80). -/
def execRem (_y : Bool) (w : BitVec 2) (d a b : BitVec 5) (s : State) :
    Host.Outcome State Fault Refusal :=
  .next (writeWord 34 w d [a, b] (fun s => remS (rd s a) (rd s b)) s)

/-- REMN: unsigned remainder (R80). -/
def execRemn (_y : Bool) (w : BitVec 2) (d a b : BitVec 5) (s : State) :
    Host.Outcome State Fault Refusal :=
  .next (writeWord 34 w d [a, b] (fun s => remU (rd s a) (rd s b)) s)

/-- ADDI: a + imm (R81). -/
def execAddi (_y : Bool) (w : BitVec 2) (d a : BitVec 5) (i : BitVec 13) (s : State) :
    Host.Outcome State Fault Refusal :=
  .next (writeWord 1 w d [a] (fun s => rd s a + simm13 i) s)

/-- ANDI (R81). -/
def execAndi (_y : Bool) (w : BitVec 2) (d a : BitVec 5) (i : BitVec 13) (s : State) :
    Host.Outcome State Fault Refusal :=
  .next (writeWord 1 w d [a] (fun s => rd s a &&& simm13 i) s)

/-- ORI (R81). -/
def execOri (_y : Bool) (w : BitVec 2) (d a : BitVec 5) (i : BitVec 13) (s : State) :
    Host.Outcome State Fault Refusal :=
  .next (writeWord 1 w d [a] (fun s => rd s a ||| simm13 i) s)

/-- XORI (R81). -/
def execXori (_y : Bool) (w : BitVec 2) (d a : BitVec 5) (i : BitVec 13) (s : State) :
    Host.Outcome State Fault Refusal :=
  .next (writeWord 1 w d [a] (fun s => rd s a ^^^ simm13 i) s)

/-- CMPEQI (R81). -/
def execCmpeqi (_y : Bool) (w : BitVec 2) (d a : BitVec 5) (i : BitVec 13) (s : State) :
    Host.Outcome State Fault Refusal :=
  .next (writeWord 1 w d [a] (fun s => flagEq (rd s a) (simm13 i)) s)

/-- CMPLTI: signed (R81). -/
def execCmplti (_y : Bool) (w : BitVec 2) (d a : BitVec 5) (i : BitVec 13) (s : State) :
    Host.Outcome State Fault Refusal :=
  .next (writeWord 1 w d [a] (fun s => flagLt (rd s a) (simm13 i)) s)

/-- SHLI (R81). -/
def execShli (_y : Bool) (w : BitVec 2) (d a : BitVec 5) (i : BitVec 6) (s : State) :
    Host.Outcome State Fault Refusal :=
  .next (writeWord 1 w d [a] (fun s => rd s a <<< i.toNat) s)

/-- SHRLI: logical (R81). -/
def execShrli (_y : Bool) (w : BitVec 2) (d a : BitVec 5) (i : BitVec 6) (s : State) :
    Host.Outcome State Fault Refusal :=
  .next (writeWord 1 w d [a] (fun s => rd s a >>> i.toNat) s)

/-- SHRAI: arithmetic (R81). -/
def execShrai (_y : Bool) (w : BitVec 2) (d a : BitVec 5) (i : BitVec 6) (s : State) :
    Host.Outcome State Fault Refusal :=
  .next (writeWord 1 w d [a] (fun s => (rd s a).sshiftRight i.toNat) s)

/-- LIMM: the sign-extended immediate (R82). -/
def execLimm (_y : Bool) (w : BitVec 2) (d : BitVec 5) (i : BitVec 18) (s : State) :
    Host.Outcome State Fault Refusal :=
  .next (writeWord 1 w d [] (fun _ => simm18 i) s)

/-- LIMMS: d shifted left by 18, with the immediate below; it reads d (R82). -/
def execLimms (_y : Bool) (w : BitVec 2) (d : BitVec 5) (i : BitVec 18) (s : State) :
    Host.Outcome State Fault Refusal :=
  .next (writeWord 1 w d [d] (fun s => (rd s d <<< 18) ||| i.setWidth 64) s)

end Sys2Proof.Machine
end

