-- ==== Sys2Proof/Machine/ReeveMem.lean ====
section
/-! DEFINITION. Loads, stores, atomics, queue alignment, fences, branches and tables of the Reeve
(spec/04_reeve.md R85 to R96; spec/09_scratchpad.md R202; spec/15_ordering.md R299 to R302). -/

namespace Sys2Proof.Machine

open Sys2Proof

/-! ### Control window (R202) -/

/-- Bits of an attribute entry that a write reaches; the others are reserved (R200). -/
def spaWritable : BitVec 32 := 0xFFFF07F1#32

/-- The entry that a control-window access of a cluster names: supervisor mode and a size of 4 only. -/
def controlEntry (k : Cluster) (size off : Nat) : Option Nat :=
  if k.sup ∧ size = 4 then some (128 * ownPos + off / 4) else none

/-! ### Loads and stores -/

/-- The queues of a strongly ordered access must be empty before it (R301). -/
def mustAlign (k : Cluster) (mt : Nat) : Bool := decide (mt = 3) && !queuesEmpty k

/-- Puts a load into the cluster's load queue. -/
def pushLoad (d : BitVec 5) (size : Nat) (sext : Bool) (loc mt : Nat) (s : State) : State :=
  mapClus s.cur (fun k => { k with
    loads := k.loads ++ [{ dest := d, size, sext, loc, dev := decide (2 ≤ mt), seq := k.seqCtr }], seqCtr := k.seqCtr + 1 }) s

/-- Puts a store into the cluster's store queue; an STF is a barrier before what follows (R301). -/
def pushStore (stf : Bool) (loc mt : Nat) (bs : List Byte) (s : State) : State :=
  let entry (k : Cluster) : StoreEnt :=
    { q := s.cur.val, grp := k.seqCtr, wc := decide (mt = 1) && !stf, dev := decide (2 ≤ mt), seq := k.seqCtr, stf, seen := [],
      bar := k.bar, vis := 0, cells := cellsAt loc bs }
  mapClus s.cur (fun k => { k with stores := k.stores ++ [entry k], seqCtr := k.seqCtr + 1, bar := k.bar + b2n stf }) s

/-- The register value of loaded bytes: zero-extended, or sign-extended (R85). -/
def extend (size : Nat) (sext : Bool) (v : Nat) : Word := if sext then w64 (sx v (8 * size)) else BitVec.ofNat 64 v

/-- A load of `size` bytes (R85 to R87). -/
def loadWord (size : Nat) (sext : Bool) (w : BitVec 2) (d a : BitVec 5) (i : BitVec 13) (s : State) : State :=
  reeve [a] [d] (fun s =>
    let ea := effAddr (rd s a) i
    if !aligned ea size then trapHere cMisdata ea s
    else
      match spaceOf ea with
      | .glob dev va =>
        globalRequest 0 size dev va [] ea (fun x s =>
          giveResult s.cur 1 d (extend size sext (leNat x.bs)) (!x.pois.isEmpty) (advance w s)) s
      | .control off =>
        (match controlEntry (clus s s.cur) size off with
         | some k => putResult 1 d (extend size sext (sget 0 s.cell.spa k).toNat) (advance w s)
         | none => trapHere cAccess ea s)
      | _ =>
        match xl s.cur.val (clus s s.cur).sup .read ea s with
        | .wait s' => holdMiss s.cur.val s'
        | .deny s' => trapHere cAccess ea s'
        | .ok loc at_ =>
          if mustAlign (clus s s.cur) at_.mt then holdWith .waiting .fence s
          else alignAfter (decide (at_.mt = 3)) (pushLoad d size sext loc at_.mt (advance w s))) s

/-- Whether an STF to a device may go: an STF that names the own device in global form follows the cluster's local stores
(R88). -/
def stfReady (stf : Bool) (dev : Nat) (s : State) : Bool :=
  !stf || decide (dev ≠ s.dev.fdevid.toNat) ||
    ((clus s s.cur).stores.isEmpty && visibleAt 3 s.cur.val s)

/-- A store of `size` bytes; `stf` marks the ordered flag (R85 to R88). -/
def storeWord (size : Nat) (stf : Bool) (w : BitVec 2) (v a : BitVec 5) (o : BitVec 13) (s : State) : State :=
  reeve [v, a] [] (fun s =>
    let ea := effAddr (rd s a) o
    let bs := leBytes size (rd s v).toNat
    if !aligned ea size then trapHere cMisdata ea s
    else
      match spaceOf ea with
      | .glob dev va =>
        if !stfReady stf dev s then holdWith .waiting .fence s
        else
          (match sendPacket s.cur.val dev (if stf then 2 else 1) size (clus s s.cur).sup va bs 0 s with
           | none => holdWith .waiting .none s
           | some (_, s') => advance w s')
      | .control off =>
        (match controlEntry (clus s s.cur) size off with
         | some k =>
           mapCell (fun c => { c with spa := sset 0 c.spa k (BitVec.ofNat 32 (leNat bs) &&& spaWritable) }) (advance w s)
         | none => trapHere cAccess ea s)
      | _ =>
        match xl s.cur.val (clus s s.cur).sup .write ea s with
        | .wait s' => holdMiss s.cur.val s'
        | .deny s' => trapHere cAccess ea s'
        | .ok loc at_ =>
          if mustAlign (clus s s.cur) at_.mt then holdWith .waiting .fence s
          else alignAfter (decide (at_.mt = 3)) (pushStore stf loc at_.mt bs (advance w s))) s

/-! ### Atomics (R90 to R92, R302) -/

/-- Kinds of an atomic, as fn[3:0] numbers them; 9 is CAS. -/
def atomicNew (kind bits old b exp : Nat) : Nat :=
  let m := 2 ^ bits
  let s (x : Nat) : Int := sx x bits
  match kind with
  | 0 => (old + b) % m
  | 1 => old &&& b
  | 2 => old ||| b
  | 3 => old ^^^ b
  | 4 => if s b < s old then b else old
  | 5 => if s old < s b then b else old
  | 6 => if b < old then b else old
  | 7 => if old < b then b else old
  | 8 => b
  | _ => if old = exp then b else old

/-- AMO or CAS: performed at the home of its location in one instant, between two realignments of the queues, and on a device page
after the cluster's earlier device stores; d receives the old value (R90 to R92, R301, R302), with its poison (R89). -/
def atomicWord (kind : Nat) (w : BitVec 2) (d a b : BitVec 5) (z : Bool) (s : State) : State :=
  reeve (if kind = 9 then [a, b, d] else [a, b]) [d] (fun s =>
    let size := if z then 8 else 4
    let ea := rd s a
    let bv := (rd s b).toNat % 2 ^ (8 * size)
    let ex := (rd s d).toNat % 2 ^ (8 * size)
    if !aligned ea size then trapHere cMisdata ea s
    else
      match spaceOf ea with
      | .glob dev va =>
        if !queuesEmpty (clus s s.cur) then holdWith .waiting .fence s
        else
          globalRequest 3 (size + 16 * kind) dev va (leBytes 8 bv ++ leBytes 8 ex) ea (fun x s =>
            alignAfter true (giveResult s.cur 1 d (BitVec.ofNat 64 (leNat x.bs)) (!x.pois.isEmpty) (advance w s))) s
      | _ =>
        match xl s.cur.val (clus s s.cur).sup .atomic ea s with
        | .wait s' => holdMiss s.cur.val s'
        | .deny s' => trapHere cAccess ea s'
        | .ok loc at_ =>
          if at_.mt = 1 then trapHere cWcAtomic ea s
          else if !queuesEmpty (clus s s.cur) ∨ overlapsPending s loc size ∨ captureHolds s loc ∨ (2 ≤ at_.mt ∧ !deviceClear s) then
            holdWith .waiting .fence (claimPages [loc] s)
          else
            let old := homeNat s loc size
            let p := poisoned s loc size
            let s1 := taskWrite (cellsAt loc (leBytes size (atomicNew kind (8 * size) old bv ex))) (advance w s)
            alignAfter true (giveResult s.cur 1 d (BitVec.ofNat 64 old) p s1)) s

/-! ### Alignment and fences -/

/-- A fence of a scope: the word holds until its conditions are met (R94). -/
def fenceWord (scope : Nat) (w : BitVec 2) (s : State) : State :=
  reeve [] [] (fun s => if fenceMet scope s.cur s then passFence scope (advance w s) else holdWith .waiting .fence s) s

/-! ### Branches -/

/-- The misaligned-fetch fault at a branch target, after the branch itself has taken effect (R48, R95, R96). -/
def badTarget (t : Word) (s : State) : State := { takeTrap s.cur cMisfetch 0 (t.setWidth 48) t s with trapped := false }

/-- A branch on a register (R95). -/
def branchWord (w : BitVec 2) (reads : List (BitVec 5)) (taken : State → Bool) (target : BitVec 48 → BitVec 48) (s : State) :
    State :=
  reeve reads [] (fun s =>
    if taken s then mapClus s.cur (fun k => { k with pc := target k.pc }) (issue w s) else advance w s) s

/-- LDB: 1 byte, zero-extended (R85). -/
def execLdb (_y : Bool) (w : BitVec 2) (d a : BitVec 5) (i : BitVec 13) (s : State) : Host.Outcome State Fault Refusal :=
  .next (loadWord 1 false w d a i s)

/-- LDH: 2 bytes, zero-extended (R85). -/
def execLdh (_y : Bool) (w : BitVec 2) (d a : BitVec 5) (i : BitVec 13) (s : State) : Host.Outcome State Fault Refusal :=
  .next (loadWord 2 false w d a i s)

/-- LDW: 4 bytes, zero-extended (R85). -/
def execLdw (_y : Bool) (w : BitVec 2) (d a : BitVec 5) (i : BitVec 13) (s : State) : Host.Outcome State Fault Refusal :=
  .next (loadWord 4 false w d a i s)

/-- LDD: 8 bytes, zero-extended (R85). -/
def execLdd (_y : Bool) (w : BitVec 2) (d a : BitVec 5) (i : BitVec 13) (s : State) : Host.Outcome State Fault Refusal :=
  .next (loadWord 8 false w d a i s)

/-- LDWS: 4 bytes, sign-extended (R85). -/
def execLdws (_y : Bool) (w : BitVec 2) (d a : BitVec 5) (i : BitVec 13) (s : State) : Host.Outcome State Fault Refusal :=
  .next (loadWord 4 true w d a i s)

/-- STB: 1 byte (R85). -/
def execStb (_y : Bool) (w : BitVec 2) (v a : BitVec 5) (o : BitVec 13) (s : State) : Host.Outcome State Fault Refusal :=
  .next (storeWord 1 false w v a o s)

/-- STH: 2 bytes (R85). -/
def execSth (_y : Bool) (w : BitVec 2) (v a : BitVec 5) (o : BitVec 13) (s : State) : Host.Outcome State Fault Refusal :=
  .next (storeWord 2 false w v a o s)

/-- STW: 4 bytes (R85). -/
def execStw (_y : Bool) (w : BitVec 2) (v a : BitVec 5) (o : BitVec 13) (s : State) : Host.Outcome State Fault Refusal :=
  .next (storeWord 4 false w v a o s)

/-- STD: 8 bytes (R85). -/
def execStd (_y : Bool) (w : BitVec 2) (v a : BitVec 5) (o : BitVec 13) (s : State) : Host.Outcome State Fault Refusal :=
  .next (storeWord 8 false w v a o s)

/-- STF: 8 bytes, the ordered flag (R88). -/
def execStf (_y : Bool) (w : BitVec 2) (v a : BitVec 5) (o : BitVec 13) (s : State) : Host.Outcome State Fault Refusal :=
  .next (storeWord 8 true w v a o s)

/-- AMO.ADD (R90). -/
def execAmoAdd (_y : Bool) (w : BitVec 2) (d a b : BitVec 5) (z : Bool) (s : State) : Host.Outcome State Fault Refusal :=
  .next (atomicWord 0 w d a b z s)

/-- AMO.AND (R90). -/
def execAmoAnd (_y : Bool) (w : BitVec 2) (d a b : BitVec 5) (z : Bool) (s : State) : Host.Outcome State Fault Refusal :=
  .next (atomicWord 1 w d a b z s)

/-- AMO.OR (R90). -/
def execAmoOr (_y : Bool) (w : BitVec 2) (d a b : BitVec 5) (z : Bool) (s : State) : Host.Outcome State Fault Refusal :=
  .next (atomicWord 2 w d a b z s)

/-- AMO.XOR (R90). -/
def execAmoXor (_y : Bool) (w : BitVec 2) (d a b : BitVec 5) (z : Bool) (s : State) : Host.Outcome State Fault Refusal :=
  .next (atomicWord 3 w d a b z s)

/-- AMO.MIN (R90). -/
def execAmoMin (_y : Bool) (w : BitVec 2) (d a b : BitVec 5) (z : Bool) (s : State) : Host.Outcome State Fault Refusal :=
  .next (atomicWord 4 w d a b z s)

/-- AMO.MAX (R90). -/
def execAmoMax (_y : Bool) (w : BitVec 2) (d a b : BitVec 5) (z : Bool) (s : State) : Host.Outcome State Fault Refusal :=
  .next (atomicWord 5 w d a b z s)

/-- AMO.MINN (R90). -/
def execAmoMinn (_y : Bool) (w : BitVec 2) (d a b : BitVec 5) (z : Bool) (s : State) : Host.Outcome State Fault Refusal :=
  .next (atomicWord 6 w d a b z s)

/-- AMO.MAXN (R90). -/
def execAmoMaxn (_y : Bool) (w : BitVec 2) (d a b : BitVec 5) (z : Bool) (s : State) : Host.Outcome State Fault Refusal :=
  .next (atomicWord 7 w d a b z s)

/-- AMO.SWAP (R90). -/
def execAmoSwap (_y : Bool) (w : BitVec 2) (d a b : BitVec 5) (z : Bool) (s : State) : Host.Outcome State Fault Refusal :=
  .next (atomicWord 8 w d a b z s)

/-- CAS (R91). -/
def execCas (_y : Bool) (w : BitVec 2) (d a b : BitVec 5) (z : Bool) (s : State) : Host.Outcome State Fault Refusal :=
  .next (atomicWord 9 w d a b z s)

/-- QALIGN: earlier loads are performed and earlier stores visible at cell scope (R93). -/
def execQalign (_y : Bool) (w : BitVec 2) (s : State) : Host.Outcome State Fault Refusal :=
  .next (fenceWord 0 w s)

/-- FENCE.CELL (R94). -/
def execFenceCell (_y : Bool) (w : BitVec 2) (s : State) : Host.Outcome State Fault Refusal :=
  .next (fenceWord 0 w s)

/-- FENCE.QUAD (R94). -/
def execFenceQuad (_y : Bool) (w : BitVec 2) (s : State) : Host.Outcome State Fault Refusal :=
  .next (fenceWord 1 w s)

/-- FENCE.DIE (R94). -/
def execFenceDie (_y : Bool) (w : BitVec 2) (s : State) : Host.Outcome State Fault Refusal :=
  .next (fenceWord 2 w s)

/-- FENCE.DEV (R94). -/
def execFenceDev (_y : Bool) (w : BitVec 2) (s : State) : Host.Outcome State Fault Refusal :=
  .next (fenceWord 3 w s)

/-- FENCE.SYS (R94). -/
def execFenceSys (_y : Bool) (w : BitVec 2) (s : State) : Host.Outcome State Fault Refusal :=
  .next (fenceWord 4 w s)

/-- FENCE.MS (R94). -/
def execFenceMs (_y : Bool) (w : BitVec 2) (s : State) : Host.Outcome State Fault Refusal :=
  .next (fenceWord 5 w s)

/-- BR (R95). -/
def execBr (_y : Bool) (w : BitVec 2) (o : BitVec 23) (s : State) : Host.Outcome State Fault Refusal :=
  .next (branchWord w [] (fun _ => true) (fun pc => branchTo pc o) s)

/-- BEQZ: branches if a = 0 (R95). -/
def execBeqz (_y : Bool) (w : BitVec 2) (a : BitVec 5) (o : BitVec 18) (s : State) : Host.Outcome State Fault Refusal :=
  .next (branchWord w [a] (fun s => decide (rd s a = 0)) (fun pc => branchTo pc o) s)

/-- BNEZ: branches if a is not 0 (R95). -/
def execBnez (_y : Bool) (w : BitVec 2) (a : BitVec 5) (o : BitVec 18) (s : State) : Host.Outcome State Fault Refusal :=
  .next (branchWord w [a] (fun s => decide (rd s a ≠ 0)) (fun pc => branchTo pc o) s)

/-- BLTZ: branches if a < 0 (R95). -/
def execBltz (_y : Bool) (w : BitVec 2) (a : BitVec 5) (o : BitVec 18) (s : State) : Host.Outcome State Fault Refusal :=
  .next (branchWord w [a] (fun s => isNeg (rd s a)) (fun pc => branchTo pc o) s)

/-- BGEZ: branches if a is 0 or more (R95). -/
def execBgez (_y : Bool) (w : BitVec 2) (a : BitVec 5) (o : BitVec 18) (s : State) : Host.Outcome State Fault Refusal :=
  .next (branchWord w [a] (fun s => !isNeg (rd s a)) (fun pc => branchTo pc o) s)

/-- CALL: s23 = PC + 4, and a branch (R95). -/
def execCall (_y : Bool) (w : BitVec 2) (o : BitVec 23) (s : State) : Host.Outcome State Fault Refusal :=
  .next (reeve [] [23] (fun s =>
    let pc := (clus s s.cur).pc
    setPc (branchTo pc o) (putResult 1 23 ((pc + 4).setWidth 64) (issue w s))) s)

/-- JR: PC = a[47:0]; a target that is not a multiple of 4, or with bits above 47, is a misaligned fetch at the target (R95,
R48). -/
def execJr (_y : Bool) (w : BitVec 2) (a : BitVec 5) (s : State) : Host.Outcome State Fault Refusal :=
  .next (reeve [a] [] (fun s =>
    let t := rd s a
    if t.toNat % 4 ≠ 0 ∨ nb t.toNat 48 16 ≠ 0 then badTarget t (issue w s)
    else setPc (t.setWidth 48) (issue w s)) s)

/-- JTAB: a branch through entry a of the table at d, or a fall-through (R96). A target with a bit above 47 is a misaligned fetch
as for JR (log 105). -/
def execJtab (_y : Bool) (w : BitVec 2) (d a : BitVec 5) (n : BitVec 8) (s : State) : Host.Outcome State Fault Refusal :=
  .next (reeve [d, a] [] (fun s =>
    let i := rd s a
    if n.toNat + 1 ≤ i.toNat then advance w s
    else
      let base := rd s d
      let ea := base + 4 * i
      if !aligned base 4 then trapHere cMisdata ea s
      else
        withBlock d ea 4 (fun bs s =>
          let t := base + w64 (sx (leNat bs) 32)
          if t.toNat % 4 ≠ 0 ∨ nb t.toNat 48 16 ≠ 0 then badTarget t (issue w s)
          else setPc (t.setWidth 48) (issue w s)) s) s)

end Sys2Proof.Machine
end

