-- ==== Sys2Proof/Machine/FabricDest.lean ====
section
/-! DEFINITION. Request packets at their destination: translation in the context of the issuer's id, performing each request
at most once, held flagged stores, duplicates, CANCEL and CLOSE (spec/06_vector_flow.md R156; spec/14_translation.md R281;
spec/15_ordering.md R297; spec/19_fabric.md R351 to R353). -/

namespace Sys2Proof.Machine

open Sys2Proof

/-! ### Translation at the destination (R281, R286) -/

/-- The location of a byte for a request: it never parks, and a translation that fails is a fault response. -/
def destXl (ctx : Nat) (sup : Bool) (k : Acc) (va : Nat) (s : State) : Option (Nat × Attr) :=
  if !ctxValid s ctx then none
  else
    match walkOf s ctx va with
    | .leaf _ e => if leafOk e sup k (tb (byteAt (ctxRecord s ctx) 58) 1) then some (leafLoc e va, leafAttr e) else none
    | _ => none

/-- The pieces of a range, one for each page, with their locations. -/
def destPieces (ctx : Nat) (sup : Bool) (k : Acc) (va n : Nat) (s : State) : Option (List (Nat × Nat)) :=
  (pagePieces (BitVec.ofNat 64 va) n).mapM (fun p =>
    (destXl ctx sup k (p.1.toNat % 2 ^ 48) s).map (fun x => (x.1, p.2)))

/-- The bytes of a range at their homes. -/
def destRead (ctx : Nat) (sup : Bool) (va n : Nat) (s : State) : Option (List Byte) :=
  (destPieces ctx sup .read va n s).map (fun ps => ps.flatMap (fun p => homeBytes s p.1 p.2))

/-- The places of the bytes of a response that come from poisoned locations: the marks travel with it (R397). -/
def poisonPlaces (locs : List Nat) (s : State) : List Nat :=
  (upTo locs.length).filter (fun i => match locs[i]? with | some l => poisoned s l 1 | none => false)

/-- The response to a load: the bytes of a range at their homes, with their marks (R281, R397). -/
def destLoad (ctx : Nat) (sup : Bool) (va n : Nat) (s : State) : Option Resp :=
  (destPieces ctx sup .read va n s).map (fun ps =>
    { ok := true, bs := ps.flatMap (fun p => homeBytes s p.1 p.2),
      pois := poisonPlaces (ps.flatMap (fun p => (upTo p.2).map (p.1 + ·))) s })

/-- The cells of a range with the bytes of a request. -/
def destCells (ctx : Nat) (sup : Bool) (va : Nat) (bs : List Byte) (s : State) : Option (List Host.Cell) :=
  (destPieces ctx sup .write va bs.length s).map (fun ps =>
    (ps.foldl (fun (acc : List Host.Cell × List Byte) p => (acc.1 ++ cellsAt p.1 (acc.2.take p.2), acc.2.drop p.2)) ([], bs)).1)

/-! ### Vector repeats (R154, R156) -/

/-- The virtual address as a global form, whose sums keep to 48 bits (R153). -/
def globForm (va : Nat) : Word := BitVec.ofNat 64 (2 ^ 62 + va % 2 ^ 48)

/-- The shape of a repeat from the page of its first byte, through the descriptors of the destination's context. -/
def destShape (ctx op t : Nat) (a : Attr) (s : State) : Option Shape :=
  if !a.fmt then some .raw
  else
    let d := descOf (vget (ctxOf s ctx).fd a.desc 0)
    if !fmtTypeOk op t || !d.valid then none else some (.narrow d.box (if perLane t = 2 then 2 else 1))

/-- A lane of a repeat: its byte addresses, its container bit and its locations; a page of another kind than the first byte's
is a fault. -/
def destLane (ctx : Nat) (k : Acc) (sh : Shape) (a : Attr) (va : Nat) (l : Nat) (s : State) :
    Option (List Word × Nat × List Nat) :=
  let p := laneAddrs sh (globForm va) l
  (p.1.mapM (fun w => destXl ctx false k (nb w.toNat 0 48) s)).bind (fun xs =>
    if xs.all (fun x => a.same x.2) then some (p.1, p.2, xs.map (·.1)) else none)

/-- The first page and the shape of a repeat. -/
def destRepeat (ctx op t : Nat) (k : Acc) (va : Nat) (s : State) : Option (Attr × Shape) :=
  (destXl ctx false k (va % 2 ^ 48) s).bind (fun x =>
    if !x.2.fmt && decide (va % 4 ≠ 0) then none else (destShape ctx op t x.2 s).map (fun sh => (x.2, sh)))

/-- The trap that a repeat meets though its bytes may be accessed, as its answer names it: misaligned data, or a format fault with the
descriptor index (R32, R154, log 132). -/
def repeatTrap (ctx op t : Nat) (k : Acc) (en : BitVec 64) (va : Nat) (s : State) : Option (List Byte) :=
  match destXl ctx false k (va % 2 ^ 48) s with
  | none => none
  | some x =>
    let format : List Byte := [BitVec.ofNat 8 cFormat, BitVec.ofNat 8 x.2.desc]
    if !x.2.fmt && decide (va % 4 ≠ 0) then some [BitVec.ofNat 8 cMisdata]
    else
      match destShape ctx op t x.2 s with
      | none => some format
      | some sh =>
        let pages := ((upTo 64).filter (fun l => enabled en l)).flatMap (fun l =>
          (laneAddrs sh (globForm va) l).1.map (fun w => destXl ctx false k (nb w.toNat 0 48) s))
        match pages.find? (fun y => match y with
          | some z => !x.2.same z.2
          | none => true) with
        | some (some _) => some format
        | _ => none

/-- The answer of a VLDG repeat: one byte with the formatted bit and the descriptor index, then the bytes of the repeat with their
marks; bytes of disabled lanes alone are not read. -/
def vldgAnswer (ctx t : Nat) (en : BitVec 64) (va : Nat) (s : State) : Option Resp :=
  (destRepeat ctx 0x7A t .read va s).bind (fun r =>
    let lanes := (upTo 64).filter (fun l => enabled en l)
    (lanes.mapM (fun l => destLane ctx .read r.2 r.1 va l s)).map (fun ls =>
      let place (w : Word) : Nat := (w.toNat + 2 ^ 48 - va % 2 ^ 48) % 2 ^ 48
      let read := ls.flatMap (fun x => x.1.zip x.2.2)
      let body := read.foldl (fun b p => lset b (place p.1) (memGet s.dev.mem p.2)) (zeros r.2.bytes)
      { ok := true, bs := BitVec.ofNat 8 (b2n r.1.fmt + 2 * r.1.desc) :: body,
        pois := (read.filter (fun p => poisoned s p.2 1)).map (fun p => place p.1 + 1) }))

/-- The cells that a VSTG repeat writes, and its byte count: raw lanes, or containers encoded with the destination's
descriptor, seed register and coordinates (R35, R156). -/
def vstgCells (ctx t : Nat) (en : BitVec 64) (va : Nat) (lanes : List Lane) (s : State) : Option (List Host.Cell × Nat) :=
  (destRepeat ctx 0x7B t .write va s).bind (fun r =>
    let c := ctxOf s ctx
    let fmt := if r.1.fmt then some (descOf (vget c.fd r.1.desc 0)) else none
    let named := (upTo 64).filter (fun l => enabled en l)
    (named.mapM (fun l => (destLane ctx .write r.2 r.1 va l s).map (fun x => (l, x)))).map (fun ls =>
      (ls.foldl (fun cells p =>
        let old := p.2.2.2.map (fun loc => ((cells.find? (fun c => decide (c.1 = loc))).map (·.2)).getD (memGet s.dev.mem loc))
        let bs := encodeLane fmt (vget c.ps 7 0) t (laneAt lanes p.1) p.2.1 p.2.2.1 old
        (p.2.2.2.zip bs).foldl (fun cs q => putCell cs q.1 q.2) cells) [], r.2.bytes)))

/-! ### Performing a request -/

/-- What performing a request gives. -/
inductive Perf where
  /-- performed, or refused: an answer with its bytes; that of a VSTG repeat is its byte count -/
  | done (r : Resp) (s : State)
  /-- a byte it writes waits for the capture of its page (R404) -/
  | later (s : State)

/-- The first byte of an access that fails meets a malformed entry: the walker records a translation error (R288, R390). -/
def walkError (ctx : Nat) (sup : Bool) (k : Acc) (touched : List Nat) (s : State) : State :=
  match touched.find? (fun a => (destXl ctx sup k a s).isNone) with
  | none => s
  | some a =>
    if !ctxValid s ctx then s
    else
      match walkOf s ctx a with
      | .malformed =>
        (raiseError { cls := 12, src := 12, addr := BitVec.ofNat 64 a, info := 0, eng := 0, cell := none, ctx } false s).2
      | _ => s

/-- A fault response, with the errors that the destination records: that of the walker where a byte of the access meets a
malformed entry, and that of the refused request (R281, R288, R390). -/
def destFault (ctx va : Nat) (sup : Bool) (k : Acc) (touched : List Nat) (s : State) : Perf :=
  .done (Resp.plain false []) (raiseError
    { cls := 10, src := 10, addr := BitVec.ofNat 64 va, info := 0, eng := 0, cell := none, ctx } false
    (walkError ctx sup k touched s)).2

/-- The first bytes of the pages of a range. -/
def rangeStarts (va n : Nat) : List Nat := (pagePieces (BitVec.ofNat 64 va) n).map (fun p => p.1.toNat % 2 ^ 48)

/-- The bytes that a vector repeat names: its first byte and those of its enabled lanes (R154). -/
def destRepeatBytes (ctx op t : Nat) (k : Acc) (en : BitVec 64) (va : Nat) (s : State) : List Nat :=
  let sh := match destRepeat ctx op t k va s with | some r => r.2 | none => .raw
  va % 2 ^ 48 :: ((upTo 64).filter (fun l => enabled en l)).flatMap (fun l =>
    (laneAddrs sh (globForm va) l).1.map (fun w => nb w.toNat 0 48))

/-- A request writes cells: one of the bound task's context counts among the stores that its instruction fetches may miss (R49). -/
def destPut (ctx : Nat) (cells : List Host.Cell) (s : State) : State :=
  if s.cell.bound ∧ ctx = s.cell.task.ctx then taskWrite cells s else homeWrite cells s

/-- Writes the cells of a request in one instant. -/
def destWrite (ctx : Nat) (cells : List Host.Cell) (r : Resp) (s : State) : Perf :=
  if cells.any (fun c => captureHolds s c.1) then .later (claimPages (cells.map (·.1)) s) else .done r (destPut ctx cells s)

/-- An atomic at its home: the old value is the answer with its mark; on a write-combining page it is not performed, and the
response names the trap that its issuer raises (R91, R92, R397, log 82). -/
def destAtomic (ctx : Nat) (sup : Bool) (va : Nat) (data : List Byte) (s : State) : Perf :=
  let size := nb (byteAt data 0) 0 4
  match destXl ctx sup .atomic va s with
  | none => destFault ctx va sup .atomic [va] s
  | some (loc, a) =>
    if a.mt = 1 then .done (Resp.plain false [BitVec.ofNat 8 cWcAtomic]) s
    else
      let old := homeNat s loc size
      destWrite ctx (cellsAt loc (leBytes size
        (atomicNew (nb (byteAt data 0) 4 4) (8 * size) old (leAt data 1 8 % 2 ^ (8 * size)) (leAt data 9 8 % 2 ^ (8 * size)))))
        { ok := true, bs := leBytes size old, pois := poisonPlaces ((upTo size).map (loc + ·)) s } s

/-- The lanes that a VSTG packet carries: those of its mask, in rising order (R366). -/
def sentLanes (en : BitVec 64) (bs : List Byte) : List Lane :=
  ((upTo 64).foldl (fun (acc : List Lane × List Byte) l =>
    if enabled en l then (acc.1 ++ [BitVec.ofNat 32 (leAt acc.2 0 4)], acc.2.drop 4) else (acc.1 ++ [0], acc.2)) ([], bs)).1

/-- A VSTG repeat that cannot be performed: its lanes are dropped and an error is recorded, and the answer names the trap where there is
one (R154, R156, log 132). -/
def vstgFault (ctx t : Nat) (en : BitVec 64) (va : Nat) (s : State) : Perf :=
  match destFault ctx va false .write (destRepeatBytes ctx 0x7B t .write en va s) s, repeatTrap ctx 0x7B t .write en va s with
  | .done _ s1, some bs => .done (Resp.plain false bs) s1
  | x, _ => x

/-- Performs a request of a kind (State.lean, Packet). A load's data give its size; an atomic's give size + 16 * operation, the
operand and the expected value; a vector repeat's give its type and its lane mask, and a VSTG's then its enabled lanes. -/
def perform (ctx : Nat) (sup : Bool) (kind va : Nat) (data : List Byte) (s : State) : Perf :=
  match kind with
  | 0 =>
    (match destLoad ctx sup va (leNat data) s with
     | some r => .done r s
     | none => destFault ctx va sup .read (rangeStarts va (leNat data)) s)
  | 3 => destAtomic ctx sup va data s
  | 4 =>
    let en := BitVec.ofNat 64 (leAt data 1 8)
    (match vldgAnswer ctx (byteAt data 0) en va s, repeatTrap ctx 0x7A (byteAt data 0) .read en va s with
     | some r, _ => .done r s
     | none, some bs => .done (Resp.plain false bs) s
     | none, none => destFault ctx va false .read (destRepeatBytes ctx 0x7A (byteAt data 0) .read en va s) s)
  | 5 =>
    let en := BitVec.ofNat 64 (leAt data 1 8)
    (match vstgCells ctx (byteAt data 0) en va (sentLanes en (data.drop 9)) s with
     | some p => destWrite ctx p.1 (Resp.plain true (leBytes 2 p.2)) s
     | none => vstgFault ctx (byteAt data 0) en va s)
  | _ =>
    match destCells ctx sup va data s with
    | some cells => destWrite ctx cells (Resp.plain true []) s
    | none => destFault ctx va sup .write (rangeStarts va data.length) s

/-! ### Arrival (R351, R352) -/

/-- Whether the marks of every path have reached the counts that a flagged store carries (R352). -/
def flagReady (s : State) (h : HeldFlag) : Bool :=
  (h.before.mapIdx (fun p n => decide (n ≤ (markOf s h.src h.q h.epoch p).c))).all id

/-- Performs the held flagged stores whose counts are reached, until none is. -/
def releaseFlags : Nat → State → State
  | 0, s => s
  | n + 1, s =>
    match s.dev.heldFlags.find? (flagReady s) with
    | none => s
    | some h =>
      match perform h.ctx h.sup 2 h.va h.data s with
      | .later s' => s'
      | .done a s1 =>
        releaseFlags n (respond h.src h.q h.epoch h.path h.seq a
          (putMark ((markOf s1 h.src h.q h.epoch h.path).arrived h.seq a)
            (mapDev (fun d => { d with heldFlags := d.heldFlags.filter (fun x => decide (x ≠ h)) }) s1)))

/-- Tries the held flagged stores. -/
def tryFlags (s : State) : State := releaseFlags s.dev.heldFlags.length s

/-- A read by a job of another cell or device claims the pages that are to be captured (R404). -/
def claimRead (ctx : Nat) (sup : Bool) (va n : Nat) (s : State) : State :=
  claimPages ((rangeStarts va n).filterMap (fun a => (destXl ctx sup .read a s).map (·.1))) s

/-- A request packet arrives: a duplicate is answered again, one beyond the window is refused, a flagged store whose counts are
not reached is held, and any other is performed and answered (R351, R352). -/
def packetArrive (src q ctx epoch path seq : Nat) (sup : Bool) (kind va : Nat) (data : List Byte) (sp : List Nat) (s : State) :
    State :=
  let m := markOf s src q epoch path
  if m.has seq then
    (match m.kept.find? (fun k => decide (k.1 = seq)) with
     | some (_, a) => respond src q epoch path seq a s
     | none => respond src q epoch path seq (Resp.plain true []) s)
  else if m.c + 64 ≤ seq then notice 2 src q s.dev.fdevid.toNat epoch path seq s
  else
    let h : HeldFlag := { src, q, epoch, path, seq, ctx, sup, va, data, before := sp }
    if kind = 2 then
      tryFlags (if s.dev.heldFlags.any (fun x => decide (x.src = src) && decide (x.q = q) && decide (x.epoch = epoch) &&
          decide (x.path = path) && decide (x.seq = seq)) then s
        else mapDev (fun d => { d with heldFlags := d.heldFlags ++ [h] }) s)
    else
      match perform ctx sup kind va data (if q = 6 ∧ kind = 0 then claimRead ctx sup va (leNat data) s else s) with
      | .later s' => s'
      | .done a s1 =>
        tryFlags (respond src q epoch path seq a (putMark (m.arrived seq a) s1))

/-- REQUEST_PACKET_ARRIVE (R351). -/
def execRequestPacketArrive (src q ctx epoch path seq : Nat) (sup : Bool) (kind va : Nat) (data : List (BitVec 8)) (sp : List Nat)
    (s : State) : Host.Outcome State Fault Refusal :=
  .next (if kind ≤ 6 ∧ path < 8 then packetArrive src q ctx epoch path seq sup kind (va % 2 ^ 48) data sp s else s)

/-- A CANCEL arrives: its number counts as arrived and is never performed (R353). -/
def cancelArrive (src q epoch path seq : Nat) (s : State) : State :=
  let m := markOf s src q epoch path
  if m.has seq then respond src q epoch path seq (Resp.plain true []) s
  else if m.c + 64 ≤ seq then notice 2 src q s.dev.fdevid.toNat epoch path seq s
  else
    tryFlags (respond src q epoch path seq (Resp.plain true []) (putMark (m.arrived seq (Resp.plain true []))
      (mapDev (fun d => { d with heldFlags := d.heldFlags.filter (fun x =>
        !(decide (x.src = src) && decide (x.q = q) && decide (x.epoch = epoch) && decide (x.path = path) && decide (x.seq = seq))) }) s)))

/-- CANCEL_RECEIVE (R353). -/
def execCancelReceive (src q epoch path seq : Nat) (s : State) : Host.Outcome State Fault Refusal :=
  .next (if path < 8 then cancelArrive src q epoch path seq s else s)

/-- CLOSE_RECEIVE: the marks, the held packets and the kept responses of the epoch are discarded (R351). -/
def execCloseReceive (src q epoch : Nat) (s : State) : Host.Outcome State Fault Refusal :=
  .next (respond src q epoch 8 0 (Resp.plain true []) (mapDev (fun d =>
    { d with dests := d.dests.filter (fun x => !(decide (x.src = src) && decide (x.q = q) && decide (x.epoch = epoch))),
             heldFlags := d.heldFlags.filter (fun x => !(decide (x.src = src) && decide (x.q = q) && decide (x.epoch = epoch))),
             receipts := d.receipts.filter (fun x => !(decide (x.src = src) && decide (q = 7) && decide (x.epoch = epoch))) }) s))

end Sys2Proof.Machine
end

