-- ==== Sys2Proof/Machine/ReeveSys.lean ====
section
/-! DEFINITION. The SYS group and the special registers (spec/01_device.md R13, R14; spec/04_reeve.md R78, R83, R84, R97 to
R104; spec/11_loops.md R262, R263; spec/12_sampled.md R267; spec/15_ordering.md R304; spec/16_scheduling.md R322;
spec/22_pair_log.md R372; spec/24_surviving.md R391, R393, R402). -/

namespace Sys2Proof.Machine

open Sys2Proof

/-! ### Pre-emption requests (R322, R323) -/

/-- A request to pre-empt a launch: it is marked, and PREEMPT.REQ is set in the modelled cell when it runs a task of it. -/
def requestPreempt (q num : Nat) (s : State) : State :=
  let here := s.cell.bound && decide (s.cell.task.q = q) && decide (s.cell.task.num = num)
  let s1 := mapDev (fun d => { d with launches := d.launches.map (fun l =>
    if l.bound ∧ l.q = q ∧ l.num = num then { l with req := true } else l) }) s
  if here then mapCell (fun k => { k with pReq := true }) s1 else s1

/-- A write of PREEMPT.YIELD asks for the pre-emption of the own launch (R322). -/
def preemptYield (s : State) : State :=
  if s.cell.bound then requestPreempt s.cell.task.q s.cell.task.num s else s

/-! ### Starting clusters (R78) -/

/-- Starts a cluster in user mode at an address, with its s registers zero. -/
def startCluster (n : Fin 4) (pc : BitVec 48) (s : State) : State :=
  mapClus n (fun k => { k with
    pc, s := Vector.replicate 23 0, sPoison := Vector.replicate 23 false, sup := false, active := true, pend := [], gap := 0,
    seg := Seg.closed, stat := .issuing, wait := .none, greq := [], rdvArmed := false, realign := false, gHeld := none, csl := none }) s

/-- A write of CLUSTERGO by a cluster: each named cluster of c1 to c3 that is halted starts at s1 of the writer. A cluster
started in this cycle by a lower-numbered writer starts again, at the higher-numbered writer's address (R78). -/
def clusterGo (writer : Fin 4) (mask : BitVec 4) (s : State) : State :=
  let entry := (readReg s writer 1).setWidth 48
  clusters.foldl (fun x n =>
    if n ≠ 0 ∧ mask.getLsbD n.val ∧ (!(clus x n).active ∨ s.startedNow.any (fun p => decide (p.1 = n.val) && decide (p.2 < writer.val))) then
      let t := startCluster n entry x
      { t with startedNow := t.startedNow ++ [(n.val, writer.val)] }
    else x) s

/-- What a read of CLUSTERGO returns (R78). -/
def activeMask (s : State) : Nat := boolsNat (clusters.map (fun n => (clus s n).active))

/-! ### Special registers (R84) -/

/-- Bits of a format descriptor that a write reaches (R31). -/
def fdWritable : Word := 0x00FFFFFF01FFFFFF#64

/-- Whether a number is in the map of R84. -/
def srExists (n : Nat) : Bool :=
  decide (n ≤ 0x008) || (decide (0x010 ≤ n) && decide (n ≤ 0x01F)) || (decide (0x100 ≤ n) && decide (n ≤ 0x10B)) ||
    (decide (0x110 ≤ n) && decide (n ≤ 0x124)) || decide (n = 0x130) ||
    (decide (0x200 ≤ n) && decide (n ≤ 0x207)) || (decide (0x300 ≤ n) && decide (n ≤ 0x37F)) ||
    (decide (0x400 ≤ n) && decide (n ≤ 0x406))

/-- Whether a number needs supervisor mode (R83). -/
def srSupervisor (n : Nat) : Bool := decide (0x200 ≤ n) && decide (n ≤ 0x3FF)

/-- PREEMPT as it reads (R322). -/
def preemptValue (s : State) : Word :=
  BitVec.ofNat 64 (s.cell.pCount.toNat * 256 + b2n s.cell.pHold * 4 + b2n s.cell.pReq * 2)

/-- Register r of an error bank (R393). -/
def bankReg (b : Bank) (r : Nat) : Word :=
  match r with
  | 0 => b.r0
  | 1 => b.addr
  | 2 => b.info
  | 3 => b.pos
  | 4 => b.seq
  | 5 => b.counts
  | _ => 0

/-- EB.CLR: a bank's record becomes zero, before the errors of its cycle are recorded (R393, R394). -/
def bankClr (i : Nat) (s : State) : State :=
  let b := { vget s.dev.banks i Bank.zero with r0 := 0, addr := 0, info := 0, pos := 0, seq := 0 }
  mapDev (fun d => { d with banks := vset d.banks i (replayErrs i b s) }) (if (cycleErrs s i).isEmpty then s else noteBank i b s)

/-- EB.CLRCNT: a bank's counts become zero (R393). -/
def bankClrcnt (i : Nat) (s : State) : State :=
  mapDev (fun d => { d with banks := vset d.banks i { (vget d.banks i Bank.zero) with counts := 0 } }) s

/-- A write of register r of a bank: only the clears of +6 have an effect (R393). -/
def bankWrite (i r : Nat) (v : Word) (s : State) : State :=
  if r = 6 then
    let s1 := if v.getLsbD 0 then bankClr i s else s
    if v.getLsbD 1 then bankClrcnt i s1 else s1
  else s

/-- A severity register after a write: a field written with 9 to 15 stays (R391). -/
def esevWrite (old v : Word) : Word :=
  BitVec.ofNat 64 ((upTo 16).foldl (fun a i =>
    a + (if nb v.toNat (4 * i) 4 ≤ 8 then nb v.toNat (4 * i) 4 else nb old.toNat (4 * i) 4) * 2 ^ (4 * i)) 0)

/-- Capture registers (R402). -/
def capGenValue (c : Cap) : Word := BitVec.ofNat 64 (c.step.toNat * 2 ^ 24 + c.gen.toNat * 4 + b2n c.fail * 2 + b2n c.act)

/-- The value of a special register, as cluster c reads it (R84). -/
def srRead (c : Fin 4) (n : Nat) (s : State) : Word :=
  let k := clus s c
  let t := s.cell.task
  let o (v : Nat) : Word := BitVec.ofNat 64 v
  if n = 0x000 then o t.cellId
  else if n = 0x001 then o t.quadId
  else if n = 0x002 then o t.dieId
  else if n = 0x003 then s.dev.fdevid.setWidth 64
  else if n = 0x004 then o t.stage
  else if n = 0x005 then o t.ctx
  else if n = 0x006 then s.cell.cycle
  else if n = 0x007 then o (activeMask s)
  else if n = 0x008 then o c.val
  else if n < 0x020 then vget s.cell.larg (n - 0x010) 0
  else if n < 0x108 then vget s.cell.ps (n - 0x100) 0
  else if n < 0x110 then (vget s.cell.sg (n - 0x108) 0).setWidth 64
  else if n < 0x120 then vget s.cell.fd (n - 0x110) 0
  else if n = 0x120 then s.cell.sampMin.setWidth 64
  else if n = 0x121 then s.cell.sampN.setWidth 64
  else if n = 0x122 then s.cell.sampMean.setWidth 64
  else if n = 0x123 then s.cell.sampM2.setWidth 64
  else if n = 0x124 then o (s.cell.lastK.toNat * 2 ^ 32 + s.cell.sampCode.toNat)
  else if n = 0x130 then s.cell.dbgChk.setWidth 64
  else if n = 0x200 then s.cell.tvb
  else if n = 0x201 then k.tcause
  else if n = 0x202 then k.tpc.setWidth 64
  else if n = 0x203 then s.cell.tframe
  else if n = 0x204 then s.cell.sbkey
  else if n = 0x205 then preemptValue s
  else if n = 0x206 then k.tval
  else if n = 0x207 then k.tcpc.setWidth 64
  else if n < 0x310 then vget s.dev.esev (n - 0x300) 0
  else if n < 0x380 then bankReg (vget s.dev.banks ((n - 0x310) / 7) Bank.zero) ((n - 0x310) % 7)
  else
    let x := ctxOf s t.ctx
    if n = 0x400 then x.log.base &&& logbaseMask
    else if n = 0x401 then o x.log.regSlots
    else if n = 0x402 then o x.log.regWin
    else if n = 0x403 then o x.log.done
    else if n = 0x404 then o x.log.applied
    else if n = 0x405 then x.cap.iv.setWidth 64
    else capGenValue x.cap

/-- Every byte of every region that a context owns takes a free value, and the saved images read as free values later (R204). -/
def scrambleSpad (ctx : Nat) (s : State) : State :=
  let own (p k : Nat) : Bool := let e := (spaEntry s p (65536 * k)).toNat; tb e 0 && decide (nb e 16 16 = ctx)
  let spots := ((upTo 128).filter (own ownPos)).flatMap (fun k => (upTo 65536).map (fun i => locSpad ownPos (65536 * k + i)))
  let byte (i : Nat) : Byte := (Config.freeWord (s.freeCtr + i)).setWidth 8
  let s1 := homeWrite (spots.mapIdx (fun i l => (l, byte i))) s
  let saved (x : Saved) : Saved := if x.cell.task.ctx = ctx then { x with spoiled := x.evicted } else x
  mapDev (fun d => { d with saved := d.saved.map saved }) { s1 with freeCtr := s.freeCtr + spots.length }

/-- The context's key becomes `key`: a change leaves what it holds in the scratchpad unspecified (R204). -/
def changeKey (ctx : Nat) (key : Word) (s : State) : State :=
  let s1 := match (ctxOf s ctx).sbkey with
    | some old => if old = key then s else scrambleSpad ctx s
    | none => s
  mapCtx ctx (fun c => { c with sbkey := some key }) s1

/-- Bits of TVB and of TFRAME that are not reserved (R108, R248). -/
def tvbMask : Word := 0x0000FFFFFFFFFFC0#64
def tframeMask : Word := 0x00000000007FFF00#64

/-- Writes a context register of the cell and of the context together (R20, R334). -/
def writeCtxReg (f : CellState → CellState) (g : Ctx → Ctx) (s : State) : State :=
  mapCtx s.cell.task.ctx g (mapCell f s)

/-- A write of a special register by cluster c, under its access and field rules; CLUSTERGO and LOGBASE act as their own
rules say; where a sample step of the same cycle has written the register, its value remains (R83, R84, R268). -/
def srWrite (c : Fin 4) (n : Nat) (v : Word) (s : State) : State :=
  let w32 : BitVec 32 := v.setWidth 32
  if n = 0x007 then clusterGo c (v.setWidth 4) s
  else if 0x100 ≤ n ∧ n < 0x108 then
    writeCtxReg (fun k => { k with ps := vset k.ps (n - 0x100) v }) (fun x => { x with ps := vset x.ps (n - 0x100) v }) s
  else if 0x108 ≤ n ∧ n < 0x10C then
    writeCtxReg (fun k => { k with sg := vset k.sg (n - 0x108) w32 }) (fun x => { x with sg := vset x.sg (n - 0x108) w32 }) s
  else if 0x110 ≤ n ∧ n < 0x120 then
    let f := v &&& fdWritable
    writeCtxReg (fun k => { k with fd := vset k.fd (n - 0x110) f }) (fun x => { x with fd := vset x.fd (n - 0x110) f }) s
  else if s.now.samp.contains n then s
  else if n = 0x120 then mapCell (fun k => { k with sampMin := w32 }) s
  else if n = 0x121 then mapCell (fun k => { k with sampN := w32 }) s
  else if n = 0x122 then mapCell (fun k => { k with sampMean := w32 }) s
  else if n = 0x123 then mapCell (fun k => { k with sampM2 := w32 }) s
  else if n = 0x124 then
    (if nb v.toNat 0 3 ≤ 4 then mapCell (fun k => { k with sampCode := v.setWidth 3 }) s else s)
  else if n = 0x130 then mapCell (fun k => { k with dbgChk := v.setWidth 2 }) s
  else if n = 0x200 then mapCell (fun k => { k with tvb := v &&& tvbMask }) s
  else if n = 0x201 then mapClus c (fun k => { k with tcause := v &&& 0x0000000000FFF1FF#64 }) s
  else if n = 0x202 then mapClus c (fun k => { k with tpc := v.setWidth 48 }) s
  else if n = 0x203 then mapCell (fun k => { k with tframe := v &&& tframeMask }) s
  else if n = 0x204 then mapCell (fun k => { k with sbkey := v }) (changeKey s.cell.task.ctx v s)
  else if n = 0x205 then
    let s1 := mapCell (fun k => { k with pHold := v.getLsbD 2 }) s
    if v.getLsbD 0 then preemptYield s1 else s1
  else if n = 0x206 then mapClus c (fun k => { k with tval := v }) s
  else if n = 0x207 then mapClus c (fun k => { k with tcpc := v.setWidth 48 }) s
  else if 0x300 ≤ n ∧ n < 0x310 then
    mapDev (fun d => { d with esev := vset d.esev (n - 0x300) (esevWrite (vget d.esev (n - 0x300) 0) v) }) s
  else if 0x310 ≤ n ∧ n < 0x380 then bankWrite ((n - 0x310) / 7) ((n - 0x310) % 7) v s
  else s

/-- A write of a log register: supervisor mode only; LOGBASE creates the log, which takes LOGSLOTS and LOGWIN (R84, R372). -/
def logRegWrite (n : Nat) (v : Word) (s : State) : State :=
  let ctx := s.cell.task.ctx
  if n = 0x400 then createLog ctx (mapLog ctx (fun l => { l with base := v &&& logbaseMask }) s)
  else if n = 0x401 then mapLog ctx (fun l => { l with regSlots := v.toNat % 2 ^ 32 }) s
  else if n = 0x402 then mapLog ctx (fun l => { l with regWin := v.toNat % 2 ^ 32 }) s
  else s

/-- Whether a log creation must wait: an MSUPD, LOGPULL or CPAIR command of the context is unfinished (R372). -/
def logBusy (s : State) : Bool :=
  let uses (k : CellState) : Bool := !k.mends.isEmpty || k.colls.any (fun c => decide (2 ≤ c.kind))
  uses s.cell || (suspended s).any (fun v => decide (v.cell.task.ctx = s.cell.task.ctx) && uses v.cell)

/-- The trap that a special-register number brings, if any (R69, R70, R83). -/
def srTrap (n : Nat) (sup : Bool) : Option Nat :=
  if !srExists n then some cIllegal else if srSupervisor n && !sup then some cPrivilege else none

/-- MFSR (R83). A read of CLUSTERGO or LOGDONE is an acquire (R304, R377). -/
def execMfsr (_y : Bool) (w : BitVec 2) (d : BitVec 5) (r : BitVec 13) (s : State) : Host.Outcome State Fault Refusal :=
  let n := r.toNat
  .next (match srTrap n (clus s s.cur).sup with
    | some code => trapWord code s
    | none => reeve [] [d] (fun s =>
        let s1 := putResult 2 d (srRead s.cur n s) (advance w s)
        if n = 0x007 ∨ n = 0x403 then acquire s.cur.val s1 else s1) s)

/-- MTSR (R83). -/
def execMtsr (_y : Bool) (w : BitVec 2) (a : BitVec 5) (r : BitVec 13) (s : State) : Host.Outcome State Fault Refusal :=
  let n := r.toNat
  .next (match srTrap n (clus s s.cur).sup with
    | some code => trapWord code s
    | none => reeve (if n = 0x007 then [a, 1] else [a]) [] (fun s =>
        let v := rd s a
        if 0x400 ≤ n then
          (if !(clus s s.cur).sup then advance w s
           else if n = 0x400 ∧ logBusy s then holdWith .waiting .none s
           else logRegWrite n v (advance w s))
        else srWrite s.cur n v (advance w s)) s)

/-! ### Segments (R262, R263) -/

/-- A segment opens with an expected count and signature. -/
def Seg.start (v : Word) : Seg :=
  { opened := true, voided := false, count := 0, crc := 0xFFFFFFFF#32, expCount := v.setWidth 32, expCrc := (v >>> 32).setWidth 32 }

/-- The computed CRC in [31:0] and the count in [63:32] (R263). -/
def Seg.value (g : Seg) : Word := BitVec.ofNat 64 ((~~~ g.crc).toNat + g.count.toNat * 2 ^ 32)

/-- What a closing word compares with its expected values: none when the segment is voided or agrees, else the error's detail
(R262, R263). -/
def Seg.mismatch (g : Seg) : Option Word :=
  if g.voided ∨ (g.count = g.expCount ∧ ~~~ g.crc = g.expCrc) then none else some g.value

/-- The error of a segment mismatch, class 7, or of a pair, class 8, with the stream as its source; the answer is the action taken
(R263, R264, R390). -/
def segError (cls src eng : Nat) (info : Word) (s : State) : Nat × State :=
  raiseError { cls, src, addr := 0, info, eng, cell := some Config.cellNo, ctx := s.cell.task.ctx } false s

/-- The errors of a closing segment, and whether one of them traps. The count and the CRC of the other member of a redundant pair
are a free value (R263, R264; assumption 120). -/
def segErrors (src eng : Nat) (g : Seg) (s : State) : Bool × State :=
  let own : Bool × State := match g.mismatch with
    | none => (false, s)
    | some info => let p := segError 7 src eng info s; (decide (p.1 < 4), p.2)
  if !s.cell.task.pair || g.voided then own
  else
    let f := takeFree own.2
    if Config.freeWord f.1 = g.value then (own.1, f.2)
    else
      let p := segError 8 src eng g.value f.2
      (own.1 || decide (p.1 < 4), p.2)

/-- A segment closes: `s` stands before the closing word and takes its trap, `t` after it (R263). -/
def segClose (src eng : Nat) (g : Seg) (trap : Word → State → State) (s t : State) : State :=
  let p := segErrors src eng g s
  if p.1 then trap g.value p.2 else (segErrors src eng g t).2

/-- SEGB: opens a segment; an open one is an illegal instruction (R102, R263). -/
def execSegb (_y : Bool) (w : BitVec 2) (a : BitVec 5) (s : State) : Host.Outcome State Fault Refusal :=
  .next (if (clus s s.cur).seg.opened then trapWord cIllegal s
    else reeve [a] [] (fun s =>
      let v := rd s a
      mapClus s.cur (fun k => { k with seg := Seg.start v }) (advance w s)) s)

/-- SEGE: closes the segment and compares; a mismatch is an error of the segment class, and a trap where its action is 0 to 3
(R262, R263, R392). -/
def execSege (_y : Bool) (w : BitVec 2) (s : State) : Host.Outcome State Fault Refusal :=
  .next (if !(clus s s.cur).seg.opened then trapWord cIllegal s
    else reeve [] [] (fun s =>
      let s1 := nextPc (issueFed false w s)
      segClose 0 s.cur.val (clus s1 s.cur).seg (trapHere cSegment) s (mapClus s.cur (fun k => { k with seg := Seg.closed }) s1)) s)

/-! ### Halting and retirement (R14, R98, R304) -/

/-- Whether a task that has reached HALT on c0 may retire (R14). -/
def retireReady (s : State) : Bool :=
  !(clus s 1).active && !(clus s 2).active && !(clus s 3).active && !s.vec.running && !s.mat.running &&
    s.cell.jobs.isEmpty && s.cell.colls.isEmpty && s.cell.mends.isEmpty

/-- The task leaves the cell; its launch counts it as retired (R14). -/
def retireTask (s : State) : State :=
  let s1 := mapOwnLaunch (fun l => { l with retired := addSet l.retired Config.cellNo }) s
  dropParked (mapCell (fun k => { k with bound := false, halting := false, partner := false, partnerTrap := false })
    (mapClus 0 (fun k => { k with active := false, stat := .halted, wait := .none }) s1))

/-- HALT: halts the cluster. On c0 it retires the task, or waits at the HALT; in supervisor mode it kills the task with
HANDLER. On c1 to c3 it takes effect once the cluster's loads are performed and its stores visible at cell scope. c0's wait for R14 is one
that holds its whole bundle, and c0 presents no word then (DESIGN CHOICE, log 134: the spec is silent). -/
def execHalt (_y : Bool) (w : BitVec 2) (s : State) : Host.Outcome State Fault Refusal :=
  .next (reeve [] [] (fun s =>
    if s.cur ≠ 0 then
      (if !queuesEmpty (clus s s.cur) then holdWith .waiting .fence s
       else mapClus s.cur (fun k => { k with active := false, stat := .halted, gap := 0 }) (advance w s))
    else if (clus s 0).sup then
      killCell (markEnding (ownLaunch s) 2 (clus s 0).tcause (issue w s))
    else if retireReady s then retireTask (issue w s)
    else mapCell (fun k => { k with halting := true }) (holdWith .waiting .none (issue w s))) s)

/-! ### The other words of the group -/

/-- NOP (R97). -/
def execNop (_y : Bool) (w : BitVec 2) (s : State) : Host.Outcome State Fault Refusal :=
  .next (reeve [] [] (advance w) s)

/-- WFE: clears a set wake latch and goes on, or waits for it (R99). -/
def execWfe (_y : Bool) (w : BitVec 2) (s : State) : Host.Outcome State Fault Refusal :=
  .next (reeve [] [] (fun s =>
    if (clus s s.cur).wake then mapClus s.cur (fun k => { k with wake := false }) (advance w s)
    else holdWith .waiting .wfe s) s)

/-- TRAP: the software trap, with TPC at the next word (R100). -/
def execTrap (_y : Bool) (w : BitVec 2) (c : BitVec 5) (s : State) : Host.Outcome State Fault Refusal :=
  .next (reeve [] [] (fun s => takeTrap s.cur cTrap c.toNat ((clus s s.cur).pc + 4) 0 (issue w s)) s)

/-- ERET: the return from a trap; in user mode the privilege trap (R101). -/
def execEret (_y : Bool) (w : BitVec 2) (s : State) : Host.Outcome State Fault Refusal :=
  .next (if (clus s s.cur).sup then reeve [] [] (returnFromTrap w) s else trapWord cPrivilege s)

/-- REPLAY: lands one entry of the replay queue; in user mode the privilege trap (R103, R198). -/
def execReplay (_y : Bool) (w : BitVec 2) (a : BitVec 5) (s : State) : Host.Outcome State Fault Refusal :=
  .next (if (clus s s.cur).sup then reeve [a] [] (fun s => replayEntry w ((rd s a).toNat % 32) s) s else trapWord cPrivilege s)

/-- PPT: d tells whether a pre-emption request is pending; the word boundary after it is a pre-emption point (R104). -/
def execPpt (_y : Bool) (w : BitVec 2) (d : BitVec 5) (s : State) : Host.Outcome State Fault Refusal :=
  .next (writeWord 1 w d [] (fun s => bw s.cell.pReq) s)

end Sys2Proof.Machine
end

