-- ==== Sys2Proof/Machine/Launch.lean ====
section
/-! DEFINITION. Launch records: their fields, the checks at arrival, waits, the order of binding, placements and deterministic
traces (spec/01_device.md R7, R11, R12, R18; spec/16_scheduling.md R311 to R321). -/

namespace Sys2Proof.Machine

open Sys2Proof

/-! ### Fields of a launch record (R314) -/

/-- Byte `n` of a record. -/
def Launch.byte (l : Launch) (n : Nat) : Nat := byteAt l.bytes n

/-- DET. -/
def Launch.det (l : Launch) : Bool := tb (l.byte 20) 3

/-- PAIR: each task takes two physical cells. -/
def Launch.pair (l : Launch) : Bool := tb (l.byte 20) 4

/-- ELASTIC. -/
def Launch.elastic (l : Launch) : Bool := tb (l.byte 20) 5

/-- Number of dies. -/
def Launch.dies (l : Launch) : Nat := nb (l.byte 21) 0 2 + 1

/-- Gang size. -/
def Launch.gang (l : Launch) : Nat := nb (l.byte 21) 2 2 + 1

/-- Requested gangs per die. -/
def Launch.perDie (l : Launch) : Nat := nb (l.byte 22) 0 5 + 1

/-- Least gangs per die. -/
def Launch.least (l : Launch) : Nat := nb (l.byte 23) 0 5 + 1

/-- Stage count. -/
def Launch.stages (l : Launch) : Nat := l.byte 24 + 1

/-- First scratchpad region, and the number of regions. -/
def Launch.regions (l : Launch) : Nat × Nat := (nb (l.byte 28) 0 7, nb (l.byte 29) 0 7 + 1)

/-- Trace tag. -/
def Launch.tag (l : Launch) : Nat := leAt l.bytes 32 4

/-- Physical cells that one task takes. -/
def Launch.perTask (l : Launch) : Nat := if l.pair then 2 else 1

/-- The valid waits: sync-word index and generation. -/
def Launch.waits (l : Launch) : List (Nat × Nat) :=
  ((upTo 4).filter (fun i => tb (l.byte (37 + 6 * i)) 0)).map (fun i => (l.byte (36 + 6 * i), leAt l.bytes (38 + 6 * i) 4))

/-- Whether a launch waits to be bound. -/
def Launch.waiting (l : Launch) : Bool := !l.bound && l.ending.isNone

/-- Whether a launch goes on from a pre-emption when it is bound: a withdrawn binding does not take that away (R19, R320). -/
def Launch.resumes (l : Launch) : Bool := decide (l.preempts ≠ 0)

/-! ### The checks at arrival (R311, R315, R319) -/

/-- Whether a record is malformed: SHAPE. -/
def shapeBad (l : Launch) : Bool :=
  let b := l.byte
  decide (l.bytes.length ≠ 128) || decide (nb (b 20) 6 2 ≠ 0) || decide (nb (b 21) 4 4 ≠ 0) || decide (nb (b 22) 5 3 ≠ 0) ||
    decide (nb (b 23) 5 3 ≠ 0) || decide (nb (b 25) 2 6 ≠ 0) || decide (b 27 ≠ 0) || tb (b 28) 7 || tb (b 29) 7 ||
    !zeroAt l.bytes 30 2 || !zeroAt l.bytes 60 4 || (upTo 4).any (fun i => decide (nb (b (37 + 6 * i)) 1 7 ≠ 0)) ||
    (l.det && decide (65536 ≤ l.tag)) ||
    decide (leAt l.bytes 0 6 % 4 ≠ 0) || decide (leAt l.bytes 6 6 % 4 ≠ 0) || decide (leAt l.bytes 12 6 % 8 ≠ 0) ||
    decide (l.dies * l.least * l.gang < l.stages) || (!l.elastic && decide (b 23 ≠ b 22)) || (l.elastic && decide (b 22 < b 23)) ||
    (l.pair && decide (2 < l.gang)) || decide (128 < l.regions.1 + l.regions.2)

/-- Whether a context record refuses a launch that a function has posted: CONTEXT. -/
def contextBad (s : State) (id fn : Nat) : Bool :=
  let r := ctxRecord s id
  !decide (id < s.dev.ctxtN.toNat) || !tb (byteAt r 58) 0 || decide (nb (byteAt r 58) 2 6 ≠ 0) || !zeroAt r 60 4 ||
    !zeroAt r 128 128 || decide (byteAt r 59 ≠ fn)

/-- Whether `d` dies can each give `q` quads with `need` cells among those named. -/
def placeable (ok : Nat → Bool) (d q need : Nat) : Bool :=
  let quad (n : Nat) : Bool := decide (need ≤ ((upTo 4).filter (fun c => ok (4 * n + c))).length)
  let die (n : Nat) : Bool := decide (q ≤ ((upTo 32).filter (fun k => quad (32 * n + k))).length)
  decide (d ≤ ((upTo 4).filter die).length)

/-- The status with which a record fails at arrival. -/
def arrivalFault (s : State) (l : Launch) (fn : Nat) : Option Nat :=
  if shapeBad l then some 5
  else if contextBad s l.ctx fn then some 8
  else if !placeable (cellActive s) l.dies l.least (l.gang * l.perTask) then some 6
  else none

/-! ### Launch sync words (R314, R317) -/

/-- The virtual address of a launch sync word of a context. -/
def launchSyncVa (s : State) (ctx index : Nat) : Nat := leAt (ctxRecord s ctx) 32 8 + 16 * index

/-- The location of a launch sync word of a context. -/
def launchSync (s : State) (ctx index : Nat) : Option Nat := (destXl ctx true .write (launchSyncVa s ctx index) s).map (·.1)

/-- The dispatch path has reached for a launch sync word: a malformed entry on the way is a walker error (R288). -/
def noteSync (ctx index : Nat) (s : State) : State := walkError ctx true .write [launchSyncVa s ctx index] s

/-- The dispatch path has looked at the waits of a launch. -/
def noteWaits (l : Launch) (s : State) : State := l.waits.foldl (fun x w => noteSync l.ctx w.1 x) s

/-- The virtual address of a launch's trace entry. -/
def traceVa (s : State) (l : Launch) : Nat := leAt (ctxRecord s l.ctx) 48 8 + 128 * l.tag

/-- The dispatch path has reached for a launch's trace entry. -/
def noteTrace (l : Launch) (s : State) : State := if l.det then walkError l.ctx true .read [traceVa s l] s else s

/-- The dispatch path has reached for a range of a context's memory. -/
def noteRange (ctx : Nat) (k : Acc) (va n : Nat) (s : State) : State :=
  (rangeStarts va n).foldl (fun x a => walkError ctx true k [a] x) s

/-- What the dispatch path writes to a task's memory waits while a byte that it changes lies in a page still to be captured: the pages are
claimed, and nothing else happens until they have been captured (R404). -/
def unlessHeld (s t : State) : State :=
  if s.dev.ctxs.any (fun c => c.cap.act) then
    let ls := ((t.dev.mem ++ s.dev.mem).map (·.1)).filter (fun a => decide (memGet t.dev.mem a ≠ memGet s.dev.mem a) && captureHolds s a)
    if ls.isEmpty then t else claimPages ls s
  else t

/-- Whether a wait is met. -/
def waitMet (s : State) (ctx : Nat) (w : Nat × Nat) : Bool :=
  match launchSync s ctx w.1 with
  | some loc => decide (((syncRead s loc).gen + 2 ^ 32 - w.2 % 2 ^ 32) % 2 ^ 32 < 2 ^ 31)
  | none => false

/-- Whether a waited word carries FAULT or ABSENT. -/
def waitFault (s : State) (ctx : Nat) (w : Nat × Nat) : Bool :=
  match launchSync s ctx w.1 with
  | some loc => (syncRead s loc).flt || (syncRead s loc).abs
  | none => false

/-- Whether every valid wait of a launch is met. -/
def waitsMet (s : State) (l : Launch) : Bool := l.waits.all (waitMet s l.ctx)

/-- Whether a launch fails with DEPFAULT. -/
def depFault (s : State) (l : Launch) : Bool := l.waits.any (waitFault s l.ctx)

/-! ### Order of binding (R18, R317) -/

/-- The launch of a queue and a record number. -/
def launchOf (s : State) (q num : Nat) : Option Launch := s.dev.launches.find? (fun l => decide (l.q = q) && decide (l.num = num))

/-- A change of one launch. -/
def mapLaunch (q num : Nat) (f : Launch → Launch) (s : State) : State :=
  mapDev (fun d => { d with launches := d.launches.map (fun l => if l.q = q ∧ l.num = num then f l else l) }) s

/-- The record that a queue presents: its oldest that has been neither bound nor failed. A pre-empted launch has been bound,
so it hides no later record (R317). -/
def presented (s : State) (q : Nat) : Option Launch :=
  s.dev.launches.find? (fun l => decide (l.q = q) && l.waiting && !l.resumes)

/-- Whether the firmware may bind a waiting launch now, as far as its queue goes: it was pre-empted, or its queue presents it. -/
def isPresented (s : State) (l : Launch) : Bool :=
  l.resumes || (match presented s l.q with | some x => decide (x.num = l.num) | none => false)

/-- Effective priority. -/
def effPrio (l : Launch) : Nat := Nat.min 7 (l.prio + l.aged / 64)

/-- Whether `a` is admitted before `b`. -/
def admitsBefore (a b : Launch) : Bool :=
  decide (effPrio b < effPrio a) ||
    (decide (effPrio a = effPrio b) &&
      ((a.everBound && !b.everBound) || (decide (a.everBound = b.everBound) && decide (a.arrival < b.arrival))))

/-- Whether status entries of a queue wait for ring space: none of its launches is bound then (R320). -/
def statusWaits (s : State) (q : Nat) : Bool := s.dev.status.any (fun e => decide (e.q = q))

/-- Whether a launch is presented and ready, or was pre-empted: the waits of a pre-empted launch were met at its first binding
(R18, R317). -/
def launchReady (s : State) (l : Launch) : Bool :=
  isPresented s l && (l.resumes || (waitsMet s l && !depFault s l)) && !statusWaits s l.q

/-! ### Placements (R11, R12, R316) -/

/-- Whether a physical cell is bound or reserved. -/
def cellTaken (s : State) (p : Nat) : Bool :=
  s.dev.launches.any (fun l => l.bound && l.cells.contains p) || s.dev.armed.any (fun a => a.cells.contains p)

/-- Whether a physical cell is active and free. -/
def cellFree (s : State) (p : Nat) : Bool := cellActive s p && !cellTaken s p

/-- The cells of gang `j` of a placement, in CELLID order. -/
def gangCells (l : Launch) (cells : List Nat) (j : Nat) : List Nat :=
  let n := l.gang * l.perTask
  (cells.drop (j * n)).take n

/-- Whether cells form a placement of a launch with `gangs` gangs per die: each gang in one quad of its own, the gangs of one
logical die on one die, and different logical dies on different dies. -/
def placementOk (l : Launch) (gangs : Nat) (cells : List Nat) : Bool :=
  let total := l.dies * gangs
  let quadOf (j : Nat) : Nat := (gangCells l cells j).headD 0 / 4
  let dieOf (d : Nat) : Nat := quadOf (d * gangs) / 32
  decide (l.least ≤ gangs) && decide (gangs ≤ l.perDie) && decide (cells.length = total * l.gang * l.perTask) && decide cells.Nodup &&
    cells.all (fun p => decide (p < 512)) &&
    (upTo total).all (fun j => (gangCells l cells j).all (fun p => decide (p / 4 = quadOf j)) && decide (quadOf j / 32 = dieOf (j / gangs))) &&
    decide ((upTo total).map quadOf).Nodup && decide ((upTo l.dies).map dieOf).Nodup

/-! ### Deterministic traces (R321) -/

/-- The trace entry of a launch: its state, its gangs per die and its cells in ascending order; none when it cannot be read. -/
def traceEntry (s : State) (l : Launch) : Option (Nat × Nat × List Nat) :=
  (destRead l.ctx true (traceVa s l) 128 s).map (fun bs =>
    (byteAt bs 0, byteAt bs 1 + 1, (upTo 512).filter (fun p => tb (byteAt bs (8 + p / 8)) (p % 8))))

/-- Whether a recorded entry cannot be honoured. -/
def traceBad (s : State) (l : Launch) : Bool :=
  l.det && (match traceEntry s l with
    | some (st, q, cells) => decide (st ≠ 0) && (decide (st ≠ 1) || !cells.all (cellActive s) || !placementOk l q cells)
    | none => true)

/-- Whether a placement is the one that a recorded entry names. -/
def traceAgrees (s : State) (l : Launch) (gangs : Nat) (cells : List Nat) : Bool :=
  !l.det || (match traceEntry s l with
    | some (st, q, rec) => if st = 0 then decide (cells.Pairwise (· < ·)) else decide (rec = cells) && decide (q = gangs)
    | none => false)

/-- The placement and the gangs per die are recorded in an empty entry. -/
def recordTrace (l : Launch) (gangs : Nat) (cells : List Nat) (s : State) : State :=
  if !l.det then s
  else
    match traceEntry s l with
    | some (0, _, _) =>
      let map := (upTo 64).map (fun i => BitVec.ofNat 8 (boolsNat ((upTo 8).map (fun b => cells.contains (8 * i + b)))))
      let at_ := traceVa s l
      let put (va : Nat) (bs : List Byte) (x : State) : State :=
        match destCells l.ctx true va bs x with | some cs => homeWrite cs x | none => noteRange l.ctx .write va bs.length x
      put (at_ + 8) map (put at_ [1, BitVec.ofNat 8 (gangs - 1)] s)
    | _ => s

/-- Whether a launch could be bound now on free cells. One that was pre-empted keeps its gangs per die (R19). -/
def couldBind (s : State) (l : Launch) : Bool :=
  let fits := placeable (cellFree s) l.dies (if l.resumes then l.gangs else l.least) (l.gang * l.perTask)
  if l.det then
    match traceEntry s l with
    | some (0, _, _) => fits
    | some (_, _, cells) => cells.all (cellFree s)
    | none => false
  else fits

end Sys2Proof.Machine
end

