-- ==== Sys2Proof/Machine/Bind.lean ====
section
/-! DEFINITION. Arrival of launch records, binding by the firmware or by an armed match, and what binding gives a cell
(spec/01_device.md R13, R18 to R22; spec/15_ordering.md R306; spec/16_scheduling.md R311 to R318). -/

namespace Sys2Proof.Config

/-- The state of a task that another cell saved at a pre-emption, and that this cell takes up: a free value (log 14). -/
opaque savedElsewhere : Nat → Option Machine.Saved

end Sys2Proof.Config

namespace Sys2Proof.Machine

open Sys2Proof

/-! ### The initial state of a task (R13, R20, R21, R316) -/

/-- Writes bytes of a save area, page by page; a page that the context does not map is left, and one that a malformed entry maps is a
walker error (R288). -/
def saveWrite (ctx va : Nat) (bs : List Byte) (s : State) : State :=
  ((upTo (bs.length / 65536 + 2)).foldl (fun (p : State × Nat × List Byte) _ =>
    let n := 65536 - p.2.1 % 65536
    (match destCells ctx true p.2.1 (p.2.2.take n) p.1 with
     | some cs => homeWrite cs p.1
     | none => if p.2.2.isEmpty then p.1 else walkError ctx true .write [p.2.1] p.1, p.2.1 + n, p.2.2.drop n)) (s, va, bs)).1

/-- Bytes of a save area, read within one page; those of a page that the context does not map read as zero. -/
def saveRead (ctx va n : Nat) (s : State) : List Byte := (destRead ctx true va n s).getD (zeros n)

/-- The regions of a launch. -/
def regionList (l : Launch) : List Nat := (upTo l.regions.2).map (l.regions.1 + ·)

/-- Task index in a launch of a logical coordinate (R316). -/
def taskIndex (l : Launch) (t : Task) (cellId : Nat) : Nat := (t.dieId * l.gangs + t.quadId) * l.gang + cellId

/-- The save slot of the task at place `cellId` of a gang (R323). -/
def saveSlot (l : Launch) (t : Task) (cellId : Nat) (s : State) : Nat :=
  leAt (ctxRecord s l.ctx) 40 8 + 0x980000 * taskIndex l t cellId

/-- The pre-empted task that holds a region: its launch waits, a cell of its gang stood at the position, and its allocation
names the region. -/
def regionHolder (s : State) (p k ctx : Nat) : Option (Saved × Launch) :=
  (suspended s).findSome? (fun v =>
    (launchOf s v.q v.num).bind (fun l =>
      if l.ctx = ctx ∧ v.cell.task.mates.contains p = true ∧ (regionList l).contains k = true ∧ v.evicted.contains (p, k) = false
      then some (v, l) else none))

/-- A region's image is written to the save slot of the task that holds it (R21, R323). -/
def evictRegion (p k : Nat) (v : Saved) (l : Launch) (s : State) : State :=
  let t := v.cell.task
  let s1 := saveWrite l.ctx (saveSlot l t (t.mates.idxOf p) s + 0x180000 + 65536 * k) (homeBytes s (locSpad p (65536 * k)) 65536) s
  mapDev (fun d => { d with saved := d.saved.map (fun x =>
    if x.q = v.q ∧ x.num = v.num then { x with evicted := x.evicted ++ [(p, k)] } else x) }) s1

/-- Region `k` of the scratchpad in a position of the quad goes to a context: what is there is saved if a pre-empted task still holds the
region (R323), and zeroed if another context left it (R21). -/
def takeRegion (p k ctx : Nat) (entry : BitVec 32) (s : State) : State :=
  let old := (sget 0 s.cell.spa (128 * p + k)).toNat
  let s1 := match (if tb old 0 then regionHolder s p k (nb old 16 16) else none) with
    | some (v, l) => evictRegion p k v l s
    | none => s
  let s2 := if tb old 0 ∧ nb old 16 16 = ctx then s1 else zeroArea (locSpad p (65536 * k)) 65536 s1
  mapCell (fun c => { c with spa := sset 0 c.spa (128 * p + k) entry }) s2

/-- The attribute entry of a bound region: V = 1, W = 1, FMT = 0, WIN and the context. -/
def boundEntry (ctx : Nat) (win : Bool) : BitVec 32 := BitVec.ofNat 32 (1 + 16 * b2n win + 1024 + 65536 * (ctx % 65536))

/-- The task that the modelled cell runs in a placement, with the positions of its gang's cells (R11, R12, R316). -/
def taskAt (s : State) (l : Launch) (gangs pos : Nat) (cells : List Nat) : Task :=
  let i := pos / l.perTask
  let n := l.dies * gangs * l.gang
  let j := i / l.gang
  let r := ctxRecord s l.ctx
  { q := l.q, num := l.num, ctx := l.ctx, cellId := i % l.gang, quadId := j % gangs, dieId := j / gangs,
    stage := i * l.stages / n,
    mates := (upTo l.gang).map (fun k => (cells[(j * l.gang + k) * l.perTask + pos % l.perTask]?.getD 0) % 4),
    reevePc := BitVec.ofNat 48 (leAt l.bytes 0 6), vecPc := BitVec.ofNat 48 (leAt l.bytes 6 6),
    matPc := BitVec.ofNat 48 (leAt l.bytes 12 6), hostAcc := tb (byteAt r 58) 1, pair := l.pair }

/-- The launch arguments: with ELASTIC = 1, LARG15 holds the bound gangs per die. -/
def largOf (l : Launch) (gangs : Nat) : Vector Word 16 :=
  vtab 16 (fun i => if i = 15 ∧ l.elastic then BitVec.ofNat 64 gangs else BitVec.ofNat 64 (leAt l.bytes (64 + 4 * i) 4))

/-- The parts of a cell that a binding does not change: its clock, its translations, its control store and its power. -/
def keepCell (k old : CellState) : CellState :=
  { k with bound := true, frozen := none, gated := old.gated, waking := old.waking, cycle := old.cycle, cs := old.cs,
           csTag := old.csTag, tlb := old.tlb, spa := old.spa, cellStores := old.cellStores, stopped := false, invalid := [] }

/-- What a binding takes from the context and its record, first and later ones alike: seeds, sigma registers, descriptors and
the custom table, and TVB, TFRAME and SBKEY, whose reserved bits read as zero (R3, R20, R311, R316). -/
def withContext (c : Ctx) (record : List Byte) (k : CellState) : CellState :=
  let word (n : Nat) : Word := BitVec.ofNat 64 (leAt record n 8)
  { k with ps := c.ps, sg := c.sg, fd := c.fd, cst := c.cst,
           tvb := word 8 &&& tvbMask, tframe := word 16 &&& tframeMask, sbkey := word 24 }

/-- A task that starts. -/
def freshTask (t : Task) (larg : Vector Word 16) (s : State) : State :=
  let r := ctxRecord s t.ctx
  let k := withContext (ctxOf s t.ctx) r (keepCell { CellState.zero with task := t, larg } s.cell)
  { s with
    cl := (Vector.replicate 4 Cluster.zero).set 0 { Cluster.zero with pc := t.reevePc, active := true, stat := .issuing }
    cell := k
    vec := { VecState.zero with pc := t.vecPc }
    mat := { MatState.zero with pc := t.matPc } }

/-- Words of a save part from number `i` on: `n` words of `size` bytes, as a sparse map. -/
def saveWords (w size : Nat) : Nat → Nat → List Byte → Sparse (BitVec w)
  | 0, _, _ => []
  | n + 1, i, bs =>
    let v := BitVec.ofNat w (leAt bs 0 size)
    let rest := saveWords w size n (i + 1) (bs.drop size)
    if v = 0 then rest else (i, v) :: rest

/-- The marks of a save part of `n` bits. -/
def saveMarks (n : Nat) (bs : List Byte) : List Nat := (upTo n).filter (fun i => tb (byteAt bs (i / 8)) (i % 8))

/-- A part of a save frame, page by page. -/
def savePart (ctx va n : Nat) (s : State) : List Byte :=
  (upTo (n / 65536 + 2)).flatMap (fun i =>
    let lo := if i = 0 then va else (va / 65536 + i) * 65536
    let hi := Nat.min (va + n) ((va / 65536 + i + 1) * 65536)
    if lo < hi then saveRead ctx lo (hi - lo) s else [])

/-- A plane as its save part holds it: elements, marks and format record; the class is that of the record. -/
def planeFrom (p : Plane) (bs : List Byte) : Plane :=
  { p with elems := saveWords 16 2 36864 0 bs, marks := saveMarks 36864 (bs.drop 0x12000), desc := BitVec.ofNat 64 (leAt bs 0x13200 8) }

/-- The parts of the save frame whose layout the spec gives come back from the save slot; the registers, whose layout it does
not give, come back as they were saved (R323). -/
def readSaveFrame (l : Launch) (t : Task) (s : State) : State :=
  let base := saveSlot l t t.cellId s
  let part (off n : Nat) : List Byte := savePart l.ctx (base + off) n s
  let m := s.mat
  let sam :=
    if m.sam.nv then
      let norm := part 0x156000 65536
      let words := saveWords 32 4 16384 0 norm
      let col (j : Nat) : Sparse (BitVec 32) := (words.filter (fun e => decide (e.1 % 4 = j))).map (fun e => (e.1 / 4, e.2))
      { m.sam with n := col 0, c := col 1, r := col 2, sc := col 3, al := saveWords 32 4 4096 0 (part 0x166000 16384),
                   marks := saveMarks 4096 (part 0x16A000 512) }
    else m.sam
  { s with
    mat := { m with acc := saveWords 40 5 196608 0 (part 0 983040), accP := saveMarks 196608 (part 0x0F0000 24576),
                    active := planeFrom m.active (part 0x0F6000 81920), shadow := planeFrom m.shadow (part 0x10A000 81920),
                    scale := saveWords 16 2 49152 0 (part 0x13E000 98304), sam }
    vec := { s.vec with tile := saveWords 32 4 32768 0 (part 0x11E000 131072) } }

/-- Free bytes. -/
def freeBytes (n : Nat) (s : State) : List Byte × State :=
  ((upTo n).map (fun j => (Config.freeWord (s.freeCtr + j)).setWidth 8), { s with freeCtr := s.freeCtr + n })

/-- The scratchpad images that the save slots hold come back into the regions of the gang's cells (R323); one that a change of SBKEY
has spoiled comes back as free values (R204). -/
def readImages (l : Launch) (t : Task) (v : Saved) (s : State) : State :=
  v.evicted.foldl (fun x e =>
    let i := v.cell.task.mates.idxOf e.1
    match t.mates[i]? with
    | some p =>
      let r := if v.spoiled.contains e then freeBytes 65536 x
        else
          let va := saveSlot l t i x + 0x180000 + 65536 * e.2
          (savePart l.ctx va 65536 x, noteRange l.ctx .read va 65536 x)
      homePut (locSpad p (65536 * e.2)) r.1 r.2
    | none => x) s

/-- The saved task of a launch. -/
def savedOf (s : State) (l : Launch) : Option Saved := s.dev.saved.find? (fun v => decide (v.q = l.q) && decide (v.num = l.num))

/-- The saved task of a launch becomes `v`. -/
def keepSaved (v : Saved) (s : State) : State :=
  mapDev (fun d => { d with saved := d.saved.filter (fun x => decide (x.q ≠ v.q ∨ x.num ≠ v.num)) ++ [v] }) s

/-- A pre-empted task goes on from its saved state (R19, R322, R323); the context's record is read again (R311). What another cell
saved is a free value as a whole, its composite frame too (log 14). The saved state stays until the next pre-emption, since a
binding that is withdrawn leaves the launch to go on from it (R320). -/
def restoreTask (l : Launch) (t : Task) (own : Bool) (v : Saved) (s : State) : State :=
  let k := withContext (ctxOf s t.ctx) (ctxRecord s t.ctx) (keepCell
    { v.cell with task := t, pReq := false, pExpired := false, pCount := if v.cell.pCount = 255 then 255 else v.cell.pCount + 1 } s.cell)
  let s0 : State := { s with cl := v.cl, vec := v.vec, mat := v.mat, cell := k }
  let s1 := readImages l t v (if own then noteRange l.ctx .read (saveSlot l t t.cellId s0) 0x180000 (readSaveFrame l t s0) else s0)
  let r := if own then (savePart l.ctx (saveSlot l t t.cellId s1 + 0x16A400) 38912 s1, s1) else freeBytes 38912 s1
  keepSaved { v with evicted := [], spoiled := [], cell := { v.cell with task := t } } (if frameOk r.2 then framePut 0 r.1 r.2 else r.2)

/-- The task that cell 0 takes up when another cell saved it: a free value in which nothing is under way (R306, R323), with the
images of all its regions free as well (log 14). -/
def elsewhere (l : Launch) (t : Task) (larg : Vector Word 16) (s : State) : Saved :=
  let v := (Config.savedElsewhere s.freeCtr).getD
    { q := l.q, num := l.num, cl := Vector.replicate 4 Cluster.zero, cell := CellState.zero, vec := VecState.zero, mat := MatState.zero,
      evicted := [], spoiled := [] }
  let all := t.mates.flatMap (fun p => (regionList l).map (fun k => (p, k)))
  { q := l.q, num := l.num
    cl := v.cl.map (fun k => { k with loads := [], stores := [], pend := [], greq := [], csl := none })
    cell := { v.cell with task := t, larg, frozen := none, stopped := false, halting := false, partner := false, partnerTrap := false, cellStores := [],
                          swNow := [], invalid := [], jobs := v.cell.jobs.filter (fun j => decide (j.wait = 0) && j.puts.isEmpty),
                          colls := v.cell.colls.filter (fun c => !c.calling), mends := [] }
    vec := { v.vec with loads := [], stores := [], flights := [], parked := [], trap := none, heldFault := none, gSent := [],
                        ports := Vector.replicate 8 Port.zero }
    mat := { v.mat with work := none, unfinished := [] }
    evicted := all, spoiled := all }

/-- Whether a task has the logical coordinates of a saved one. -/
def sameTask (v : Saved) (t : Task) : Bool :=
  decide (t.cellId = v.cell.task.cellId) && decide (t.quadId = v.cell.task.quadId) && decide (t.dieId = v.cell.task.dieId)

/-- The regions of a pre-empted gang whose cells leave their positions go along through the save slots: of every cell that
`stays` does not name (R19, R323). -/
def moveImages (l : Launch) (stays : Nat → Nat → Bool) (s : State) : State :=
  match savedOf s l with
  | none => s
  | some v =>
    (upTo v.cell.task.mates.length).foldl (fun x i =>
      let old := v.cell.task.mates[i]?.getD 0
      if stays i old then x
      else (regionList l).foldl (fun y k =>
        let e := (sget 0 y.cell.spa (128 * old + k)).toNat
        match savedOf y l with
        | some w => if tb e 0 ∧ nb e 16 16 = l.ctx ∧ w.evicted.contains (old, k) = false then evictRegion old k w l y else y
        | none => y) x) s

/-- Binding gives the modelled cell its task: a fresh one, the one that it saved, or one that another cell saved. -/
def bindCell (l : Launch) (gangs pos : Nat) (cells : List Nat) (s0 : State) : State :=
  let s := changeKey l.ctx (BitVec.ofNat 64 (leAt (ctxRecord s0 l.ctx) 24 8)) s0
  let t := taskAt s l gangs pos cells
  let own := match savedOf s l with | some v => sameTask v t | none => false
  let s1 := t.mates.foldl (fun x p => (regionList l).foldl (fun y k =>
    takeRegion p k l.ctx (boundEntry l.ctx (tb (l.byte 25) 0)) y) x) (moveImages l (fun i p => own && decide (t.mates[i]? = some p)) s)
  if !l.resumes then freshTask t (largOf l gangs) s1
  else
    match (if own then savedOf s1 l else none) with
    | some v => restoreTask { l with gangs } t true v s1
    | none => restoreTask { l with gangs } t false (elsewhere l t (largOf l gangs) s1) { s1 with freeCtr := s1.freeCtr + 1 }

/-! ### Binding (R18, R316, R321) -/

/-- Gated quads of a placement begin to wake. -/
def wakeQuads (cells : List Nat) (s : State) : State :=
  let quads := (cells.map (· / 4)).eraseDups.filter (fun n => s.dev.gatedQuads.contains n)
  let s1 := mapDev (fun d => { d with gatedQuads := d.gatedQuads.filter (fun n => !quads.contains n), wakingQuads := d.wakingQuads ++ quads }) s
  if quads.contains (Config.cellNo / 4) then mapCell (fun k => { k with gated := false, waking := true }) s1 else s1

/-- Binds a launch: a dispatch decision, which ages every other waiting launch. The first binding of a context, and the next one after a
rebuild has begun, creates its log (R372, R409). -/
def bindLaunch (l : Launch) (gangs : Nat) (cells : List Nat) (s : State) : State :=
  let s1 := mapDev (fun d => { d with launches := d.launches.map (fun x =>
    if x.q = l.q ∧ x.num = l.num then { x with bound := true, started := false, gangs, cells, retired := [], req := false }
    else if x.waiting then { x with aged := x.aged + 1 } else x) }) s
  let others := s.dev.launches.any (fun x => x.bound && decide (x.ctx = l.ctx))
  let s2 := if s.dev.ctxs.any (fun c => decide (c.id = l.ctx) && (!c.rebuild || others)) then s1 else firstBinding l.ctx (mapCtx l.ctx id s1)
  let s3 := wakeQuads cells (recordTrace l gangs cells s2)
  if cells.contains Config.cellNo then bindCell l gangs (cells.idxOf Config.cellNo) cells s3 else moveImages l (fun _ _ => false) s3

/-- Ends a launch that waits, with a status. -/
def failWaiting (l : Launch) (st : Nat) (s : State) : State := mapLaunch l.q l.num (fun x => { x with ending := some st }) s

/-! ### Arrival (R306, R312, R313, R317, R318) -/

/-- A saturating count of 16 bits. -/
def inc16 (n : BitVec 16) : BitVec 16 := if n = BitVec.allOnes 16 then n else n + 1

/-- Whether an arriving launch matches the armed record of its queue (R318). -/
def armedMatch (s : State) (l : Launch) (a : Armed) : Bool :=
  decide (slice l.bytes 0 36 = a.header) && waitsMet s l && !depFault s l && !statusWaits s l.q &&
    (match presented s l.q with | some x => decide (x.num = l.num) | none => false) &&
    s.dev.launches.all (fun x => !x.waiting || decide (x.q = l.q ∧ x.num = l.num) || decide (effPrio x < l.prio)) &&
    a.cells.all (fun p => !s.dev.launches.any (fun x => x.bound && x.cells.contains p) && !s.dev.gatedQuads.contains (p / 4) &&
      !s.dev.wakingQuads.contains (p / 4)) &&
    placementOk l a.gangs a.cells && !traceBad s l && traceAgrees s l a.gangs a.cells

/-- A launch has arrived: it fails at once, matches the armed record of its queue, or waits for the firmware; one whose binding would
write to a page that a capture holds waits for the firmware too (R318, R404). -/
def arrive (l : Launch) (fn : Nat) (s : State) : State :=
  let s1 := mapDev (fun d => { d with launches := d.launches ++ [{ l with ending := arrivalFault s l fn }], arrivals := d.arrivals + 1 }) s
  if (arrivalFault s l fn).isSome then s1
  else
    match s.dev.armed.find? (fun a => decide (a.q = l.q)) with
    | none => s1
    | some a =>
      if armedMatch s1 l a then
        unlessHeld s1 (bindLaunch l a.gangs a.cells (mapDev (fun d => { d with
          armed := d.armed.filter (fun x => decide (x.q ≠ l.q)),
          queues := vset d.queues l.q (let k := vget d.queues l.q Queue.zero; { k with matched := inc16 k.matched }) }) s1))
      else
        let s2 := mapDev (fun d => { d with queues := vset d.queues l.q (let k := vget d.queues l.q Queue.zero; { k with missed := inc16 k.missed }) }) s1
        if slice l.bytes 0 36 = a.header then noteTrace l (noteWaits l s2) else s2

/-- The launch that record `n` of a queue posts. -/
def newLaunch (s : State) (q n : Nat) : Launch :=
  let bytes := (upTo 128).map (fun i => sget 0 s.dev.slots (0x800 * q + 0x80 * (n % 16) + i))
  { q, num := n, arrival := s.dev.arrivals, bytes, prio := nb (byteAt bytes 20) 0 3, aged := 0, bound := false, started := false,
    everBound := false, preempts := 0, gangs := 0, cells := [], retired := [], req := false, ending := none, tcause := 0 }

/-- Copies posted records of a queue into the device while it holds fewer than 1,024 waiting launches; each is checked against
the function that posted it (R311). -/
def takeRecords (q : Nat) : Nat → State → State
  | 0, s => s
  | n + 1, s =>
    let k := vget s.dev.queues q Queue.zero
    if k.head = k.tail ∨ 1024 ≤ (s.dev.launches.filter (·.waiting)).length then s
    else
      takeRecords q n (arrive (newLaunch s q k.head.toNat) (k.posters.headD 0)
        (mapDev (fun d => { d with queues := vset d.queues q { k with head := k.head + 1, posters := k.posters.tail } }) s))

/-- Copies what stands posted in any queue. -/
def takeAll (s : State) : State :=
  (upTo 64).foldl (fun x q =>
    let k := vget x.dev.queues q Queue.zero
    if k.head = k.tail then x else takeRecords q 16 x) s

/-- Whether a function reaches the registers of a queue (R312). -/
def queueReach (s : State) (fn q : Nat) : Bool :=
  decide (q < 64) && (decide (fn = 0) || decide (nb (vget s.dev.queues q Queue.zero).ctl.toNat 8 5 = fn))

/-- A write of QTAIL: the records up to it arrive; more than 16 posted and not taken, or a disabled queue, set OVF (R313). -/
def doorbell (fn q : Nat) (tail : BitVec 16) (s : State) : State :=
  let k := vget s.dev.queues q Queue.zero
  if !k.ctl.getLsbD 0 ∨ 16 < (tail - k.head).toNat then
    mapDev (fun d => { d with queues := vset d.queues q { k with ovf := true } }) s
  else
    let k1 := { k with tail, posters := (k.posters ++ List.replicate (tail - k.tail).toNat fn).take (tail - k.head).toNat }
    takeRecords q 16 (mapDev (fun d => { d with queues := vset d.queues q k1 }) s)

/-- The host writes records into the slots that follow the posted ones. -/
def writeSlots (q : Nat) (slots : List (List Byte)) (s : State) : State :=
  let k := vget s.dev.queues q Queue.zero
  let put (m : Sparse Byte) (p : Nat × List Byte) : Sparse Byte :=
    ((upTo 128).map (fun i => (i, BitVec.ofNat 8 (byteAt p.2 i)))).foldl
      (fun m x => sset 0 m (0x800 * q + 0x80 * ((k.tail.toNat + p.1) % 16) + x.1) x.2) m
  mapDev (fun d => { d with slots := (slots.mapIdx (fun i b => (i, b))).foldl put d.slots }) s

/-- LAUNCH_ARRIVAL: a function writes records into the slots of a queue and rings its doorbell (R313). -/
def execLaunchArrival (fn q tail : Nat) (slots : List (List (BitVec 8))) (s : State) : Host.Outcome State Fault Refusal :=
  .next (booted s (if queueReach s fn q then doorbell fn q (BitVec.ofNat 16 tail) (writeSlots q slots s) else s))

/-! ### Firmware (R18, R317, R318, R321) -/

/-- The firmware binds a presented or a pre-empted launch on cells that are free: it is ready, no launch that goes before it could be bound, and a
recorded trace is honoured. A launch with a faulted wait, or with a trace that cannot be honoured, fails. -/
def firmwareBind (q num gangs : Nat) (cells : List Nat) (s : State) : State :=
  match launchOf s q num with
  | none => s
  | some l =>
    if !l.waiting ∨ !isPresented s l then s
    else if !l.resumes && depFault s l then failWaiting l 7 s
    else if !launchReady s l then (if l.resumes then s else noteWaits l s)
    else if traceBad s l then failWaiting l 4 (noteTrace l s)
    else if s.dev.launches.any (fun x => x.waiting && launchReady s x && admitsBefore x l && couldBind s x) then s
    else if placementOk l gangs cells && cells.all (cellFree s) && traceAgrees s l gangs cells &&
        (!l.resumes || decide (gangs = l.gangs)) then
      unlessHeld s (takeAll (bindLaunch l gangs cells s))
    else s

/-- FIRMWARE_BIND (R317); in safe mode no cell is bound (R419). -/
def execFirmwareBind (q num : Nat) (gangs : Nat) (cells : List Nat) (s : State) : Host.Outcome State Fault Refusal :=
  .next (booted s (firmwareBind q num gangs cells s))

/-- ARMED_WITHDRAW: the firmware withdraws an armed record (R318). -/
def execArmedWithdraw (q : Nat) (s : State) : Host.Outcome State Fault Refusal :=
  .next (booted s (mapDev (fun d => { d with armed := d.armed.filter (fun a => decide (a.q ≠ q)) }) s))

/-- FIRMWARE_ARM: an armed record of a queue, with the header that it expects and the cells that it reserves (R318). -/
def execFirmwareArm (q : Nat) (header : List (BitVec 8)) (gangs : Nat) (cells : List Nat) (s : State) :
    Host.Outcome State Fault Refusal :=
  let others := s.dev.armed.filter (fun a => decide (a.q ≠ q))
  let free := { s with dev := { s.dev with armed := others } }
  .next (booted s (if q < 64 ∧ header.length = 36 ∧ cells.all (cellFree free) = true then
      mapDev (fun d => { d with armed := others ++ [{ q, header, gangs, cells }] }) s
    else s))

end Sys2Proof.Machine
end

