-- ==== Sys2Proof/Machine/Links.lean ====
section
/-! DEFINITION. Routes and the Ezwick ports: the router's table and live sets, ports going down, flits with their retry, and the
key slots of link encryption (spec/19_fabric.md R347 to R349; spec/24_surviving.md R390; spec/25_links_host_boot.md R411 to
R414). -/

namespace Sys2Proof.Machine

open Sys2Proof

/-! ### Ports -/

/-- A port. -/
def linkAt (s : State) (p : Nat) : LinkPort := vget s.dev.ports p LinkPort.zero

/-- A change of a port. -/
def mapLink (p : Nat) (f : LinkPort → LinkPort) (s : State) : State :=
  mapDev (fun d => { d with ports := vset d.ports p (f (vget d.ports p LinkPort.zero)) }) s

/-- The flits allowed per key, within its bounds (R414). -/
def LinkPort.limit (k : LinkPort) : Nat := Nat.min (2 ^ 48) (Nat.max (2 ^ 16) k.lim.toNat)

/-- The invocation counter of a slot: false A, true B. -/
def LinkPort.ctr (k : LinkPort) (slot : Bool) : Word := if slot then k.ctrB else k.ctrA

/-- The key of a slot. -/
def LinkPort.key (k : LinkPort) (slot : Bool) : Option (BitVec 256) := if slot then k.keyB else k.keyA

/-- Whether a slot holds a key. -/
def LinkPort.loaded (k : LinkPort) (slot : Bool) : Bool := (k.key slot).isSome

/-- The counter of a slot rises by a number of encrypted flits (R413). -/
def LinkPort.count (slot : Bool) (n : Nat) (k : LinkPort) : LinkPort :=
  if !k.enc then k
  else if slot then { k with ctrB := k.ctrB + BitVec.ofNat 64 n } else { k with ctrA := k.ctrA + BitVec.ofNat 64 n }

/-- Whether the active slot has used up its flits: the sender sends idle flits only (R414). -/
def LinkPort.limited (k : LinkPort) : Bool := k.enc && decide (k.limit ≤ (k.ctr k.slot).toNat)

/-- The neighbour's counter of a slot. -/
def LinkPort.rxCtr (k : LinkPort) (slot : Bool) : Word := if slot then k.rxB else k.rxA

/-- An encrypted flit has arrived under a slot. -/
def LinkPort.heard (slot : Bool) (k : LinkPort) : LinkPort := if slot then { k with rxB := k.rxB + 1 } else { k with rxA := k.rxA + 1 }

/-- The 12 bytes of the nonce of a flit: link id and counter, both little-endian (R413). -/
def LinkPort.nonce (k : LinkPort) (ctr : Word) : List Byte := leBytes 4 k.linkId.toNat ++ leBytes 8 ctr.toNat

/-- The 16 bytes of a flit's header: type, virtual channel, E and slot, sequence, acknowledged sequence, control (R411). -/
def flitHeader (kind vc : Nat) (enc slot : Bool) (seq ack ctl : Nat) : List Byte :=
  leBytes 1 kind ++ leBytes 1 (vc % 8 + 8 * b2n enc + 16 * b2n slot) ++ zeros 2 ++ leBytes 4 seq ++ leBytes 4 ack ++ leBytes 4 ctl

/-- The check of a flit with E = 0: the CRC-64 over header and payload, and its complement (R411). -/
def flitCheck (bytes : List Byte) : List Byte := leBytes 8 (crc64 bytes).toNat ++ leBytes 8 (~~~ crc64 bytes).toNat

/-- The check of a flit with E = 1: the 128-bit tag, of the header as additional data and of the ciphertext (R411). -/
def flitTag (key : BitVec 256) (nonce header cipher : List Byte) : List Byte := fit 16 (Config.gcmTag key nonce header cipher)

/-- The payload under a key and a nonce: plain to cipher and back (R411). -/
def flitCrypt (key : BitVec 256) (nonce payload : List Byte) : List Byte :=
  (fit 224 payload).zipWith (· ^^^ ·) (fit 224 (Config.gcmStream key nonce))

/-- The 256 bytes of a flit that a port sends, under the link's encryption as it stands; every flit acknowledges what has been received
(R411, R413). -/
def LinkPort.flit (k : LinkPort) (slot : Bool) (kind vc seq ctl : Nat) (payload : List Byte) : List Byte :=
  let header := flitHeader kind vc k.enc slot seq k.expect ctl
  match k.enc, k.key slot with
  | true, some key =>
      let nonce := k.nonce (k.ctr slot)
      let cipher := flitCrypt key nonce payload
      header ++ cipher ++ flitTag key nonce header cipher
  | _, _ => header ++ fit 224 payload ++ flitCheck (header ++ fit 224 payload)

/-- A flit leaves a port: 0 ACK, 1 NAK, 3 a key marker, 4 a packet, 5 a flit sent again, with its 256 bytes. The counter of its slot rises
after it (R411, R413). -/
def sendFlit (p what : Nat) (args : List Nat) (slot : Bool) (kind vc seq ctl : Nat) (payload : List Byte) (s : State) : State :=
  mapLink p (LinkPort.count slot 1) (send { vc := 8, kind := what, dst := p, args, data := (linkAt s p).flit slot kind vc seq ctl payload } s)

/-- A new flit under the active slot takes the next sequence number and a place of the retry buffer (R412). -/
def sendNew (p what : Nat) (args : List Nat) (kind vc : Nat) (payload : List Byte) (s : State) : State :=
  let k := linkAt s p
  mapLink p (fun k => { k with
      retry := k.retry ++ [{ seq := k.nextSeq, slot := k.slot, times := 0, kind, vc, payload }]
      nextSeq := (k.nextSeq + 1) % 2 ^ 32, sinceAck := k.sinceAck + 1 })
    (sendFlit p what args k.slot kind vc k.nextSeq 0 payload s)

/-- An ACK or a NAK, which carries the expected sequence. It takes no sequence number of its own; while only idle flits may be sent, an idle
flit's header carries it (R411, R412, R414, log 135). -/
def sendControl (p : Nat) (nak : Bool) (s : State) : State :=
  let k := linkAt s p
  sendFlit p (b2n nak) [k.expect] k.slot (if k.limited then 3 else 1) 0 k.nextSeq (b2n nak) [] s

/-- The security block reports BUSY (R414). -/
def securityBusy (p : Nat) (s : State) : State := send { vc := 8, kind := 2, dst := p, args := [], data := [] } s

/-- A port with its link gone: what it had sent and what it awaited are gone; a switch whose marker has not been sent stays asked for. -/
def LinkPort.fallen (k : LinkPort) : LinkPort :=
  { k with up := false, retry := [], owed := none, nextSeq := 0, expect := 0, discarding := false, sinceAck := 0, marker := none,
           switch := k.switch && k.marker.isNone }

/-- Whether a sequence of flits comes to a flit that the neighbour has not acknowledged for the 16th time. -/
def LinkPort.exhausted (k : LinkPort) : Bool := k.retry.any (fun r => decide (16 ≤ r.times))

/-- The oldest waiting packets of a port's channels leave while the retry buffer has room: each channel has buffers and credits of
its own, so the packets of a channel without credit in `dry` wait and hold back no other channel (R354). -/
def pumpPort (p : Nat) (dry : List Nat) : Nat → State → State
  | 0, s => s
  | n + 1, s =>
    let k := linkAt s p
    match k.transit.find? (fun t => t.flit.isNone && !dry.contains t.vc) with
    | none => s
    | some t =>
      if !k.up ∨ 256 ≤ k.retry.length ∨ k.limited ∨ (k.switch ∧ k.marker.isNone) then s
      else
        let args := [t.dst, t.tag, t.hops, t.src, t.q, t.epoch, t.seq, t.vc]
        pumpPort p dry n (sendNew p 4 args 0 t.vc (Config.packetPayload args)
          (mapLink p (fun k => { k with transit := (k.transit.erase t) ++ [{ t with flit := some k.nextSeq }] }) s))

/-- The channels of a port for which the neighbour has no buffer free now: a free choice, since the spec gives no counts of
buffers (R354, log 108). -/
def dryChannels (c : Nat) : List Nat := (upTo 8).filter (fun v => tb (Config.freeIndex c) v)

/-- An error of the link class (R390). -/
def linkError (s : State) : State :=
  (raiseError { cls := 9, src := 11, addr := 0, info := 0, eng := 0, cell := none, ctx := 0 } false s).2

/-- Whether sequence number `a` lies below `b`, modulo 2^32. -/
def seqBelow (a b : Nat) : Bool := decide (0 < (b + 2 ^ 32 - a % 2 ^ 32) % 2 ^ 32) && decide ((b + 2 ^ 32 - a % 2 ^ 32) % 2 ^ 32 < 2 ^ 31)

/-- A flit is sent again under its own slot with a new counter value, unless one before it waits, or the active slot has used up its
flits: then it and those after it wait for a switch (R412 to R414). -/
def resendOne (p : Nat) (r : SentFlit) (s : State) : State :=
  let k := linkAt s p
  if k.owed.isSome then s
  else if k.limited then mapLink p (fun k => { k with owed := some r.seq }) s
  else
    mapLink p (fun k => { k with
        retry := k.retry.map (fun x => if x.seq = r.seq then { x with times := x.times + 1 } else x), sinceAck := k.sinceAck + 1 })
      (sendFlit p 5 [r.seq, b2n r.slot] r.slot r.kind r.vc r.seq 0 r.payload s)

/-- The flits of the retry buffer from a number onward are sent again, in order. -/
def resendFlits (p from_ : Nat) (s : State) : State :=
  ((linkAt s p).retry.filter (fun r => !seqBelow r.seq from_)).foldl (fun x r => resendOne p r x) (mapLink p (fun k => { k with owed := none }) s)

/-- A key marker that a switch asks for goes out under the active slot once the port is up and the retry buffer has room; every later flit
uses the other slot, and what waited for the switch is sent again (R414). -/
def sendMarker (p : Nat) (s : State) : State :=
  let k := linkAt s p
  if !k.switch ∨ k.marker.isSome ∨ !k.up ∨ 256 ≤ k.retry.length then s
  else
    let s1 := mapLink p (fun x => { x with slot := !k.slot, marker := some k.nextSeq, limRaised := false }) (sendNew p 3 [k.nextSeq] 2 0 [] s)
    match k.owed with
    | some n => resendFlits p n s1
    | none => s1

/-- Sends what waits at a port: a marker first. -/
def pump (p : Nat) (s0 : State) : State :=
  let s := sendMarker p s0
  if (linkAt s p).transit.all (fun t => t.flit.isSome) then s
  else
    let c := takeFree s
    pumpPort p (dryChannels c.1) (linkAt s p).transit.length c.2

/-! ### Routes (R348, R349) -/

/-- Whether an entry is valid: RT.V, no reserved bit, no port above 23. -/
def routeOk (e : Nat) : Bool :=
  tb e 63 && decide (nb e 43 20 = 0) && (upTo (nb e 40 3 + 1)).all (fun i => decide (nb e (5 * i) 5 < 24))

/-- The entry that a hop uses: while FRTLOAD copies, the old one or the new one, by a free choice (R348). -/
def hopEntry (s : State) (dst : Nat) : Nat :=
  match s.dev.frtLoad with
  | none => routeEntry s dst
  | some base => if tb (Config.freeIndex s.freeCtr) 0 then homeNat s (base + 8 * dst) 8 else routeEntry s dst

/-- The live set of an entry, in listed order. -/
def liveSet (s : State) (e : Nat) : List Nat :=
  if !routeOk e then []
  else ((upTo (nb e 40 3 + 1)).map (fun i => nb e (5 * i) 5)).filter (fun p => s.dev.linkUp.getLsbD p)

/-- The router reads the oldest payload that a port has delivered on a channel. -/
def readRx (p vc : Nat) (s : State) : State :=
  mapLink p (fun k => { k with rx := k.rx.eraseP (fun r => decide (r.1 = vc)) }) s

/-- PACKET_FORWARD: a hop sends a packet out of port number p mod L of the live set, or returns it UNREACHABLE. A packet for the
own id goes to the local port, where its arrival is REQUEST_PACKET_ARRIVE (R348, R349). One that has come over a port is in the payload of
the oldest flit of its channel delivered there, which the router reads; with none delivered there is none (R412, log 135). -/
def execPacketForward (dst tag hops src : Nat) (by_ : Carrier) (epoch seq : Nat) (s0 : State) : Host.Outcome State Fault Refusal :=
  .next (
    if by_.port.any (fun p => (linkAt s0 p).rx.all (fun r => decide (r.1 ≠ by_.vc))) then s0
    else
      let s1 := match by_.port with | some p => readRx p by_.vc s0 | none => s0
      if dst = s1.dev.fdevid.toNat then s1
      else
      let live := liveSet s1 (hopEntry s1 dst)
      let s := if s1.dev.frtLoad.isSome then (takeFree s1).2 else s1
      match live[tag % live.length]? with
      | none => notice 1 src by_.q dst epoch tag seq s
      | some p =>
        if 64 ≤ hops then notice 1 src by_.q dst epoch tag seq s
        else
          pump p (mapLink p (fun k =>
            { k with transit := k.transit ++ [{ dst, tag, hops := hops + 1, src, q := by_.q, epoch, seq, vc := by_.vc, flit := none }] }) s))

/-- FRTLOAD: a write of 1 starts the copy of the table at FRTBASE into the router; one that finds the bit set changes nothing
(R2, R347). -/
def execFrtload (s : State) : Host.Outcome State Fault Refusal :=
  .next (booted s (mapDev (fun d => { d with frtLoad := d.frtLoad.or (some d.frtBase.toNat) }) s))

/-- The copy is complete: the router's table is the one in memory, and FRTLOAD reads 0 (R347, R348). -/
def routesCopied (s : State) : State :=
  match s.dev.frtLoad with
  | none => s
  | some base => mapDev (fun d => { d with frtLoad := none, frt := (upTo 16384).foldl (fun m i =>
      sset 0 m i (BitVec.ofNat 64 (homeNat s (base + 8 * i) 8))) [] }) s

/-- A port goes down: the packets that it holds and the neighbour has not acknowledged return to their sources (R349). -/
def portDown (p : Nat) (s : State) : State :=
  let k := linkAt s p
  k.transit.foldl (fun x t => notice 0 t.src t.q t.dst t.epoch t.tag t.seq x)
    (mapLink p (fun k => { k with transit := [] })
      (mapDev (fun d => { d with linkUp := d.linkUp &&& ~~~ (BitVec.ofNat 24 (2 ^ p)) }) s))

/-- FLINKDN: the named ports go down (R347, R349). -/
def execFlinkdn (ports : BitVec 24) (s : State) : Host.Outcome State Fault Refusal :=
  .next (booted s ((upTo 24).foldl (fun x p => if ports.getLsbD p then portDown p x else x) s))

/-! ### Flits (R411, R412) -/

/-- Every flit below a number has been received by the neighbour. -/
def ackedBelow (p n : Nat) (s : State) : State :=
  mapLink p (fun k =>
    let left := k.retry.filter (fun r => !seqBelow r.seq n)
    let marked := match k.marker with | some m => seqBelow m n | none => false
    { k with
      retry := left, sinceAck := if left.length < k.retry.length then 0 else k.sinceAck,
      transit := k.transit.filter (fun t => match t.flit with | some f => !seqBelow f n | none => true),
      marker := if marked then none else k.marker, switch := k.switch && !marked }) s

/-- An acknowledgement makes room for what waits. -/
def ackBelow (p n : Nat) (s : State) : State := pump p (ackedBelow p n s)

/-- The link is dead: its port goes down, and it starts again when training succeeds (R412). -/
def linkDead (p : Nat) (s : State) : State :=
  linkError (mapLink p LinkPort.fallen (portDown p s))

/-- Flits from a number onward are sent again; a sequence sent again 16 times makes the link dead (R412). -/
def resendFrom (p from_ : Nat) (s : State) : State :=
  let s1 := resendFlits p from_ s
  if (linkAt s1 p).exhausted then linkDead p s1 else s1

/-- A flit that is not taken: a NAK carries the expected sequence, and flits are discarded until it comes. -/
def refuseFlit (p : Nat) (s : State) : State := mapLink p (fun k => { k with discarding := true }) (sendControl p true s)

/-- A sequenced flit is taken, in order and once: a data flit's payload is delivered on its channel, a marker changes the receiver's slot
(R412, R414). -/
def takeFlit (p : Nat) (marker : Bool) (vc : Nat) (payload : List Byte) (s : State) : State :=
  sendControl p false (mapLink p (fun k =>
    { k with expect := (k.expect + 1) % 2 ^ 32, discarding := false, rxSlot := if marker then !k.rxSlot else k.rxSlot,
             rx := if marker then k.rx else k.rx ++ [(vc % 8, payload)] }) s)

/-- A NAK: the sender sends again from the named sequence onward; every flit below it has been received (R412). -/
def nakFrom (p n : Nat) (s : State) : State := pump p (resendFrom p n (ackedBelow p n s))

/-- A flit's header and the plain payload, if its check passes: with E = 1 under the key of its slot and the neighbour's counter, with
E = 0 only where the port does not ask for encryption (R411, R413, R414). -/
def openFlit (k : LinkPort) (kind seq ack : Nat) (enc : Bool) (b : FlitBody) (slot : Bool) : Option (List Byte) :=
  let header := flitHeader kind b.vc enc slot seq ack b.ctl
  if enc then
    match k.key slot with
    | none => none
    | some key =>
      let nonce := k.nonce (k.rxCtr slot)
      if b.check = flitTag key nonce header b.payload then some (flitCrypt key nonce b.payload) else none
  else if !k.enc && decide (b.check = flitCheck (header ++ b.payload)) then some b.payload
  else none

/-- A flit arrives (R412). A sequenced flit with E = 1 must stand under the receiver's slot. -/
def flitArrive (p kind seq ack : Nat) (enc : Bool) (b : FlitBody) (slot : Bool) (s0 : State) : State :=
  let k := linkAt s0 p
  let s := if enc then mapLink p (LinkPort.heard slot) s0 else s0
  let failed (s : State) : State := if k.discarding then linkError s else linkError (refuseFlit p s)
  if !k.up then s0
  else
    match openFlit k kind seq ack enc b slot with
    | none => failed s
    | some plain =>
      if 4 ≤ kind then (if k.discarding then s else refuseFlit p s)
      else if kind = 1 ∨ kind = 3 then
        (if k.discarding then s else if tb b.ctl 0 then nakFrom p ack s else ackBelow p ack s)
      else if seq ≠ k.expect then (if k.discarding then s else refuseFlit p s)
      else if enc && decide (slot ≠ k.rxSlot) then failed s
      else ackBelow p ack (takeFlit p (decide (kind = 2)) b.vc plain s)

/-- FLIT_RECEIVE (R412). -/
def execFlitReceive (port : Fin 24) (kind seq ack : Nat) (enc : Bool) (body : FlitBody) (slot : Bool) (s : State) :
    Host.Outcome State Fault Refusal := .next (flitArrive port.val kind seq ack enc body slot s)

/-- NAK_RECEIVE (R412). -/
def execNakReceive (port : Fin 24) (seq : Nat) (s : State) : Host.Outcome State Fault Refusal :=
  .next (if (linkAt s port.val).up then nakFrom port.val seq s else s)

/-- RETRY_BUFFER_RESEND: the buffer is full and no ACK has come for 256 flits, those sent again among them: the flits are sent again from the
oldest on (R412). -/
def execRetryBufferResend (port : Fin 24) (s : State) : Host.Outcome State Fault Refusal :=
  let k := linkAt s port.val
  .next (match k.retry with
    | [] => s
    | r :: _ =>
      if k.up ∧ 256 ≤ k.retry.length ∧ 256 ≤ k.sinceAck then
        resendFrom port.val r.seq (mapLink port.val (fun k => { k with sinceAck := 0 }) s)
      else s)

/-- LINK_DEATH: a sequence was sent again 16 times, or the receiver lost lock (R412). -/
def execLinkDeath (port : Fin 24) (s : State) : Host.Outcome State Fault Refusal :=
  .next (if (linkAt s port.val).up then linkDead port.val s else s)

/-- LINK_TRAINED: the link of an enabled port comes up, and the port rejoins live sets (R349, R412, R414). -/
def execLinkTrained (port : Fin 24) (s : State) : Host.Outcome State Fault Refusal :=
  let k := linkAt s port.val
  .next (if k.en ∧ !s.dev.linkUp.getLsbD port.val then
      mapDev (fun d => { d with linkUp := d.linkUp ||| BitVec.ofNat 24 (2 ^ port.val) }) (pump port.val (mapLink port.val (fun k => { k with up := true }) s))
    else s)

/-! ### Link encryption (R413, R414) -/

/-- KEY_MARKER_RECEIVE: the expected flit is a key marker (R414). -/
def execKeyMarkerReceive (port : Fin 24) (s : State) : Host.Outcome State Fault Refusal :=
  let k := linkAt s port.val
  .next (if k.up then takeFlit port.val true 0 [] (if k.enc then mapLink port.val (LinkPort.heard k.rxSlot) s else s) else s)

/-- KEY_LOAD: a key that the security block has derived with the neighbour enters a slot with its counter at 0; the active slot and a slot
whose marker is not acknowledged refuse it (R413, R414). -/
def execKeyLoad (port : Fin 24) (slot : LinkKey) (s : State) : Host.Outcome State Fault Refusal :=
  let k := linkAt s port.val
  .next (booted s (if slot.slot = k.slot ∨ k.switch = true then securityBusy port.val s
    else
      mapLink port.val (fun k =>
        if slot.slot then { k with keyB := some slot.key, ctrB := 0, rxB := 0 } else { k with keyA := some slot.key, ctrA := 0, rxA := 0 }) s))

/-- LKCTL_SWITCH: a key marker goes out under the active slot, and every later flit uses the other; with the other slot empty the
write is ignored. The bit reads 1 from the write on; a port that is down, or whose retry buffer is full, sends the marker as soon as it
can, before any other new flit (R2, R414). -/
def execLkctlSwitch (port : Fin 24) (s : State) : Host.Outcome State Fault Refusal :=
  let k := linkAt s port.val
  .next (booted s (if !k.loaded (!k.slot) ∨ k.switch then s else pump port.val (mapLink port.val (fun k => { k with switch := true }) s)))

/-- KEYLIM_REACHED: the active slot has reached its limit; class 9 is raised once (R414). -/
def execKeylimReached (port : Fin 24) (s : State) : Host.Outcome State Fault Refusal :=
  let k := linkAt s port.val
  .next (if k.limited ∧ !k.limRaised then linkError (mapLink port.val (fun k => { k with limRaised := true }) s) else s)

end Sys2Proof.Machine
end

