-- ==== Sys2Proof/Machine/MatOps.lean ====
section
/-! DEFINITION. The matrix engine's operands and its work: regions, formats and rows, rings, planes and scales, tile steps,
drains, nests and the sampler (spec/07_matrix.md R159 to R181, R185, R186; spec/10_engines.md R244 to R246;
spec/12_sampled.md R266 to R279). -/

namespace Sys2Proof.Machine

open Sys2Proof

/-! ### Faults (R185) -/

/-- A fault of the matrix stream freezes the cell; the faulting word stands at the matrix PC and has no effect. -/
def matFault (code : Nat) (v : Word) (s : State) : State :=
  freezeCell code 5 v (mapMat (fun m => { m with pc := (m.work.map (·.pc)).getD m.pc, work := none }) s)

/-- A fault that a matrix word may raise: cause and value, which is 0, the descriptor number, or the address (R109). -/
abbrev MatBad := Option (Nat × Nat)

/-- The fault that a word raises among those that it meets: the matrix-format fault, with either cause, comes before those of its
execution (R70). -/
def firstBad (l : List MatBad) : MatBad :=
  let xs := l.filterMap id
  (xs.find? (fun x => decide (x.1 ≠ cAccess))).or xs.head?

/-- Raises a fault. -/
def matRaise (x : Nat × Nat) (s : State) : State := matFault x.1 (BitVec.ofNat 64 x.2) s

/-- The work of the running word. -/
def mapWork (g : MWork → MWork) (s : State) : State := mapMat (fun m => { m with work := m.work.map g }) s

/-- Counted cycles of the matrix segment (R262). -/
def matTick (n : Nat) (s : State) : State :=
  mapMat (fun m => { m with seg := if m.seg.opened then { m.seg with count := m.seg.count + BitVec.ofNat 32 n } else m.seg }) s

/-! ### Scratchpad regions (R170) -/

/-- Whether every 64 KiB region that `n` bytes touch is allocated to the context. -/
def regionOk (s : State) (k : Acc) (a n : Nat) : Bool :=
  let first := a / 65536
  let last := (a + n - 1) / 65536
  (upTo (last - first + 1)).all (fun i => spaOk s ownPos (65536 * (first + i)) k false)

/-- Whether every 64 KiB region that `n` bytes touch is unformatted. -/
def regionPlain (s : State) (a n : Nat) : Bool :=
  let first := a / 65536
  let last := (a + n - 1) / 65536
  (upTo (last - first + 1)).all (fun i => !(spaAttr s ownPos (65536 * (first + i))).fmt)

/-- The fault of a scratchpad region: past the end MATFMT, not allocated ACCESS (R170). -/
def regionFault (s : State) (k : Acc) (a n : Nat) : MatBad :=
  if 2 ^ 23 < a + n then some (cMatFmt, 0) else if regionOk s k a n then none else some (cAccess, a)

/-- The location that AUX names: none is a fault, else a ring or a scratchpad address (R170). -/
inductive AuxAt where
  | bad
  | ring
  | addr (a : Nat)
  deriving DecidableEq, Repr

/-- R170. -/
def auxAt (aux : BitVec 32) : AuxAt :=
  if aux.getLsbD 31 then (if nb aux.toNat 0 31 = 0 then .ring else .bad)
  else if nb aux.toNat 17 14 ≠ 0 then .bad
  else .addr (64 * nb aux.toNat 0 17)

/-! ### Formats and rows (R161, R162) -/

/-- The format of a row: narrow through a descriptor, or wide code 0 f32, 1 BF16, 2 h16, 3 FA40. -/
inductive RowFmt where
  | narrow (d : Desc)
  | wide (c : Nat)
  deriving DecidableEq, Repr

/-- Bits of a container. -/
def RowFmt.bits : RowFmt → Nat
  | .narrow d => d.box
  | .wide 0 => 32
  | .wide 3 => 64
  | .wide _ => 16

/-- Bytes of the block scales of a row: none without blocks. -/
def RowFmt.trailer : RowFmt → Nat
  | .narrow d => if d.blk = 0 then 0 else 192 / blockSize d.blk * (if d.scf = 0 then 1 else if d.scf = 1 then 2 else 4)
  | .wide _ => 0

/-- Bytes of a row, with or without its trailer. -/
def RowFmt.bytes (f : RowFmt) (tr : Bool) : Nat := 192 * f.bits / 8 + (if tr then f.trailer else 0)

/-- The row pitch P (R162). -/
def RowFmt.pitch (f : RowFmt) (tr : Bool) : Nat := (f.bytes tr + 63) / 64 * 64

/-- The wide format of a wide code. -/
def wideCode (c : Nat) : Wide := if c = 0 then wF32 else if c = 1 then wBf16 else if c = 2 then wH16 else wFa40

/-- The format of an operand from the page of its first byte and the field that names it (R161). -/
def rowFmt (s : State) (a : Nat) (field : BitVec 4) (desc : Word) (wides : List Nat) : Except (Nat × Nat) RowFmt :=
  let p := spaAttr s ownPos a
  if p.fmt then
    if p.desc ≠ field.toNat then .error (cMatFmt, 0)
    else if (descOf desc).valid then .ok (.narrow (descOf desc)) else .error (cFormat, p.desc)
  else if wides.contains field.toNat then .ok (.wide field.toNat) else .error (cMatFmt, 0)

/-- The fault of one row at an address, whose operand's first byte has attributes `p`: every byte lies in pages with the same formatted
bit and descriptor index (R161, R170). -/
def rowFault (s : State) (k : Acc) (p : Attr) (a n : Nat) : MatBad :=
  let same (x : Attr) : Bool := decide (x.fmt = p.fmt) && decide (x.desc = p.desc)
  firstBad [if same (spaAttr s ownPos a) && same (spaAttr s ownPos (a + n - 1)) then none else some (cMatFmt, 0), regionFault s k a n]

/-- Container `i` of a row. -/
def rowCode (f : RowFmt) (bs : List Byte) (i : Nat) : Nat :=
  match f with
  | .narrow d => if d.box = 4 then boxGet d (byteAt bs (i / 2)) (i % 2) else byteAt bs i
  | .wide 0 => leAt bs (4 * i) 4
  | .wide _ => leAt bs (2 * i) 2

/-- Whether one of the bytes of container `i` is marked. -/
def rowMark (f : RowFmt) (ms : List Bool) (i : Nat) : Bool :=
  let b := f.bits
  if b < 8 then ms[i * b / 8]?.getD false else (upTo (b / 8)).any (fun k => ms[i * b / 8 + k]?.getD false)

/-- The scale of element `i` with its mark; 1 without blocks (R162, R36). -/
def rowScale (f : RowFmt) (tr : Bool) (bs : List Byte) (ms : List Bool) (i : Nat) : FV × Bool :=
  match f with
  | .narrow d =>
    if !tr ∨ d.blk = 0 then (.fin false 1 0, false)
    else
      let n := if d.scf = 0 then 1 else if d.scf = 1 then 2 else 4
      let o := f.bytes false + n * (i / blockSize d.blk)
      (scaleVal d.scf (leAt bs o 2) (leAt bs (o + 2) 2), (upTo n).any (fun k => ms[o + k]?.getD false))
  | .wide _ => (.fin false 1 0, false)

/-- The exact value of a container. -/
def rowVal (f : RowFmt) (code : Nat) : FV :=
  match f with
  | .narrow d => d.dec code
  | .wide c => (wideCode c).dec code

/-- The 192 elements of a row with their scales, and their marks (R162, R164). -/
def decodeRow (f : RowFmt) (tr : Bool) (r : List Byte × List Bool) : List (FV × Bool) :=
  (upTo 192).map (fun i =>
    let sc := rowScale f tr r.1 r.2 i
    let v := rowVal f (rowCode f r.1 i)
    ((match f with
      | .narrow d => if tr ∧ d.blk ≠ 0 then v.mul sc.1 else v
      | .wide _ => v), rowMark f r.2 i || sc.2))

/-- Bytes of the own scratchpad with their marks. -/
def readRow (s : State) (a n : Nat) : List Byte × List Bool :=
  let l := locSpad ownPos a
  (cellBytes 5 s l n, (upTo n).map (fun i => inSet s.dev.poison (l + i)))

/-- Whether a write of the matrix engine must wait for a store of another engine that is still short of its home. -/
def matBlocked (s : State) (a n : Nat) : Bool := overlapsPending s (locSpad ownPos a) n

/-- A row is written, with marks on the bytes of marked containers (R180). -/
def writeRow (a : Nat) (bs : List Byte) (marks : List Bool) (s : State) : State :=
  let l := locSpad ownPos a
  let s1 := homePut l bs s
  (marks.mapIdx (fun i m => (i, m))).foldl (fun x p => if p.2 then markBytes (l + p.1) 1 true x else x) s1

/-- Rows per cycle of a step as cycles for its rows: the wider of the operand widths (R166). -/
def stepCycles (rows width : Nat) : Nat := if width ≤ 4 then (rows + 1) / 2 else if width ≤ 8 then rows else 4 * rows

/-- The width of a format (R166). -/
def RowFmt.width : RowFmt → Nat
  | .narrow d => d.w
  | .wide _ => 16

/-! ### Rings (R163, R209) -/

/-- A ring. -/
def ringOf (s : State) (m : Nat) : Ring := vget s.cell.rings m Ring.zero

/-- The scratchpad address of row `r` of pitch `p`, counted from an offset into a tile. -/
def ringAt (g : Ring) (tile off p r : Nat) : Nat :=
  let o := off + r * p
  g.base + (tile + o / g.size) % g.cap * g.size + o % g.size

/-- The address of the next row to read. -/
def ringHead (s : State) (m p r : Nat) : Nat := ringAt (ringOf s m) (ringOf s m).head (vget s.mat.rd m 0) p r

/-- The address of the next row to write. -/
def ringTail (s : State) (m p r : Nat) : Nat := ringAt (ringOf s m) (ringOf s m).tail (vget s.mat.wr m 0) p r

/-- The read offset moves past a row, and a finished tile is popped (R163). -/
def ringRead (m p : Nat) (s : State) : State :=
  let o := vget s.mat.rd m 0 + p
  if (ringOf s m).size ≤ o then ringConsume m 1 (mapMat (fun x => { x with rd := vset x.rd m 0 }) s)
  else mapMat (fun x => { x with rd := vset x.rd m o }) s

/-- The write offset moves past a row, and a filled tile is given on (R163); one that a row has run past, from an offset that a word of another
pitch left, is given on too and the offset starts at 0 (DESIGN CHOICE, log 115). -/
def ringWrote (m p : Nat) (s : State) : State :=
  let o := vget s.mat.wr m 0 + p
  if (ringOf s m).size ≤ o then ringProduce m 1 (mapMat (fun x => { x with wr := vset x.wr m 0 }) s)
  else mapMat (fun x => { x with wr := vset x.wr m o }) s

/-- The fault of a ring operand of `n` rows at its start: unconfigured, a tile that no whole number of rows fills, or a row in
pages of another kind (R161, R163, R209). -/
def ringFault (s : State) (k : Acc) (m p bytes n : Nat) (at_ : Nat → Nat) : MatBad :=
  let g := ringOf s m
  if g.size % p ≠ 0 then some (cMatFmt, 0)
  else
    let a := spaAttr s ownPos (at_ 0)
    firstBad ((upTo n).map (fun r => rowFault s k a (at_ r) bytes))

/-! ### Planes, accumulators and scales (R159, R164) -/

/-- The plane that FLG.SHD selects. -/
def planeOf (s : State) (f : MWord) : Plane := if f.flg.getLsbD 1 then s.mat.shadow else s.mat.active

/-- The format of a plane's elements: narrow, BF16 or h16. -/
def planeFmt (p : Plane) : RowFmt := if p.cls = 0 then .narrow (descOf p.desc) else .wide p.cls.toNat

/-- Element (i, j) of a plane. -/
def planeVal (p : Plane) (i j : Nat) : FV := rowVal (planeFmt p) (sget 0 p.elems (192 * i + j)).toNat

/-- Blocks of a plane: block size, scale format and entries; none without blocks. -/
def planeBlocks (p : Plane) : Option (Nat × Nat × Nat) :=
  if p.cls ≠ 0 then none
  else
    let d := descOf p.desc
    if d.blk = 0 then none else some (blockSize d.blk, d.scf, 192 / blockSize d.blk * (if d.scf = 2 then 2 else 1))

/-- Whether the scale offset of a step keeps the limits of its plane (R164, R175). -/
def scoOk (p : Plane) (sco : Nat) : Bool :=
  match planeBlocks p with
  | none => decide (sco = 0)
  | some (_, scf, n) => decide (sco + n ≤ 256) && (decide (scf ≠ 2) || decide (sco % 2 = 0))

/-- The scale of weight element whose block index is `i` and whose column of scales is `col`. -/
def planeScale (s : State) (p : Plane) (sco i col : Nat) : FV :=
  match planeBlocks p with
  | none => .fin false 1 0
  | some (b, scf, _) =>
    let e (k : Nat) : Nat := (sget 0 s.mat.scale (256 * col + k)).toNat
    let k := i / b
    if scf = 2 then scaleVal scf (e (sco + 2 * k)) (e (sco + 2 * k + 1)) else scaleVal scf (e (sco + k)) 0

/-- An accumulator element. -/
def accVal (s : State) (r c : Nat) : FV := wFa40.dec (sget 0 s.mat.acc (192 * r + c)).toNat

/-- Writes an accumulator element with its mark. -/
def accPut (r c code : Nat) (mark : Bool) (s : State) : State :=
  mapMat (fun m => { m with
    acc := sset 0 m.acc (192 * r + c) (BitVec.ofNat 40 code),
    accP := if m.accP.isEmpty && !mark then m.accP else putSet m.accP (192 * r + c) mark }) s

/-- Writes an accumulator row. -/
def accRow (r : Nat) (vals : List (Nat × Bool)) (s : State) : State :=
  (vals.mapIdx (fun c v => (c, v))).foldl (fun x p => accPut (r % 1024) p.1 p.2.1 p.2.2 x) s

/-- The prior value of an accumulator element, when the step accumulates (R165). -/
def priorOf (s : State) (f : MWord) (r c : Nat) : List FV × Bool :=
  if f.flg.getLsbD 0 then ([accVal s (r % 1024) c], inSet s.mat.accP (192 * (r % 1024) + c)) else ([], false)

/-! ### Nests and steps (R244 to R246) -/

/-- A field of level `k` of a nest table. -/
def nestField (t : BitVec 1024) (k off n : Nat) : Nat := nb t.toNat (128 * k + off) n

/-- The active table of a nest. -/
def nestOf (s : State) (w : MWork) : BitVec 1024 := vget s.mat.nestA w.f.nst.toNat 0

/-- A sum of strides over the levels of a nest. -/
def nestSum (t : BitVec 1024) (idx : List Nat) (off n : Nat) : Int :=
  (idx.mapIdx (fun (k i : Nat) => (i : Int) * sx (nestField t k off n) n)).foldl (· + ·) 0

/-- What a tile step works on: mode 0 ROW, 1 COL, 2 OUTER, 3 SAMP. -/
structure StepArgs where
  mode : Nat
  acc : Nat
  sco : Int
  tor : BitVec 32
  toc : BitVec 32

/-- The arguments of the current step of a word (R67, R246). -/
def stepArgs (s : State) (w : MWork) : StepArgs :=
  let mode := if w.op = 0x12 then 2 else if w.op = 0x1A then 3 else w.f.rb.toNat / 4
  if w.op = 0x17 then
    let t := nestOf s w
    { mode, acc := (((w.f.acc.toNat : Int) + nestSum t w.idx 32 16) % 1024).toNat, sco := (w.f.sco.toNat : Int) + nestSum t w.idx 24 8,
      tor := w.f.tor + BitVec.ofInt 32 (nestSum t w.idx 64 32), toc := w.f.toc + BitVec.ofInt 32 (nestSum t w.idx 96 32) }
  else { mode, acc := w.f.acc.toNat, sco := w.f.sco.toNat, tor := w.f.tor, toc := w.f.toc }

/-- The B ring of an OUTER step, or the draw ring of a sampling word with EXT (R67). -/
def secondRing (w : MWork) : Nat := if w.op = 0x12 ∨ w.op = 0x1A then w.f.rb.toNat else (w.f.ra.toNat + 1) % 16

/-- Whether every index below level `k` stands at its last value. -/
def nestLast (t : BitVec 1024) (idx : List Nat) (k : Nat) : Bool :=
  (upTo k).all (fun i => decide (idx[i]?.getD 0 = nestField t i 0 16))

/-- Tiles that the nest pops after the current step (R246). -/
def nestPops (t : BitVec 1024) (idx : List Nat) : Nat :=
  ((upTo 6).map (fun k => if nestLast t idx k then nestField t k 16 8 else 0)).foldl (· + ·) 0

/-- The indices of the next step; none after the last. -/
def nestNext (t : BitVec 1024) (idx : List Nat) : Option (List Nat) :=
  match (upTo 6).find? (fun k => decide (idx[k]?.getD 0 < nestField t k 0 16)) with
  | none => none
  | some k => some ((upTo 6).map (fun i => if i < k then 0 else idx[i]?.getD 0 + (if i = k then 1 else 0)))

/-! ### Ends of work -/

/-- The rings that a word uses: those of its operands in its mode, and with a drain on end that of the template (R67, R170, R181,
R210, R274). -/
def ringsOf (t : Option MWord) (op : Nat) (f : MWord) : List Nat :=
  let mode := if op = 0x12 then 2 else if op = 0x1A then 3 else f.rb.toNat / 4
  let second := if op = 0x12 ∨ op = 0x1A then f.rb.toNat else (f.ra.toNat + 1) % 16
  let onRing (f : MWord) : List Nat := if f.aux.getLsbD 31 then [f.ra.toNat] else []
  if op = 0x10 ∨ op = 0x13 then onRing f
  else if op = 0x11 ∨ op = 0x12 ∨ op = 0x17 ∨ op = 0x1A then
    (if mode ≤ 1 then [f.ra.toNat] else if mode = 2 then [f.ra.toNat, second] else if f.flg.getLsbD 4 then [second] else []) ++
      (if f.flg.getLsbD 2 then (t.map onRing).getD [] else [])
  else []

/-- The word's work is done; its completion is still to be counted (R168). -/
def workDone (s : State) : State :=
  match s.mat.work with
  | none => s
  | some w => mapMat (fun m => { m with work := none, unfinished := m.unfinished ++ [(w.op, ringsOf m.template w.op w.f)] }) s

/-- The fields of a word with a drain on end, as its drain uses them (R181). -/
def drainFields (s : State) (w : MWork) : MWord :=
  let a := stepArgs s w
  match s.mat.template with
  | none => MWord.zero
  | some t =>
    { t with acc := BitVec.ofNat 10 a.acc, cnt := if a.mode ≤ 1 then w.f.cnt else 191 }

/-- The fields of the drain that runs: those of an MDRAIN, or of the template. -/
def drainOf (s : State) (w : MWork) : MWord := if w.op = 0x13 then w.f else drainFields s w

/-- A format as the page's kind, the captured descriptor and the wide code give it (R161). -/
def pageFmt (fmt : Bool) (desc : Word) (code : Nat) : RowFmt := if fmt then .narrow (descOf desc) else .wide code

/-- The formats of operands A and B of a step. -/
def MWork.fmtA (w : MWork) : RowFmt := pageFmt w.pageA w.fdA w.f.fda.toNat

/-- The format of operand B. -/
def MWork.fmtB (w : MWork) : RowFmt := pageFmt w.pageB w.fdB w.f.fdb.toNat

/-- Cycles of a drain (R168). -/
def drainCycles (f : MWord) : Nat := f.cnt.toNat + 1

/-- A tile step has written its rows: the drain on end follows, or the nest goes on, or the word is done (R181, R246). -/
def stepEnds (s : State) : State :=
  match s.mat.work with
  | none => s
  | some w =>
    if w.f.flg.getLsbD 2 && !w.drain then
      mapWork (fun w => { w with drain := true, row := 0, aRows := [], bRows := [], ks := [], draws := [], nDiv := s.cell.sampN }) s
    else if w.op = 0x17 then
      mapWork (fun w => { w with popping := true, pops := nestPops (nestOf s w) w.idx, drain := false, row := 0, aRows := [], bRows := [], ks := [], draws := [] }) s
    else workDone s

/-- The nest pops its tiles, and goes on with its next step (R246). -/
def nestGoes (s : State) : State :=
  match s.mat.work with
  | none => s
  | some w =>
    if w.pops = 0 then
      match nestNext (nestOf s w) w.idx with
      | none => workDone s
      | some idx => mapWork (fun w => { w with idx, popping := false, begun := false }) s
    else mapWork (fun w => { w with pops := w.pops - 1 }) (ringConsume w.f.ra.toNat 1 s)

/-! ### Loading weights (R171 to R173) -/

/-- The source format of MLOADW on an unformatted page: f32, BF16 or h16. -/
def loadWide (fdb : BitVec 4) : Nat := fdb.toNat / 4

/-- The format of the source of MLOADW. -/
def loadFmt (s : State) (w : MWork) (a : Nat) : Except (Nat × Nat) RowFmt :=
  let p := spaAttr s ownPos a
  if p.fmt then
    if loadWide w.f.fdb ≠ 0 then .error (cMatFmt, 0)
    else if (descOf w.fdB).valid then .ok (.narrow (descOf w.fdB)) else .error (cFormat, p.desc)
  else if loadWide w.f.fdb = 3 then .error (cMatFmt, 0) else .ok (.wide (loadWide w.f.fdb))

/-- The format of the source of a running MLOADW. -/
def MWork.fmtS (w : MWork) : RowFmt := pageFmt w.pageB w.fdB (loadWide w.f.fdb)

/-- The address of source row `r` of MLOADW. -/
def loadAddr (s : State) (w : MWork) (p r : Nat) : Nat :=
  match auxAt w.f.aux with
  | .addr a => a + p * r
  | _ => ringHead s w.f.ra.toNat p r

/-- Bytes of the valid elements of a source row of MLOADW: only those are read (R171). -/
def loadBytes (f : MWord) (fm : RowFmt) : Nat := ((f.sco.toNat + 1) * fm.bits + 7) / 8

/-- The fault of MLOADW at its start (R161, R170, R173). -/
def loadFault (s : State) (w : MWork) : MatBad :=
  let f := w.f
  let cls := f.fdb.toNat % 4
  if 191 < f.cnt.toNat ∨ 191 < f.sco.toNat ∨ cls = 3 ∨ (cls ≠ 0 ∧ f.fda ≠ 0) then some (cMatFmt, 0)
  else if cls = 0 ∧ !(descOf w.fdA).valid then some (cFormat, f.fda.toNat)
  else
    match auxAt f.aux with
    | .bad => some (cMatFmt, 0)
    | .addr a =>
      (match loadFmt s w a with
       | .error c => some (if 2 ^ 23 ≤ a then (cMatFmt, 0) else c)
       | .ok fm =>
         firstBad ((upTo (f.cnt.toNat + 1)).map (fun r =>
           rowFault s .read (spaAttr s ownPos a) (a + fm.pitch false * r) (loadBytes f fm))))
    | .ring =>
      if !(ringOf s f.ra.toNat).cfg then some (cMatFmt, 0)
      else
        match loadFmt s w (ringHead s f.ra.toNat 64 0) with
        | .error c => some c
        | .ok fm => ringFault s .read f.ra.toNat (fm.pitch false) (loadBytes f fm) (f.cnt.toNat + 1) (ringHead s f.ra.toNat (fm.pitch false))

/-- The code of a value in the array class (R172). -/
def toArray (w : MWork) (x : FV) (rho kappa : BitVec 32) : Nat :=
  match w.f.fdb.toNat % 4 with
  | 1 => wBf16.enc .rne x
  | 2 => wH16.enc .rne x
  | _ =>
    let d := descOf w.fdA
    let r : Rnd := if d.rnd = 0 then .rne else if d.rnd = 1 then .rz
      else .sr (bobbin w.key7 (BitVec.ofNat 24 d.stream) rho kappa).toNat
    d.enc r x

/-- Whether a datum is a zero. -/
def isZero : FV → Bool
  | .fin _ m _ => decide (m = 0)
  | _ => false

/-- One loaded element: perturbed, then rounded into the array class; under a σ of ±0 it is rounded alone (R45, R172, R173). -/
def loadElem (w : MWork) (x : FV) (i j : Nat) : Nat :=
  let prt := w.f.prt.toNat
  let rho := w.f.tor + BitVec.ofNat 32 i
  let kappa := w.f.toc + BitVec.ofNat 32 j
  if prt % 4 = 0 then toArray w x rho kappa
  else if isZero (f32 w.sigma.toNat) then toArray w (f32 (toF32 x)) rho kappa
  else
    let k := noiseOf (prt % 4) (bobbin w.key w.f.tid rho kappa)
    toArray w (f32 (perturb x (tb prt 4) w.sigma k)) rho kappa

/-- The plane that MLOADW leaves, from its source rows (R172). -/
def loadPlane (fm : RowFmt) (w : MWork) : Plane :=
  let rows := w.aRows.mapIdx (fun i r => (upTo (w.f.sco.toNat + 1)).map (fun j =>
    (192 * i + j, loadElem w (rowVal fm (rowCode fm r.1 j)) i j, rowMark fm r.2 j)))
  let es := rows.flatten
  { elems := es.foldl (fun m e => sset 0 m e.1 (BitVec.ofNat 16 e.2.1)) [], marks := (es.filter (·.2.2)).map (·.1),
    cls := BitVec.ofNat 2 w.f.fdb.toNat, desc := if w.f.fdb.toNat % 4 = 0 then w.fdA else 0 }

/-- Sets the plane that FLG.SHD selects. -/
def setPlane (f : MWord) (p : Plane) (s : State) : State :=
  mapMat (fun m => if f.flg.getLsbD 1 then { m with shadow := p } else { m with active := p }) s

/-- One row of MLOADW, or its end. -/
def loadStep (w : MWork) (s : State) : State :=
  let isRing := w.f.aux.getLsbD 31
  let fm := w.fmtS
  if w.f.cnt.toNat < w.row then workDone (setPlane w.f (loadPlane fm w) s)
  else
    let p := fm.pitch false
    let a := if isRing then ringHead s w.f.ra.toNat p 0 else loadAddr s w p w.row
    let r := readRow s a (loadBytes w.f fm)
    let s1 := mapWork (fun w => { w with aRows := w.aRows ++ [r], row := w.row + 1 }) s
    if isRing then ringRead w.f.ra.toNat p s1 else s1

/-! ### Tile steps (R160, R164, R165, R175, R176) -/

/-- Result element `n` of a ROW or COL step from the decoded row. -/
def rowElem (s : State) (w : MWork) (a : StepArgs) (p : Plane) (x : List (FV × Bool)) (r n : Nat) : Nat × Bool :=
  let ij (k : Nat) : Nat × Nat := if a.mode = 0 then (k, n) else (n, k)
  let term (k : Nat) (e : FV × Bool) : FV :=
    let v := planeVal p (ij k).1 (ij k).2
    e.1.mul (match planeBlocks p with
      | none => v
      | some _ => v.mul (planeScale s p a.sco.toNat k n))
  let c := priorOf s w.f (a.acc + r) n
  (arrayAdd (x.mapIdx term) c.1,
    x.any (·.2) || c.2 || (!p.marks.isEmpty && (upTo 192).any (fun k => inSet p.marks (192 * (ij k).1 + (ij k).2))))

/-- The rows of an OUTER step or of a sampling word: element (i, j) gathers a_i * b_j over the pairs of rows. -/
def outerRow (s : State) (w : MWork) (acc : Nat) (pairs : List (List (FV × Bool) × List (FV × Bool))) (all : Bool) (i : Nat) :
    List (Nat × Bool) :=
  (upTo 192).map (fun j =>
    let one (l : List (FV × Bool)) (k : Nat) : FV × Bool := l[k]?.getD (.fin false 0 0, false)
    let c := priorOf s w.f (acc + i) j
    (arrayAdd (pairs.map (fun p => (one p.1 i).1.mul (one p.2 j).1)) c.1,
      all || c.2 || pairs.any (fun p => (one p.1 i).2 || (one p.2 j).2)))

/-- Writes the 192 rows of an OUTER step or of a sampling word. -/
def outerWrite (w : MWork) (acc : Nat) (pairs : List (List (FV × Bool) × List (FV × Bool))) (all : Bool) (s : State) : State :=
  (upTo 192).foldl (fun x i => accRow (acc + i) (outerRow s w acc pairs all i) x) s

/-- The wide codes of an array operand. -/
def arrayWides : List Nat := [1, 2]

/-- The format of the operand that ring `m` holds. -/
def ringFmt (s : State) (m : Nat) (field : BitVec 4) (desc : Word) : Except (Nat × Nat) RowFmt :=
  rowFmt s (ringHead s m 64 0) field desc arrayWides

/-- Whether a format has block scales. -/
def RowFmt.blocked : RowFmt → Bool
  | .narrow d => decide (d.blk ≠ 0)
  | .wide _ => false

/-- The fault of a ring operand of a tile step at its start. -/
def operandFault (s : State) (w : MWork) (m : Nat) (field : BitVec 4) (desc : Word) (outer : Bool) : MatBad :=
  if !(ringOf s m).cfg then some (cMatFmt, 0)
  else
    match ringFmt s m field desc with
    | .error c => some c
    | .ok fm =>
      if outer && fm.blocked then some (cMatFmt, 0)
      else ringFault s .read m (fm.pitch true) (fm.bytes true) (w.f.cnt.toNat + 1) (ringHead s m (fm.pitch true))

/-! ### Drains (R179 to R181) -/

/-- The wide codes of a drain destination. -/
def drainWides : List Nat := [0, 1, 2, 3]

/-- The first address that a drain writes. -/
def drainFirst (s : State) (f : MWord) : Option Nat :=
  match auxAt f.aux with
  | .bad => none
  | .addr a => if 2 ^ 23 ≤ a then none else some a
  | .ring => if (ringOf s f.ra.toNat).cfg then some (ringTail s f.ra.toNat 64 0) else none

/-- The fault of a drain at its start. -/
def drainFault (s : State) (f : MWord) (desc : Word) : MatBad :=
  match drainFirst s f with
  | none => some (cMatFmt, 0)
  | some a =>
    match rowFmt s a f.fda desc drainWides with
    | .error c => some c
    | .ok fm =>
      let p := fm.pitch false
      if f.aux.getLsbD 31 then ringFault s .write f.ra.toNat p (fm.bytes false) (f.cnt.toNat + 1) (ringTail s f.ra.toNat p)
      else firstBad ((upTo (f.cnt.toNat + 1)).map (fun r => rowFault s .write (spaAttr s ownPos a) (a + p * r) (fm.bytes false)))

/-- The exact value that a drain encodes for column `c` of an accumulator row (R180). -/
def drainVal (s : State) (f : MWord) (nDiv : BitVec 32) (r c : Nat) : FV :=
  let v := accVal s r c
  let x := if f.sco = 255 then v else v.mul (wBf16.dec (sget 0 s.mat.scale (256 * c + f.sco.toNat)).toNat)
  if f.flg.getLsbD 3 then x.div (f32 nDiv.toNat) else x

/-- The bytes of a drained row at an address, with the marks of its bytes (R35, R179, R180). -/
def drainRow (fm : RowFmt) (ps7 : Word) (a : Nat) (vals : List (FV × Bool)) : List Byte × List Bool :=
  let val (i : Nat) : FV × Bool := vals[i]?.getD (.fin false 0 0, false)
  match fm with
  | .narrow d =>
    if d.box = 4 then
      let code (i h : Nat) : Nat := d.enc (descRnd d ps7 (a + i) h) (val (2 * i + h)).1
      ((upTo 96).map (fun i => BitVec.ofNat 8 (code i 0 % 16 + code i 1 % 16 * 16)), (upTo 96).map (fun i => (val (2 * i)).2 || (val (2 * i + 1)).2))
    else ((upTo 192).map (fun i => BitVec.ofNat 8 (d.enc (descRnd d ps7 (a + i) 0) (val i).1)), (upTo 192).map (fun i => (val i).2))
  | .wide 3 =>
    let code (i : Nat) : Nat := wFa40.enc .rne (val i).1
    let marks := (upTo 192).flatMap (fun i => List.replicate 4 (val i).2)
    ((upTo 192).flatMap (fun i => leBytes 4 (code i % 2 ^ 32)) ++ (upTo 192).flatMap (fun i => leBytes 4 (code i / 2 ^ 32)), marks ++ marks)
  | .wide c =>
    let n := if c = 0 then 4 else 2
    ((upTo 192).flatMap (fun i => leBytes n ((wideCode c).enc .rne (val i).1)), (upTo 192).flatMap (fun i => List.replicate n (val i).2))

/-- A drained row contributes to its amax register (R141, R180). -/
def drainAmax (f : MWord) (vals : List (FV × Bool)) (s : State) : State :=
  if f.rb.getLsbD 3 then
    mapVec (fun v => { v with am := vset v.am (f.rb.toNat % 8) (amaxWith (vget v.am (f.rb.toNat % 8) 0) (vals.map (fun x => f32 (toF32 x.1)))) }) s
  else s

/-- One row of a drain, or its end; `k` is what follows the drain. -/
def drainStep (w : MWork) (k : State → State) (s : State) : State :=
  let f := drainOf s w
  if f.cnt.toNat < w.row then k s
  else
    let fm := pageFmt w.pageD w.fdD f.fda.toNat
    let p := fm.pitch false
    let isRing := f.aux.getLsbD 31
    let a := if isRing then ringTail s f.ra.toNat p 0 else 64 * nb f.aux.toNat 0 17 + p * w.row
    if matBlocked s a (fm.bytes false) then s
    else
      let r := (f.acc.toNat + w.row) % 1024
      let vals := (upTo 192).map (fun c => (drainVal s f w.nDiv r c, inSet s.mat.accP (192 * r + c)))
      let out := drainRow fm w.key7 a vals
      let s1 := mapWork (fun w => { w with row := w.row + 1 }) (drainAmax f vals (writeRow a out.1 out.2 s))
      if isRing then ringWrote f.ra.toNat p s1 else s1

/-! ### The sampler (R266 to R277) -/

/-- A change of the sampler. -/
def mapSam (g : Sampler → Sampler) (s : State) : State := mapMat (fun m => { m with sam := g m.sam }) s

/-- The format that the operand record names, through a descriptor read at issue: bit 4 marks a narrow format. -/
def recFmt (code : BitVec 5) (desc : Word) : RowFmt := if code.getLsbD 4 then .narrow (descOf desc) else .wide (code.toNat % 16)

/-- The operand record's code of a format field on a page. -/
def recCode (fmt : Bool) (field : BitVec 4) : BitVec 5 := BitVec.ofNat 5 (field.toNat + (if fmt then 16 else 0))

/-- Whether a datum is finite. -/
def isFin : FV → Bool
  | .fin _ _ _ => true
  | _ => false

/-- The norm entry of one index: n, c, r and the mark (R270). -/
def normEntry (x y : List (FV × Bool)) : Nat × Nat × Nat × Bool :=
  let norm (l : List (FV × Bool)) : FV := f32 (toF32 (FV.sqrt (f32 (toF32 (FV.sum (l.map (fun e => e.1.mul e.1)))))))
  (toF32 ((norm x).mul (norm y)), toF32 (FV.sum (x.map (·.1))), toF32 (FV.sum (y.map (·.1))), x.any (·.2) || y.any (·.2))

/-- K of an MNORM; none where a bit that must be zero is set or K is out of range (R270, R271). -/
def normK (s : State) (f : MWord) : Except (Nat × Nat) Nat :=
  let t := f.toc.toNat
  let take (k : Nat) : Except (Nat × Nat) Nat := if k = 0 ∨ 4096 < k then .error (cMatFmt, 0) else .ok k
  if tb t 31 then
    if nb t 17 14 ≠ 0 then .error (cMatFmt, 0)
    else
      let a := 64 * nb t 0 17
      match regionFault s .read a 4 with
      | some c => .error c
      | none => take (leNat (cellBytes 5 s (locSpad ownPos a) 4))
  else if nb t 13 18 ≠ 0 then .error (cMatFmt, 0) else take (nb t 0 13)

/-- The fault of one operand of MNORM, or its format (R271). -/
def normFmt (s : State) (a k : Nat) (field : BitVec 4) (desc : Word) : Except (Nat × Nat) RowFmt :=
  if 2 ^ 23 ≤ a then .error (cMatFmt, 0)
  else
    match rowFmt s a field desc arrayWides with
    | .error c => .error c
    | .ok fm =>
      if fm.blocked then .error (cMatFmt, 0)
      else
        match firstBad ((upTo k).map (fun r => rowFault s .read (spaAttr s ownPos a) (a + fm.pitch false * r) (fm.bytes false))) with
        | some c => .error c
        | none => .ok fm

/-- The norm state from its entries (R270). -/
def normState (k : Nat) (es : List (Nat × Nat × Nat × Bool)) (m : Sampler) : Sampler :=
  let idx := es.mapIdx (fun i e => (i, e))
  let put (g : Nat × Nat × Nat × Bool → Nat) (old : Sparse (BitVec 32)) : Sparse (BitVec 32) :=
    idx.foldl (fun t p => sset 0 t p.1 (BitVec.ofNat 32 (g p.2))) old
  { m with
    n := put (fun e => e.1) m.n, c := put (fun e => e.2.1) m.c, r := put (fun e => e.2.2.1) m.r,
    marks := idx.foldl (fun t p => putSet t p.1 p.2.2.2.2) m.marks, k,
    total := BitVec.ofNat 32 (es.foldl (fun t e => toF32 ((f32 t).add (f32 e.1))) 0), nv := true, tv := false, tp := false }

/-- The bases of the operands of MNORM. -/
def normBases (f : MWord) : Nat × Nat := (64 * nb f.aux.toNat 0 17, 64 * nb f.tor.toNat 0 17)

/-- What MNORM finds at its start: its K, or the fault that it raises: of several the matrix-format fault comes before an access to K or to
the rows (R70, R270, R271). -/
def normStart (s : State) (w : MWork) : Except (Nat × Nat) Nat :=
  let f := w.f
  if nb f.aux.toNat 17 15 ≠ 0 ∨ nb f.tor.toNat 17 15 ≠ 0 then .error (cMatFmt, 0)
  else
    let bad (x : Except (Nat × Nat) RowFmt) : MatBad := match x with
      | .error c => some c
      | .ok _ => none
    let rows (k : Nat) : List MatBad := [bad (normFmt s (normBases f).1 k f.fda w.fdA), bad (normFmt s (normBases f).2 k f.fdb w.fdB)]
    match normK s f with
    | .error c => .error ((firstBad (some c :: rows 0)).getD c)
    | .ok k =>
      match firstBad (rows k) with
      | some c => .error c
      | none => .ok k

/-- MNORM, its checks made (R270). -/
def normStep (w : MWork) (s : State) : State :=
  let f := w.f
  let k := w.pops
  let (a, b) := normBases f
  let row (fm : RowFmt) (base i : Nat) : List (FV × Bool) := decodeRow fm false (readRow s (base + fm.pitch false * i) (fm.bytes false))
  let es := (upTo k).map (fun i => normEntry (row w.fmtA a i) (row w.fmtB b i))
  workDone (matTick (stepCycles (2 * k) (Nat.max w.fmtA.width w.fmtB.width)) <| mapSam (fun m =>
    { normState k es m with
      baseA := a, baseB := b, codeA := recCode w.pageA f.fda, codeB := recCode w.pageB f.fdb,
      pitchA := w.fmtA.pitch false, pitchB := w.fmtB.pitch false }) s)

/-- The lists and tables of Vose's method. -/
structure Vose where
  small : List Nat
  large : List Nat
  q : Sparse (BitVec 32)
  tab : Sparse (BitVec 32)

/-- Whether an f32 is below 1. -/
def belowOne (v : Nat) : Bool := (f32 v).lt (.fin false 1 0)

/-- floor(q * 65536), at most 0xFFFE (R272). -/
def thrOf (v : Nat) : Nat :=
  match f32 v with
  | .fin _ m e => Nat.min (roundTo .rz false m (e + 16) 0) 0xFFFE
  | _ => 0

/-- The rounds of Vose's method (R272). -/
def voseRounds : Nat → Vose → Vose
  | 0, v => v
  | n + 1, v =>
    match v.small, v.large with
    | l :: small, g :: large =>
      let ql := (sget 0 v.q l).toNat
      let qg := toF32 ((f32 (toF32 ((f32 (sget 0 v.q g).toNat).add (f32 ql)))).add (.fin true 1 0))
      let q := sset 0 v.q g (BitVec.ofNat 32 qg)
      let tab := sset 0 v.tab l (BitVec.ofNat 32 (thrOf ql + g * 65536))
      voseRounds n (if belowOne qg then { small := small ++ [g], large, q, tab } else { small, large := g :: large, q, tab })
    | _, _ => v

/-- The lowest index whose norm is greatest. -/
def topNorm (m : Sampler) : Nat :=
  (upTo m.k).foldl (fun b i => if (f32 (sget 0 m.n b).toNat).lt (f32 (sget 0 m.n i).toNat) then i else b) 0

/-- Whether the norms make a distribution: N is not zero, and N and every norm are finite (R273, R275): 3, 4, or 2 when it does. -/
def normCode (m : Sampler) : Nat :=
  let n := f32 m.total.toNat
  if isZero n then 3
  else if !isFin n || (upTo m.k).any (fun i => !isFin (f32 (sget 0 m.n i).toNat)) then 4 else 2

/-- The alias table and the scales (R272). -/
def aliasTable (m : Sampler) : Sampler :=
  let norm (i : Nat) : FV := f32 (sget 0 m.n i).toNat
  let total := f32 m.total.toNat
  let qs := (upTo m.k).map (fun i => (i, toF32 ((f32 (toF32 ((norm i).mul (FV.ofInt m.k)))).div total)))
  let v0 : Vose :=
    { small := (qs.filter (fun p => belowOne p.2)).map (·.1), large := (qs.filter (fun p => !belowOne p.2)).map (·.1),
      q := qs.foldl (fun t p => sset 0 t p.1 (BitVec.ofNat 32 p.2)) [], tab := m.al }
  let v := voseRounds m.k v0
  let top := topNorm m
  let al := (v.small ++ v.large).foldl (fun t i =>
    sset 0 t i (BitVec.ofNat 32 (if isZero (norm i) then top * 65536 else 0xFFFF + i * 65536))) v.tab
  let sc := (upTo m.k).foldl (fun t i =>
    sset 0 t i (BitVec.ofNat 32 (if isZero (norm i) then 0 else toF32 (total.div (norm i))))) m.sc
  { m with al, sc, tv := true, tp := (upTo m.k).any (fun i => inSet m.marks i) }

/-- MALIAS (R272, R273). -/
def aliasStep (s : State) : State :=
  workDone (mapSam (fun m => if normCode m = 2 then aliasTable m else { m with tv := true }) s)

/-- MSTAT's 64 bytes (R277). -/
def statBytes (s : State) : List Byte :=
  let m := s.mat.sam
  fit 64 (leBytes 4 m.k ++ leBytes 4 m.total.toNat ++ leBytes 4 s.cell.sampN.toNat ++ leBytes 4 s.cell.sampMean.toNat ++
    leBytes 4 s.cell.sampM2.toNat ++ leBytes 1 s.cell.sampCode.toNat ++ leBytes 1 (b2n m.nv + 2 * b2n m.tv + 4 * b2n m.tp) ++
    leBytes 2 0 ++ leBytes 4 (m.last.getD 0xFFFFFFFF) ++ leBytes 4 m.draws.toNat ++ leBytes 4 m.taken.toNat)

/-- The fault of a word that works on `n` bytes at the scratchpad address of AUX (R170). -/
def addrFault (s : State) (k : Acc) (w : MWork) (n : Nat) : MatBad :=
  match auxAt w.f.aux with
  | .addr a => regionFault s k a n
  | _ => some (cMatFmt, 0)

/-- The scratchpad address of AUX. -/
def MWork.addr (w : MWork) : Nat := 64 * nb w.f.aux.toNat 0 17

/-- MSTAT, its checks made (R277). -/
def statStep (w : MWork) (s : State) : State :=
  if matBlocked s w.addr 64 then s else workDone (writeRow w.addr (statBytes s) [] s)

/-- The fault of a sampling word at its start (R170, R276). -/
def sampFault (s : State) (w : MWork) : MatBad :=
  let m := s.mat.sam
  let fa := recFmt m.codeA w.fdA
  let fb := recFmt m.codeB w.fdB
  let valid (fm : RowFmt) : Bool := match fm with
    | .narrow d => d.valid
    | .wide _ => true
  let region (base pitch : Nat) (fm : RowFmt) : MatBad := regionFault s .read base (pitch * (m.k - 1) + fm.bytes false)
  let draws : MatBad :=
    if !w.f.flg.getLsbD 4 then none
    else
      let g := ringOf s (secondRing w)
      if !g.cfg || !regionPlain s g.base (g.size * g.cap) then some (cMatFmt, 0)
      else firstBad ((upTo (w.f.cnt.toNat + 1)).map (fun r => regionFault s .read (ringHead s (secondRing w) 8 r) 8))
  if !m.nv || !m.tv then some (cMatFmt, 0)
  else
    firstBad [draws, if !valid fa then some (cFormat, m.codeA.toNat % 16) else none,
      if !valid fb then some (cFormat, m.codeB.toNat % 16) else none, region m.baseA m.pitchA fa, region m.baseB m.pitchB fb]

/-- A step of the sampler has written special registers: a write of the same cycle does not undo it (R268). -/
def sampWrote (ns : List Nat) (s : State) : State := { s with now := { s.now with samp := s.now.samp ++ ns } }

/-- The sampling registers. -/
def sampRegs (s : State) : SampRegs :=
  { n := s.cell.sampN, mean := s.cell.sampMean, m2 := s.cell.sampM2, lastK := s.cell.lastK, code := s.cell.sampCode, last := s.mat.sam.last,
    draws := s.mat.sam.draws, taken := s.mat.sam.taken }

/-- The sampling registers take earlier values. -/
def sampBack (r : SampRegs) (s : State) : State :=
  mapSam (fun m => { m with last := r.last, draws := r.draws, taken := r.taken })
    (mapCell (fun k => { k with sampN := r.n, sampMean := r.mean, sampM2 := r.m2, lastK := r.lastK, sampCode := r.code }) s)

/-- The registers at the start of a sampling word (R275). -/
def sampBegin (w : MWork) (s : State) : State :=
  let s1 := mapWork (fun w => { w with before := sampRegs s }) (mapCell (fun k => { k with sampCode := 0 }) s)
  let s2 := if w.f.flg.getLsbD 0 then sampWrote [0x124] s1
    else sampWrote [0x121, 0x122, 0x123, 0x124] (mapCell (fun k => { k with sampN := 0, sampMean := 0, sampM2 := 0 }) s1)
  mapSam (fun m => { m with draws := 0, taken := 0 }) s2

/-- A sampling word writes its rows and its code, and ends (R275). -/
def sampEnd (w : MWork) (a : StepArgs) (code : Nat) (s : State) : State :=
  let m := s.mat.sam
  let fa := recFmt m.codeA w.fdA
  let fb := recFmt m.codeB w.fdB
  let pairs := (w.aRows.zip (w.bRows.zip w.ks)).map (fun p =>
    ((decodeRow fa false p.1).map (fun e => ((f32 p.2.2.toNat).mul e.1, e.2)), decodeRow fb false p.2.1))
  let s1 := outerWrite w a.acc pairs m.tp s
  let n := m.taken.toNat
  stepEnds (matTick (if n = 0 then 1 else 8 * n) (sampWrote [0x124] (mapCell (fun k => { k with sampCode := BitVec.ofNat 3 code }) s1)))

/-- The draws of the next sample: none while the draw ring is empty (R274). A word that issues again has the pairs that it took before
(R184, log 119). -/
def drawPair (w : MWork) (a : StepArgs) (s : State) : Option (Nat × Nat × State) :=
  if w.f.flg.getLsbD 4 then
    match w.draws[w.row]? with
    | some d => some (d.1, d.2, s)
    | none =>
      let m := secondRing w
      if (ringOf s m).count = 0 then none
      else
        let at_ := locSpad ownPos (ringHead s m 8 0)
        let d := (leNat (cellBytes 5 s at_ 4), leNat (cellBytes 5 s (at_ + 4) 4))
        some (d.1, d.2, ringRead m 8 (mapWork (fun w => { w with draws := w.draws ++ [d] }) s))
  else
    let t : BitVec 32 := match f32 s.cell.sampN.toNat with
      | .fin n m e => if e < 0 ∧ m % pow2 (-e) ≠ 0 then (Config.freeWord s.freeCtr).setWidth 32 else BitVec.ofInt 32 (signed n (roundTo .rz n m e 0))
      | _ => (Config.freeWord s.freeCtr).setWidth 32
    let d (k : BitVec 32) : Nat := (bobbin w.key w.f.tid (a.tor + t) k).toNat
    some (d a.toc, d (a.toc + 1), { s with freeCtr := s.freeCtr + 1 })

/-- The index that two draws name (R274). -/
def drawIndex (m : Sampler) (d1 d2 : Nat) : Nat :=
  let j := d1 * m.k / 2 ^ 32
  let e := (sget 0 m.al j).toNat
  if d2 / 65536 < nb e 0 16 ∨ nb e 0 16 = 0xFFFF then j else nb e 16 12

/-- The registers after a sample, and the code with which sampling stops, if it does (R275). -/
def sampUpdate (m : Sampler) (k : Nat) (theta : BitVec 32) (c : CellState) : Option Nat × CellState :=
  let v (x : BitVec 32) : FV := f32 x.toNat
  let r (x : FV) : FV := f32 (toF32 x)
  let z := r ((r ((v (sget 0 m.sc k)).mul (v (sget 0 m.c k)))).mul (v (sget 0 m.r k)))
  let n := r ((v c.sampN).add (.fin false 1 0))
  let d := r (z.add (v c.sampMean).neg)
  let mu := r ((v c.sampMean).add (r (d.div n)))
  let m2 := r ((v c.sampM2).add (r (d.mul (r (z.add mu.neg)))))
  let code (x : FV) : BitVec 32 := BitVec.ofNat 32 (toF32 x)
  let c1 := { c with sampN := code n, sampMean := code mu, sampM2 := code m2, lastK := BitVec.ofNat 12 k }
  let rhs := r ((r ((r ((r ((v theta).mul mu)).mul mu)).mul n)).mul (r (n.add (.fin true 1 0))))
  let least := FV.ofInt c.sampMin.toNat
  if !isFin z || !isFin mu || !isFin m2 then (some 4, c1)
  else if !n.lt (.fin false 2 0) && !n.lt least && !n.isNan && (m2.lt rhs || m2.eqv rhs) then (some 1, c1)
  else (none, c1)

/-- One sample, or the end of a sampling word (R274, R275). -/
def sampStep (w : MWork) (a : StepArgs) (s : State) : State :=
  let m := s.mat.sam
  let start := normCode m
  if start ≠ 2 then sampEnd w a start s
  else if w.f.cnt.toNat < w.row then sampEnd w a 2 s
  else
    match drawPair w a s with
    | none => s
    | some (d1, d2, s1) =>
      let k := drawIndex m d1 d2
      let fa := recFmt m.codeA w.fdA
      let fb := recFmt m.codeB w.fdB
      let x := readRow s1 (m.baseA + m.pitchA * k) (fa.bytes false)
      let y := readRow s1 (m.baseB + m.pitchB * k) (fb.bytes false)
      let u := sampUpdate m k w.f.aux s1.cell
      let w1 : MWork := { w with row := w.row + 1, aRows := w.aRows ++ [x], bRows := w.bRows ++ [y], ks := w.ks ++ [sget 0 m.sc k],
                                 draws := (s1.mat.work.map (·.draws)).getD w.draws }
      let s2 := sampWrote [0x121, 0x122, 0x123] (mapSam (fun m => { m with last := some k, draws := m.draws + 1, taken := m.taken + 1 })
        (mapMat (fun t => { t with work := some w1 }) { s1 with cell := u.2 }))
      match u.1 with
      | some code => sampEnd w1 a code s2
      | none => s2

/-! ### Work (R167, R168) -/

/-- The fault of a tile step at its start (R161, R163, R164, R170, R175, R176, R181, R246). -/
def stepFault (s : State) (w : MWork) : MatBad :=
  let a := stepArgs s w
  let ra := w.f.ra.toNat
  let sco : MatBad := if a.sco < 0 ∨ 255 < a.sco then some (cMatFmt, 0) else none
  let own : List MatBad :=
    if a.mode = 3 then [sampFault s w]
    else if a.mode = 2 then
      [sco, operandFault s w ra w.f.fda w.fdA true,
        if secondRing w = ra ∧ w.f.fdb = w.f.fda then none else operandFault s w (secondRing w) w.f.fdb w.fdB true]
    else [sco, if scoOk (planeOf s w.f) a.sco.toNat then none else some (cMatFmt, 0), operandFault s w ra w.f.fda w.fdA false]
  let drain : MatBad :=
    if !w.f.flg.getLsbD 2 then none
    else if s.mat.template.isNone then some (cMatFmt, 0)
    else drainFault s (drainFields s w) w.fdD
  firstBad (own ++ [drain])

/-- The fault of a nest of sampling steps: the strides and ring advances that must be zero (R276). -/
def nestFault (s : State) (w : MWork) : MatBad :=
  let t := nestOf s w
  let any (off n : Nat) : Bool := (upTo 6).any (fun k => decide (nestField t k off n ≠ 0))
  if w.f.rb.toNat / 4 = 3 && (any 24 8 || any 16 8) then some (cMatFmt, 0) else none

/-- A pending shadow table becomes the active one when an MNEST starts its work (R246). -/
def nestBegin (w : MWork) (s : State) : State :=
  let k := w.f.nst.toNat
  if s.mat.nestP.getLsbD k then
    mapMat (fun m => { m with nestA := vset m.nestA k (vget m.nestS k 0), nestP := m.nestP &&& ~~~ (1#16 <<< k) }) s
  else s

/-- Whether a word is a tile step. -/
def isStep (op : Nat) : Bool := decide (op = 0x11) || decide (op = 0x12) || decide (op = 0x17) || decide (op = 0x1A)

/-- Cycles that a step occupies, its drain included (R168, R246). -/
def stepOccupancy (s : State) (w : MWork) : Nat :=
  let a := stepArgs s w
  let own :=
    if a.mode = 3 then 0
    else stepCycles (w.f.cnt.toNat + 1) (Nat.max w.fmtA.width (if a.mode = 2 then w.fmtB.width else (planeFmt (planeOf s w.f)).width))
  own + (if w.f.flg.getLsbD 2 then drainCycles (drainFields s w) else 0)

/-- The fault of MSCLD (R177). -/
def scaleFault (s : State) (w : MWork) : MatBad :=
  let n := 384 * (w.f.cnt.toNat + 1)
  firstBad [if 255 < w.f.sco.toNat + w.f.cnt.toNat then some (cMatFmt, 0) else none, addrFault s .read w n,
    if regionPlain s w.addr n then none else some (cFormat, (spaAttr s ownPos w.addr).desc)]

/-- Whether a nest table breaks a reserved byte or a limit (R244, R245). -/
def nestBad (t : BitVec 1024) : Bool :=
  decide (nb t.toNat 768 256 ≠ 0) || (upTo 6).any (fun k => decide (nestField t k 48 16 ≠ 0) || decide (64 < nestField t k 16 8))

/-- The table that MNSET reads. -/
def nestRead (s : State) (w : MWork) : BitVec 1024 := BitVec.ofNat 1024 (leNat (cellBytes 5 s (locSpad ownPos w.addr) 128))

/-- The fault of MNSET (R170, R245). -/
def nsetFault (s : State) (w : MWork) : MatBad :=
  match addrFault s .read w 128 with
  | some x => some x
  | none => if nestBad (nestRead s w) then some (cMatFmt, 0) else none

/-- The fault that a word raises when its work starts (R185). -/
def beginFault (s : State) (w : MWork) : MatBad :=
  match w.op with
  | 0x10 => loadFault s w
  | 0x13 => drainFault s w.f w.fdD
  | 0x14 => scaleFault s w
  | 0x15 => none
  | 0x16 => nsetFault s w
  | 0x18 => (match normStart s w with
    | .error x => some x
    | .ok _ => none)
  | 0x19 => if s.mat.sam.nv then none else some (cMatFmt, 0)
  | 0x1B => none
  | 0x1C => addrFault s .write w 64
  | _ => firstBad [if w.op = 0x17 then nestFault s w else none, stepFault s w]

/-- The scratchpad addresses of a word's operands. -/
def operandBases (s : State) (w : MWork) : Option Nat × Option Nat :=
  let head (m : Nat) : Option Nat := some (ringHead s m 64 0)
  if w.op = 0x10 then (none, some (loadAddr s w 64 0))
  else if w.op = 0x18 then (some (normBases w.f).1, some (normBases w.f).2)
  else if isStep w.op then
    (let a := stepArgs s w
     if a.mode ≤ 1 then (head w.f.ra.toNat, none) else if a.mode = 2 then (head w.f.ra.toNat, head (secondRing w)) else (none, none))
  else (none, none)

/-- The pages that fix the formats of a word's operands and of its drain (R161). -/
def withPages (s : State) (w : MWork) : MWork :=
  let fmt (x : Option Nat) : Bool := (x.map (fun a => (spaAttr s ownPos a).fmt)).getD false
  { w with pageA := fmt (operandBases s w).1, pageB := fmt (operandBases s w).2, pageD := fmt (drainFirst s (drainOf s w)) }

/-- The start of a word's work, or of a step of a nest, on the entries and descriptors read at its issue: a word that faults has no
effect (R161, R185, R202). -/
def workBegin (w : MWork) (s : State) : State :=
  let s1 := if w.op = 0x17 ∧ w.idx.all (fun i => decide (i = 0)) then nestBegin w s else s
  let c := withSnap w.snap s1
  match beginFault c w with
  | some x => matRaise x s
  | none =>
    let w1 := { withPages c w with begun := true }
    let s2 := mapWork (fun _ => w1) s1
    if w.op = 0x13 then
      mapMat (fun m => { m with template := some w.f }) (mapWork (fun w => { w with nDiv := if w.row = 0 then s.cell.sampN else w.nDiv }) s2)
    else if w.op = 0x16 then
      (let k := w.f.nst.toNat
       workDone (mapMat (fun m => { m with nestS := vset m.nestS k (nestRead c w), nestP := m.nestP ||| (1#16 <<< k) }) s2))
    else if w.op = 0x18 then
      (match normStart c w with
       | .ok k => mapWork (fun w => { w with pops := k }) s2
       | .error _ => s2)
    else if isStep w.op && !w.drain && !w.popping then
      matTick (stepOccupancy s2 w1) (if (stepArgs s2 w).mode = 3 then sampBegin w s2 else s2)
    else s2

/-- The results of the rows that a ROW or COL step has read (R175). -/
def rowWrite (w : MWork) (a : StepArgs) (s : State) : State :=
  (w.aRows.zipIdx).foldl (fun x p =>
    accRow (a.acc + p.2) ((upTo 192).map (rowElem x w a (planeOf x w.f) (decodeRow w.fmtA true p.1) p.2)) x) s

/-- One row of a ROW or COL step is read, or, with the last, their results are written (R175). -/
def rowStep (w : MWork) (a : StepArgs) (s : State) : State :=
  if w.f.cnt.toNat < w.row then stepEnds (rowWrite w a s)
  else
    let m := w.f.ra.toNat
    let pitch := w.fmtA.pitch true
    let x := readRow s (ringHead s m pitch 0) (w.fmtA.bytes true)
    mapWork (fun w => { w with aRows := w.aRows ++ [x], row := w.row + 1 }) (ringRead m pitch s)

/-- One row of a pair of an OUTER step, or its end (R176). -/
def outerStep (w : MWork) (a : StepArgs) (s : State) : State :=
  let m := w.f.ra.toNat
  let m2 := secondRing w
  let fb := if m2 = m then w.fmtA else w.fmtB
  let take (m : Nat) (fm : RowFmt) : List Byte × List Bool := readRow s (ringHead s m (fm.pitch true) 0) (fm.bytes true)
  if w.f.cnt.toNat < w.row then
    stepEnds (outerWrite w a.acc ((w.aRows.zip w.bRows).map (fun p => (decodeRow w.fmtA true p.1, decodeRow fb true p.2))) false s)
  else if w.aRows.length ≤ w.row then
    let x := take m w.fmtA
    mapWork (fun w => { w with aRows := w.aRows ++ [x], bRows := w.bRows ++ (if m2 = m then [x] else []),
                               row := if m2 = m then w.row + 1 else w.row }) (ringRead m (w.fmtA.pitch true) s)
  else
    mapWork (fun w => { w with bRows := w.bRows ++ [take m2 fb], row := w.row + 1 }) (ringRead m2 (fb.pitch true) s)

/-- MSCLD, its checks made (R177). -/
def scaleStep (w : MWork) (s : State) : State :=
  let at_ := locSpad ownPos w.addr
  let put (m : Sparse (BitVec 16)) (e : Nat) : Sparse (BitVec 16) :=
    (upTo 192).foldl (fun m j => sset 0 m (256 * j + w.f.sco.toNat + e) (BitVec.ofNat 16 (leNat (cellBytes 5 s (at_ + 384 * e + 2 * j) 2)))) m
  workDone (mapMat (fun m => { m with scale := (upTo (w.f.cnt.toNat + 1)).foldl put m.scale }) s)

/-- MZERO (R178). -/
def zeroStep (w : MWork) (s : State) : State :=
  workDone ((upTo (w.f.cnt.toNat + 1)).foldl (fun x r => accRow (w.f.acc.toNat + r) (List.replicate 192 (0, false)) x) s)

/-- MSWAP (R174). -/
def swapStep (s : State) : State :=
  mapMat (fun m => { m with active := m.shadow, shadow := m.active, work := none }) s

/-- Whether the next piece of a word's work waits on the contents of a ring (R163, R246, R274). -/
def ringWait (s : State) (w : MWork) : Bool :=
  let empty (m : Nat) : Bool := decide ((ringOf s m).count = 0)
  let ra := w.f.ra.toNat
  let more := decide (w.row ≤ w.f.cnt.toNat)
  if !w.begun then false
  else if w.popping then decide (w.pops ≠ 0) && empty ra
  else if w.drain || decide (w.op = 0x13) then
    let f := drainOf s w
    decide (w.row ≤ f.cnt.toNat) && f.aux.getLsbD 31 && decide ((ringOf s f.ra.toNat).cap ≤ (ringOf s f.ra.toNat).count)
  else if w.op = 0x10 then more && w.f.aux.getLsbD 31 && empty ra
  else if isStep w.op then
    let a := stepArgs s w
    if a.mode ≤ 1 then more && empty ra
    else if a.mode = 2 then more && empty (if w.aRows.length ≤ w.row then ra else secondRing w)
    else decide (normCode s.mat.sam = 2) && more && w.f.flg.getLsbD 4 && decide (w.draws.length ≤ w.row) && empty (secondRing w)
  else false

/-- What a word keeps when a stop ends its wait on a ring: the rows and the pairs that it has taken, the rows that it has given, and how
far its drain and its nest have come; no tile step has written anything. A sampling word takes its samples anew (R163, R184, R276,
log 119). -/
def MWork.keep (w : MWork) (sampling : Bool) : MWork :=
  if sampling && !w.drain && !w.popping then { w with row := 0, aRows := [], bRows := [], ks := [] } else w

/-- A stop ends the wait of a word on a ring: the PC is at the word, which issues again (R184). -/
def ringStop (w : MWork) (s : State) : State :=
  let sampling := isStep w.op && decide ((stepArgs s w).mode = 3)
  let s1 := if sampling && !w.drain && !w.popping then sampBack w.before s else s
  mapMat (fun m => { m with work := none, kept := some (w.keep sampling), pc := w.pc }) s1

/-- The next piece of the work of the word that has issued, or its wait on a ring, which is a wait stall (R167, R249). -/
def matStep (s : State) : State :=
  match s.mat.work with
  | none => s
  | some w =>
    if ringWait s w then mapMat (fun m => { m with stat := .waiting, wait := .port }) s
    else
      let s := mapMat (fun m => { m with stat := .issuing, wait := .none }) s
      if !w.begun then workBegin w s
      else if w.popping then nestGoes s
      else if w.drain then drainStep w stepEnds s
      else
        match w.op with
        | 0x10 => loadStep w s
        | 0x13 => drainStep w workDone s
        | 0x14 => scaleStep w s
        | 0x15 => zeroStep w s
        | 0x18 => normStep w s
        | 0x19 => aliasStep s
        | 0x1B => swapStep s
        | 0x1C => statStep w s
        | _ =>
          let a := stepArgs s w
          if a.mode ≤ 1 then rowStep w a s else if a.mode = 2 then outerStep w a s else sampStep w a s

end Sys2Proof.Machine
end

