-- ==== Sys2Proof/Machine/ReeveSync.lean ====
section
/-! DEFINITION. The Reeve words that command the engines' shared structures: markers, rendezvous, starts of the sequencers, the
sluice board, sync words, the tag table, rings and the custom opcode table (spec/09_scratchpad.md R206 to R212;
spec/10_engines.md R222 to R236; spec/17_control_store.md R334). -/

namespace Sys2Proof.Machine

open Sys2Proof

/-! ### Markers and rendezvous -/

/-- MARK: a mask of zero is an illegal instruction (R222). -/
def execMark (_y : Bool) (w : BitVec 2) (m : BitVec 5) (k : BitVec 8) (s : State) : Host.Outcome State Fault Refusal :=
  .next (if m = 0 then trapWord cIllegal s else reeve [] [] (fun s => placeMark m k (advance w s)) s)

/-- Arms a rendezvous register; it is evaluated at the end of the cycle (R224, R225). -/
def armRdv (m : BitVec 5) (i : BitVec 3) (k : BitVec 8) (s : State) : State :=
  noteArmed i.toNat (mapCell (fun c => { c with rv := vset c.rv i.toNat { mask := m, m := k, armed := true, fired := false } }) s)

/-- Whether a rendezvous register has fired. -/
def rdvFired (s : State) (i : BitVec 3) : Bool := (vget s.cell.rv i.toNat Rdv.zero).fired

/-- RDV.ARM (R224). -/
def execRdvArm (_y : Bool) (w : BitVec 2) (m : BitVec 5) (i : BitVec 3) (k : BitVec 8) (s : State) :
    Host.Outcome State Fault Refusal :=
  .next (reeve [] [] (fun s => armRdv m i k (advance w s)) s)

/-- A wait on a rendezvous register: when it ends it is an acquire (R224, R225). -/
def rdvWaitWord (w : BitVec 2) (i : BitVec 3) (s : State) : State :=
  if rdvFired s i then observeRdv i.toNat (acquire s.cur.val (advance w s)) else holdWith .waiting .rendezvous s

/-- RDV.WAIT (R224). -/
def execRdvWait (_y : Bool) (w : BitVec 2) (i : BitVec 3) (s : State) : Host.Outcome State Fault Refusal :=
  .next (reeve [] [] (rdvWaitWord w i) s)

/-- RDV.AW: arms, in its first cycle, and then waits (R224). -/
def execRdvAw (_y : Bool) (w : BitVec 2) (m : BitVec 5) (i : BitVec 3) (k : BitVec 8) (s : State) :
    Host.Outcome State Fault Refusal :=
  .next (reeve [] [] (fun s =>
    if (clus s s.cur).rdvArmed then rdvWaitWord w i s
    else rdvWaitWord w i (mapClus s.cur (fun c => { c with rdvArmed := true }) (armRdv m i k s))) s)

/-! ### Starting the sequencers (R226) -/

/-- Starts the vector sequencer at an address: it keeps everything but its PC. The start is an acquire (R303). -/
def startVector (pc : BitVec 48) (s : State) : State :=
  acquire 4 (mapVec (fun v => { v with pc, running := true, stat := .issuing, wait := .none, halted := false }) s)

/-- Starts the matrix sequencer at an address. -/
def startMatrix (pc : BitVec 48) (s : State) : State :=
  mapMat (fun m => { m with pc, running := true, stat := .issuing, wait := .none, halted := false }) s

/-- FORK in any of its forms: `v` and `m` name the sequencers and give their addresses (R226). -/
def forkWord (w : BitVec 2) (d : BitVec 5) (reads : List (BitVec 5)) (v m : State → Option (BitVec 48)) (s : State) : State :=
  reeve reads [d] (fun s =>
    if ((v s).isSome ∧ s.vec.running) ∨ ((m s).isSome ∧ s.mat.running) then putResult 1 d 1 (advance w s)
    else if !storesOut (clus s s.cur).stores then holdWith .waiting .fence s
    else
      let s1 := advance w s
      let s2 := match v s with
        | some pc => startVector pc s1
        | none => s1
      let s3 := match m s with
        | some pc => startMatrix pc s2
        | none => s2
      putResult 1 d 0 s3) s

/-- FORK d, a, b (R226). -/
def execFork (_y : Bool) (w : BitVec 2) (d a b : BitVec 5) (s : State) : Host.Outcome State Fault Refusal :=
  .next (forkWord w d [a, b] (fun s => some ((rd s a).setWidth 48)) (fun s => some ((rd s b).setWidth 48)) s)

/-- FORK.V d, a (R226). -/
def execForkV (_y : Bool) (w : BitVec 2) (d a : BitVec 5) (s : State) : Host.Outcome State Fault Refusal :=
  .next (forkWord w d [a] (fun s => some ((rd s a).setWidth 48)) (fun _ => none) s)

/-- FORK.M d, b (R226). -/
def execForkM (_y : Bool) (w : BitVec 2) (d b : BitVec 5) (s : State) : Host.Outcome State Fault Refusal :=
  .next (forkWord w d [b] (fun _ => none) (fun s => some ((rd s b).setWidth 48)) s)

/-- FORK.E d: the launch record's entry PCs (R226). -/
def execForkE (_y : Bool) (w : BitVec 2) (d : BitVec 5) (s : State) : Host.Outcome State Fault Refusal :=
  .next (forkWord w d [] (fun s => some s.cell.task.vecPc) (fun s => some s.cell.task.matPc) s)

/-- FORK.E.V d (R226). -/
def execForkEV (_y : Bool) (w : BitVec 2) (d : BitVec 5) (s : State) : Host.Outcome State Fault Refusal :=
  .next (forkWord w d [] (fun s => some s.cell.task.vecPc) (fun _ => none) s)

/-- FORK.E.M d (R226). -/
def execForkEM (_y : Bool) (w : BitVec 2) (d : BitVec 5) (s : State) : Host.Outcome State Fault Refusal :=
  .next (forkWord w d [] (fun _ => none) (fun s => some s.cell.task.matPc) s)

/-! ### The sluice board (R227 to R232) -/

/-- Whether a block of the board breaks a reserved bit or holds an invalid code (R228 to R232). -/
def boardBad (bs : List Byte) : Bool :=
  (upTo 32).any (fun n => let v := leAt bs (4 * n) 4; decide (nb v 16 16 ≠ 0) || decide (nb v 5 3 ≠ 0) || decide (9 < nb v 0 5)) ||
  (upTo 8).any (fun w => let v := leAt bs (128 + 8 * w) 8; decide (nb v 23 40 ≠ 0) || decide (nb v 0 4 ≠ 0)) ||
  (upTo 16).any (fun k => let v := leAt bs (192 + 4 * k) 4; decide (nb v 8 8 ≠ 0) || tb v 5 || (tb v 7 && decide (nb v 16 16 = 0))) ||
  (upTo 8).any (fun t =>
    let v := leAt bs (264 + 16 * t) 4
    !zeroAt bs (268 + 16 * t) 4 || decide (nb v 20 12 ≠ 0) || decide (nb v 11 5 ≠ 0) || decide (nb v 4 4 ≠ 0) || decide (5 < nb v 0 4))

/-- Zeroes counts, spent states and latched tokens; pulses under way are lost (R232). -/
def zeroBoard (s : State) : State :=
  let s1 := mapSluice (fun b => { b with
    counts := Vector.replicate 16 0, spent := 0, pulses := [], tokens := Vector.replicate 8 0, collTokens := 0 }) s
  mapMat (fun m => { m with token := false }) (mapVec (fun v => { v with token := false }) s1)

/-- The board takes the configuration that a block holds (R228 to R231). -/
def configBoard (bs : List Byte) (s : State) : State :=
  mapSluice (fun b => { b with
    src := vtab 32 (fun n => BitVec.ofNat 32 (leAt bs (4 * n) 4)),
    watch := vtab 8 (fun w => BitVec.ofNat 64 (leAt bs (128 + 8 * w) 8)),
    cnt := vtab 16 (fun k => BitVec.ofNat 32 (leAt bs (192 + 4 * k) 4)),
    terms := vtab 8 (fun t =>
      { masks := vtab 4 (fun i => BitVec.ofNat 16 (leAt bs (256 + 16 * t + 2 * i) 2)), out := BitVec.ofNat 32 (leAt bs (264 + 16 * t) 4) }) }) s

/-- A configuration is loaded: counts, spent states and latched tokens start at zero (R232). -/
def loadBoard (bs : List Byte) (s : State) : State := configBoard bs (zeroBoard s)

/-- EVSET 0: loads the block at a; d is the status (R232). -/
def execEvsetLoad (_y : Bool) (w : BitVec 2) (d a : BitVec 5) (s : State) : Host.Outcome State Fault Refusal :=
  .next (reeve [a] [d] (fun s =>
    let ea := rd s a
    if !aligned ea 64 then putResult 2 d 2 (advance w s)
    else
      withBlockOr (fun s => putResult 1 d 3 (advance w s)) a ea 384 (fun bs s =>
        if boardBad bs then putResult 1 d 1 (advance w s) else putResult 1 d 0 (loadBoard bs (advance w s))) s) s)

/-- EVSET 1: zeroes counts, spent states and latched tokens (R232). -/
def execEvsetZero (_y : Bool) (w : BitVec 2) (d : BitVec 5) (s : State) : Host.Outcome State Fault Refusal :=
  .next (reeve [] [d] (fun s => putResult 2 d 0 (zeroBoard (advance w s))) s)

/-- EVSET 2: clears the whole configuration; counts, spent states and latched tokens stay (R232). -/
def execEvsetClear (_y : Bool) (w : BitVec 2) (d : BitVec 5) (s : State) : Host.Outcome State Fault Refusal :=
  .next (reeve [] [d] (fun s => putResult 2 d 0 (configBoard (zeros 384) (advance w s))) s)

/-- EVSET 3: d is the count of counter a[3:0] (R232). -/
def execEvsetCount (_y : Bool) (w : BitVec 2) (d a : BitVec 5) (s : State) : Host.Outcome State Fault Refusal :=
  .next (writeWord 2 w d [a] (fun s => (vget s.cell.sluice.counts ((rd s a).toNat % 16) 0).setWidth 64) s)

/-! ### Sync words (R233 to R236) -/

/-- A word on a sync word: an address in breach of R235 raises ACCESS, a misaligned one MISDATA. -/
def syncWord (k : Acc) (a : Word) (f : Nat → State → State) (s : State) : State :=
  match syncAt k a s with
  | .access => trapHere cAccess a s
  | .misaligned => trapHere cMisdata a s
  | .ok loc => f loc s

/-- An SWINIT takes effect, after the SWADDs of its cycle (R234). -/
def syncInit (loc tgt : Nat) (z : Bool) (d : BitVec 5) (s : State) : State :=
  let i : SwInit := { loc, old := (homeNat s loc 8, homeNat s (loc + 8) 8), tgt, z, c := s.cur, dest := d }
  syncWrite loc ((syncRead s loc).init tgt z) (mapCell (fun k => { k with swNow := k.swNow ++ [i] }) s)

/-- SWINIT: d = GEN; TGT = b; ARR and the flags 0; `z` clears GEN after it (R235). -/
def swinitWord (z : Bool) (w : BitVec 2) (d a b : BitVec 5) (s : State) : State :=
  reeve [a, b] [d] (fun s =>
    syncWord .write (rd s a) (fun loc s =>
      putResult 2 d (BitVec.ofNat 64 (syncRead s loc).gen) (syncInit loc ((rd s b).toNat % 2 ^ 32) z d (advance w s))) s) s

/-- SWINIT d, a, b (R235). -/
def execSwinit (_y : Bool) (w : BitVec 2) (d a b : BitVec 5) (s : State) : Host.Outcome State Fault Refusal :=
  .next (swinitWord false w d a b s)

/-- SWINIT.Z d, a, b (R235). -/
def execSwinitZ (_y : Bool) (w : BitVec 2) (d a b : BitVec 5) (s : State) : Host.Outcome State Fault Refusal :=
  .next (swinitWord true w d a b s)

/-- SWAIT: waits for the generation, or for ABS or FLT; then d = flags and GEN. Its end is an acquire (R235, R236). -/
def swaitWord (w : BitVec 2) (d a b : BitVec 5) (s : State) : State :=
  reeve [a, b] [d] (fun s =>
    syncWord .read (rd s a) (fun loc s =>
      let x := syncRead s loc
      if syncMet x (rd s b).toNat then
        putResult 2 d (BitVec.ofNat 64 (x.flags * 2 ^ 32 + x.gen)) (observeSync loc (rd s b).toNat (acquire s.cur.val (advance w s)))
      else holdWith .waiting .sync s) s) s

/-- SWAIT d, a, b (R235). -/
def execSwait (_y : Bool) (w : BitVec 2) (d a b : BitVec 5) (s : State) : Host.Outcome State Fault Refusal :=
  .next (swaitWord w d a b s)

/-- SWADD at a scope: waits until the cluster's earlier stores are visible there, adds b bytes, d = GEN after it (R235). -/
def swaddWord (scope : Nat) (w : BitVec 2) (d a b : BitVec 5) (s : State) : State :=
  reeve [a, b] [d] (fun s =>
    syncWord .write (rd s a) (fun loc s =>
      if !storesOut (clus s s.cur).stores ∨ !visibleAt scope s.cur.val s then holdWith .waiting .fence s
      else
        let p := syncAdd loc ((rd s b).toNat % 2 ^ 32) (advance w s)
        putResult 2 d (BitVec.ofNat 64 p.1.gen) p.2) s) s

/-- SWADD.CELL d, a, b (R235). -/
def execSwaddCell (_y : Bool) (w : BitVec 2) (d a b : BitVec 5) (s : State) : Host.Outcome State Fault Refusal :=
  .next (swaddWord 0 w d a b s)

/-- SWADD.QUAD d, a, b (R235). -/
def execSwaddQuad (_y : Bool) (w : BitVec 2) (d a b : BitVec 5) (s : State) : Host.Outcome State Fault Refusal :=
  .next (swaddWord 1 w d a b s)

/-! ### The tag table (R207) -/

/-- TLOOK: a hit gives the slot and makes it the most recent; a miss gives the victim (R207). -/
def execTlook (_y : Bool) (w : BitVec 2) (d a : BitVec 5) (s : State) : Host.Outcome State Fault Refusal :=
  .next (reeve [a] [d] (fun s =>
    let key := rd s a
    match tagHit s key with
    | some slot => putResult 2 d (BitVec.ofNat 64 slot) (tagTouch slot (advance w s))
    | none => putResult 2 d (BitVec.ofNat 64 (tagVictim s key * 2 ^ 16 + 0xFFFF)) (advance w s)) s)

/-- TSET: installs key b in slot a (R207). -/
def execTset (_y : Bool) (w : BitVec 2) (d a b : BitVec 5) (s : State) : Host.Outcome State Fault Refusal :=
  .next (reeve [a, b] [d] (fun s =>
    let slot := (rd s a).toNat
    let key := rd s b
    if 1024 ≤ slot then putResult 2 d 1 (advance w s)
    else if slot / 8 ≠ tagSet key then putResult 2 d 2 (advance w s)
    else putResult 2 d 0 (tagInstall slot key (advance w s))) s)

/-- TINV 0: clears slot a; d is its old V (R207). -/
def execTinvSlot (_y : Bool) (w : BitVec 2) (d a : BitVec 5) (s : State) : Host.Outcome State Fault Refusal :=
  .next (reeve [a] [d] (fun s =>
    let slot := (rd s a).toNat
    if 1024 ≤ slot then putResult 2 d (BitVec.allOnes 64) (advance w s)
    else putResult 2 d (bw (tagKey s slot).isSome) (tagClear slot (advance w s))) s)

/-- TINV 1: clears the slot that holds key a; d is the slot, or 0xFFFF (R207). -/
def execTinvKey (_y : Bool) (w : BitVec 2) (d a : BitVec 5) (s : State) : Host.Outcome State Fault Refusal :=
  .next (reeve [a] [d] (fun s =>
    match tagHit s (rd s a) with
    | some slot => putResult 2 d (BitVec.ofNat 64 slot) (tagClear slot (advance w s))
    | none => putResult 2 d 0xFFFF (advance w s)) s)

/-- TINV 2: clears every slot; d is the number that were valid (R207). -/
def execTinvAll (_y : Bool) (w : BitVec 2) (d : BitVec 5) (s : State) : Host.Outcome State Fault Refusal :=
  .next (reeve [] [d] (fun s =>
    putResult 2 d (BitVec.ofNat 64 s.cell.tags.length) (mapCell (fun k => { k with tags := [] }) (advance w s))) s)

/-! ### Rings (R210, R211) -/

/-- Whether a matrix word names a ring. -/
def ringUsedBy (s : State) (w : MWork) (m : Nat) : Bool := (ringsOf s.mat.template w.op w.f).contains m

/-- Whether a ring is in use: an unfinished matrix word or an admitted job names it (R210). -/
def ringBusy (s : State) (m : Nat) : Bool :=
  (match s.mat.work with | some x => ringUsedBy s x m | none => false) || s.mat.unfinished.any (fun x => x.2.contains m) ||
    s.cell.jobs.any (fun j => tb (byteAt j.card 2) 3 && decide (byteAt j.card 5 % 16 = m))

/-- The status of RINGSET (R210). -/
def ringsetStatus (s : State) (a b : Word) (m : Nat) : Nat :=
  let base := a.toNat
  let size := (nb b.toNat 0 8 + 1) * 256
  let cap := nb b.toNat 8 6 + 1
  if base % 256 ≠ 0 ∨ nb b.toNat 14 50 ≠ 0 then 1
  else if 0x800000 < base + size * cap then 2
  else if (upTo (size * cap / 256)).any (fun i => !spaOk s ownPos (base + 256 * i) .write false) then 3
  else if ringBusy s m then 4
  else 0

/-- RINGSET: configures ring m, or answers the first status that fails (R210). -/
def execRingset (_y : Bool) (w : BitVec 2) (d a b : BitVec 5) (r : BitVec 4) (s : State) : Host.Outcome State Fault Refusal :=
  .next (reeve [a, b] [d] (fun s =>
    let m := r.toNat
    let st := ringsetStatus s (rd s a) (rd s b) m
    if st ≠ 0 then putResult 2 d (BitVec.ofNat 64 st) (advance w s)
    else
      let ring : Ring :=
        { cfg := true, base := (rd s a).toNat, size := (nb (rd s b).toNat 0 8 + 1) * 256, cap := nb (rd s b).toNat 8 6 + 1, head := 0,
          tail := 0, count := 0 }
      let s1 := mapCell (fun k => { k with rings := vset k.rings m ring }) (advance w s)
      putResult 2 d 0 (mapMat (fun x => { x with rd := vset x.rd m 0, wr := vset x.wr m 0 }) s1)) s)

/-- RINGADV: moves a ring by a tiles; d is the new count, or all ones (R211). -/
def ringadvWord (produce : Bool) (w : BitVec 2) (d a : BitVec 5) (r : BitVec 4) (s : State) : State :=
  reeve [a] [d] (fun s =>
    let m := r.toNat
    let ring := vget s.cell.rings m Ring.zero
    let k := (rd s a).toNat
    let no (s : State) : State := putResult 2 d (BitVec.allOnes 64) (advance w s)
    if produce ∧ !storesOut (clus s s.cur).stores then holdWith .waiting .fence s
    else if !ring.cfg ∨ 64 < k then no s
    else if produce then
      (if ring.cap < ring.count + k then no s
       else putResult 2 d (BitVec.ofNat 64 (ring.count + k)) (ringProduce m k (advance w s)))
    else if ring.count < k then no s
    else putResult 2 d (BitVec.ofNat 64 (ring.count - k)) (ringConsume m k (advance w s))) s

/-- RINGADV.P d, a, #m (R211). -/
def execRingadvP (_y : Bool) (w : BitVec 2) (d a : BitVec 5) (r : BitVec 4) (s : State) : Host.Outcome State Fault Refusal :=
  .next (ringadvWord true w d a r s)

/-- RINGADV.C d, a, #m (R211). -/
def execRingadvC (_y : Bool) (w : BitVec 2) (d a : BitVec 5) (r : BitVec 4) (s : State) : Host.Outcome State Fault Refusal :=
  .next (ringadvWord false w d a r s)

/-! ### The custom opcode table (R334) -/

/-- Writes an entry of the cell's copy and of the context's copy together. -/
def writeCustom (n : Nat) (v : Word) (s : State) : State :=
  mapCtx s.cell.task.ctx (fun c => { c with cst := vset c.cst n v }) (mapCell (fun k => { k with cst := vset k.cst n v }) s)

/-- The entry that CSBIND makes of its operands; none where it leaves the table unchanged (R334). -/
def customEntry (a b : Word) : Option Word :=
  let ver := nb a.toNat 0 16
  let entry := nb b.toNat 0 11
  let len := nb b.toNat 16 11
  if nb a.toNat 16 48 ≠ 0 ∨ nb b.toNat 11 5 ≠ 0 ∨ nb b.toNat 27 37 ≠ 0 ∨ ver = 0 ∨ 2048 < entry + len + 1 then none
  else some (BitVec.ofNat 64 (2 ^ 63 + len * 2 ^ 48 + entry * 2 ^ 32 + ver))

/-- CSBIND d, a, b, #n (R334). -/
def execCsbind (_y : Bool) (w : BitVec 2) (d a b : BitVec 5) (n : BitVec 4) (s : State) : Host.Outcome State Fault Refusal :=
  .next (reeve [a, b] [d] (fun s =>
    match customEntry (rd s a) (rd s b) with
    | none => putResult 2 d (BitVec.allOnes 64) (advance w s)
    | some e => putResult 2 d (vget s.cell.cst n.toNat 0) (writeCustom n.toNat e (advance w s))) s)

/-- CSBIND.U d, #n (R334). -/
def execCsbindU (_y : Bool) (w : BitVec 2) (d : BitVec 5) (n : BitVec 4) (s : State) : Host.Outcome State Fault Refusal :=
  .next (reeve [] [d] (fun s => putResult 2 d (vget s.cell.cst n.toNat 0) (writeCustom n.toNat 0 (advance w s))) s)

/-- CSBIND.R d, #n (R334). -/
def execCsbindR (_y : Bool) (w : BitVec 2) (d : BitVec 5) (n : BitVec 4) (s : State) : Host.Outcome State Fault Refusal :=
  .next (writeWord 2 w d [] (fun s => vget s.cell.cst n.toNat 0) s)

end Sys2Proof.Machine
end

