-- ==== Sys2Proof/Machine/VecIssue.lean ====
section
/-! DEFINITION. What the words of the vector stream share: loop passes, stage predicates, checkpoints and rollback, holding and
issuing, the scoreboard, ports at a word, consumed poison, and the reading of operands at issue (spec/03_streams.md R57, R58;
spec/05_vector_arith.md R112 to R116; spec/08_latency.md R187 to R194; spec/09_scratchpad.md R216 to R219;
spec/11_loops.md R251 to R261; spec/17_control_store.md R339). -/

namespace Sys2Proof.Machine

open Sys2Proof

/-! ### Loops and stage predicates (R251, R253, R258) -/

/-- The innermost active loop; the outermost stands first in the stack. -/
def innermost (s : State) : Option Loop := s.vec.loops.getLast?

/-- Replaces the innermost loop. -/
def setInner (l : Loop) (s : State) : State := mapVec (fun v => { v with loops := v.loops.dropLast ++ [l] }) s

/-- Pops the innermost loop. -/
def popLoop (s : State) : State := mapVec (fun v => { v with loops := v.loops.dropLast }) s

/-- The rollback-capable loop that is active, if any: a loop inside one has R = 0 (R258). -/
def rollLoop (s : State) : Option Loop := s.vec.loops.find? (·.r)

/-- A change of the rollback-capable loop. -/
def mapRoll (f : Loop → Loop) (s : State) : State :=
  mapVec (fun v => { v with loops := v.loops.map (fun l => if l.r then f l else l) }) s

/-- The rotation base (R251). -/
def rotBase (s : State) : Nat := ((innermost s).map (fun l => l.rb.toNat)).getD 0

/-- The address of the first word after a loop's body. -/
def Loop.stop (l : Loop) : BitVec 48 := l.start + 12 * l.len.setWidth 48

/-- The iteration whose stage `k` runs in the current pass: the iterations in flight stand in consecutive stages, the youngest in
the lowest (R253); after poison was consumed by iteration j the youngest is j - 1 (R261). -/
def Loop.iterOf (l : Loop) (k : Nat) : BitVec 32 :=
  let young := match l.roll with
    | some j => j - 1
    | none => l.iter - 1
  match (upTo 8).find? (fun i => l.sp.getLsbD i) with
  | some a => young - BitVec.ofNat 32 (k - a)
  | none => young

/-- Whether a stage predicate reads true: in a nested loop whose words belong to an iteration that is rolled back it reads false
(R251, R261). -/
def stageOn (s : State) (k : Nat) : Bool :=
  match innermost s with
  | none => false
  | some l =>
    l.sp.getLsbD k && (l.r || (match rollLoop s with
      | some r => (match r.roll with
        | some j => l.owner.ult j
        | none => true)
      | none => true))

/-- The iteration of the rollback-capable loop to which a word belongs (R258). -/
def wordIter (s : State) (stg : BitVec 3) : BitVec 32 :=
  match innermost s with
  | none => 0
  | some l => if l.r then l.iterOf stg.toNat else l.owner

/-! ### Masks (R57, R145) -/

/-- The top of the lane-mask stack: all ones at depth 0 (R145). -/
def maskTop (s : State) : BitVec 64 := s.vec.mask.head?.getD (BitVec.allOnes 64)

/-- Whether the stage predicate lets a word act. -/
def predOn (f : VWord) (s : State) : Bool := !f.s || stageOn s f.stg.toNat

/-- The enabled lanes of a word (R57). -/
def enableOf (f : VWord) (s : State) : BitVec 64 :=
  if predOn f s then (if f.m then maskTop s else BitVec.allOnes 64) else 0

/-! ### x registers at issue (R187) -/

/-- The values on their way to an x register: a captured entry that a handler has changed may be an x-register word of any latency
(R197). -/
def xFlying (n : Nat) (s : State) : List Word :=
  (s.vec.flights.filter (fun fl => (flightKeys fl).contains (xKey n, 0))).map (fun fl =>
    xcompute fl.op (vecSub fl.op fl.f) fl.f.t.toNat fl.f.b fl.a fl.b)

/-- An x register as a word with X = `x` reads it at issue: outside a region an early read is a free choice among the register and the
values on their way (R187, log 9). -/
def xNow (x : Bool) (n : Nat) (s : State) : Word :=
  let old := vget s.vec.x n 0
  let new := if x then [] else xFlying n s
  if new.isEmpty then old else (old :: new)[Config.freeIndex (2 ^ 70 + 16 * s.cell.cycle.toNat + n) % (new.length + 1)]?.getD old

/-- The x register that an operand names. -/
def xOf (x : Bool) (o : Operand) (s : State) : Word :=
  match o with
  | .xreg n => xNow x n.toNat s
  | _ => 0

/-- The keys of the x registers that operands name. -/
def xKeys (os : List Operand) : List Nat :=
  os.filterMap (fun o => match o with
    | .xreg n => some (xKey n.toNat)
    | _ => none)

/-- An x register is written by a word whose latency is one cycle: no word can read it earlier (R151, R193). -/
def putX (n : BitVec 4) (v : Word) (s : State) : State := noteLanding [xKey n.toNat] [] (fun _ => true) (writeX n v s)

/-! ### Traps, holds and issue -/

/-- TVAL of an illegal-instruction or privilege trap: the word (R109); TVAL holds its low 64 bits (log 43). -/
def wordTval (s : State) : Word := BitVec.ofNat 64 (s.word % 2 ^ 64)

/-- A vector trap precise at the word that stands at the PC. -/
def vTrap (code : Nat) (tval : Word) (s : State) : State := vecTrap 4 code 0 s.vec.pc tval 0 s

/-- The illegal-instruction trap of a vector word. -/
def vIllegal (s : State) : State := vTrap cIllegal (wordTval s) s

/-- The word waits. While a word of a region waits, the pipeline holds (R188). -/
def vHold (f : VWord) (st : EngStat) (w : WaitKind) (s : State) : State :=
  { mapVec (fun v => { v with adv := !f.x, stat := st, wait := w }) s with held := true }

/-- A scoreboard stall. -/
def vStall (f : VWord) (s : State) : State := vHold f .waiting .scoreboard s

/-- The word issues a repeat: the segment and the region count it (R189, R262). -/
def vIssueFed (feed : Bool) (f : VWord) (s : State) : State :=
  let bytes := leBytes 12 s.word
  mapVec (fun v =>
    { v with adv := true, stat := .issuing, wait := .none, realign := false,
             seg := if v.repj = 0 then segIssue feed bytes v.seg else v.seg.tick,
             inreg := if v.repj = 0 then f.x else v.inreg,
             rcount := if v.repj = 0 then (if f.x then v.rcount + 1 else 0) else v.rcount }) s

/-! ### Passes (R253, R256, R258 to R261) -/

/-- The carried rows of a list: tile and row (R252). -/
def carriedRows (carry : Word) : List (Nat × Nat) :=
  (upTo 4).filterMap (fun i => if tb carry.toNat (16 * i + 15) then some (nb carry.toNat (16 * i + 6) 3, nb carry.toNat (16 * i) 6) else none)

/-- The keys of a row. -/
def rowKeys (p : Nat × Nat) : List Nat := (upTo 64).map (fun c => tileKey p.1 p.2 c)

/-- The element of each read port that follows its last popped entry (R259). -/
def portMarks (s : State) : Vector Nat 6 :=
  vtab 6 (fun n => (vget s.vec.ports n Port.zero).mark)

/-- A pass begins (R253): the rotation base and the stage predicates move on, and an iteration starts unless the loop drains. A
stop request sets DRAIN at a pass start other than the first (R256). A pass boundary ends a region (R254). -/
def beginPass (first : Bool) (s : State) : State :=
  match innermost s with
  | none => s
  | some l =>
    let asked := !first && !l.drain && streamStop s
    let drain := l.drain || asked
    let go := decide (l.lc ≠ 0) && !drain
    let up : BitVec 8 := (l.sp <<< 1) &&& BitVec.ofNat 8 (2 ^ (l.st.toNat + 1) - 1)
    let l1 : Loop := { l with drain, rb := if first then l.rb else l.rb - 1 }
    let l2 : Loop :=
      if go then { l1 with sp := up ||| 1, lc := l.lc - 1, iter := l.iter + 1, ec := l.st } else { l1 with sp := up, ec := l.ec - 1 }
    let ck := l.r && go
    setInner l2 (mapVec (fun v => { v with
      pc := l.start, inreg := false, rcount := 0, seg := if asked then v.seg.void else v.seg, ckWait := ck,
      checks := if ck then v.checks ++ [{ iter := l.iter, ports := portMarks s, rows := [] }] else v.checks }) s)

/-- Iteration j commits: its held stores and pushes enter the pipeline in issue order, which is their order in the store queue, and land
6 cycles later, and its records are freed (R258, R259). -/
def commitIter (j : BitVec 32) (s : State) : State :=
  let mine := (s.vec.held.filter (fun h => decide (h.iter = j))).mapIdx (fun i h => { h.fl with left := 6, num := s.vec.seqCtr + i })
  mapRoll (fun l => if l.retry ∧ l.rj = j then { l with retry := false } else l)
    (mapVec (fun v => { v with
      flights := v.flights ++ mine, seqCtr := v.seqCtr + mine.length, held := v.held.filter (fun h => decide (h.iter ≠ j)),
      checks := v.checks.filter (fun c => decide (c.iter ≠ j)),
      loads := v.loads.map (fun e => if e.iter = some j then { e with iter := none } else e) }) s)

/-- The commit at the end of a pass of a rollback-capable loop: the iteration whose last stage ran (R258). -/
def commitPass (s : State) : State :=
  match innermost s with
  | some l => if l.r && l.sp.getLsbD l.st.toNat then commitIter (l.iterOf l.st.toNat) s else s
  | none => s

/-- Whether the rollback of the innermost loop is due at this pass end: every iteration below j has committed (R261). -/
def rollDue (s : State) : Bool :=
  match innermost s with
  | some l => l.r && l.roll.isSome && decide (l.sp &&& BitVec.ofNat 8 (2 ^ l.st.toNat - 1) = 0)
  | none => false

/-- The carried rows take their checkpoint. -/
def restoreRows (rows : List (Nat × Nat × List Lane × BitVec 64)) (s : State) : State :=
  rows.foldl (fun x r => writeKeys (rowKeys (r.1, r.2.1)) r.2.2.1 (BitVec.allOnes 64) r.2.2.2 x) s

/-- The read ports resume at the recorded positions (R261). -/
def restorePorts (marks : Vector Nat 6) (s : State) : State :=
  mapVec (fun v => { v with ports := vtab 8 (fun n =>
    let p := vget v.ports n Port.zero
    if n < 6 then p.refetch (vget marks n 0) else p) }) s

/-- The rollback of iteration j at a pass end (R261), once no load is outstanding. -/
def rollBack (s : State) : State :=
  match innermost s with
  | none => s
  | some l =>
    let j := l.roll.getD 0
    let s1 := landAll s
    let ck := s1.vec.checks.find? (fun c => decide (c.iter = j))
    let s2 := match ck with
      | some c => restorePorts c.ports (restoreRows c.rows s1)
      | none => s1
    let s3 := mapVec (fun v => { v with
      held := v.held.filter (fun h => h.iter.ult j), checks := v.checks.filter (fun c => c.iter.ult j), adv := false,
      seg := v.seg.void }) s2
    beginPass false (setInner { l with lc := l.n - j, iter := j, retry := true, rj := j, drain := false, roll := none, sp := 0 }
      (clearPending s3))

/-- Whether a rollback may go on: every load has arrived, no invocation runs, and every result in flight can land (R261). -/
def rollReady (s : State) : Bool := s.vec.loads.isEmpty && !s.vec.cu.running && (landAll s).vec.flights.isEmpty

/-- Control reaches an address past the last body word of the innermost loop: the pass ends, and the loop goes on, ends, drains or
rolls back (R253, R256, R261). A rollback that must wait leaves the PC at the end of the body. -/
def endPasses : Nat → State → State
  | 0, s => s
  | n + 1, s0 =>
    match innermost s0 with
    | none => s0
    | some l0 =>
      if s0.vec.pc ≠ l0.stop then s0
      else if rollDue s0 then (if rollReady s0 then rollBack (commitPass s0) else s0)
      else
        let s := commitPass s0
        let l := (innermost s).getD l0
        if (l.lc = 0 ∨ l.drain = true) ∧ l.ec = 0 then
          if l.lc = 0 then endPasses n (popLoop (mapVec (fun v => { v with inreg := false, rcount := 0 }) s))
          else mapVec (fun v => { v with pc := l.start, halted := true, drained := true, inreg := false, rcount := 0, seg := v.seg.void }) s
        else beginPass false s

/-- Control goes to an address by falling through, by a return, or past a loop that has ended. -/
def goOn (pc : BitVec 48) (s : State) : State := endPasses 5 (mapVec (fun v => { v with pc }) s)

/-- After a repeat has issued: the next repeat, or the next word after the idle cycles of W (R56, R58). -/
def vNext (f : VWord) (s : State) : State :=
  if s.vec.repj < f.rep.toNat then mapVec (fun v => { v with repj := v.repj + 1 }) s
  else goOn (s.vec.pc + 12) (mapVec (fun v => { v with repj := 0, gap := f.w.toNat }) s)

/-- The word issues a repeat and goes on. -/
def vAdvance (f : VWord) (s : State) : State := vNext f (vIssueFed true f s)

/-! ### Consumed poison (R260, R392) -/

/-- Poison is consumed by iteration j: j and the later iterations are switched off and the loop drains; of several iterations that have
consumed poison the earliest is rolled back (R261, step 1). -/
def markRoll (j : BitVec 32) (s : State) : State :=
  mapRoll (fun l =>
    let j := match l.roll with
      | some i => if i.ult j then i else j
      | none => j
    { l with sp := BitVec.ofNat 8 (boolsNat ((upTo 8).map (fun k => l.sp.getLsbD k && (l.iterOf k).ult j))), roll := some j,
             drain := true }) (mapVec (fun v => { v with seg := v.seg.void }) s)

/-- Whether action 4 rolls the consuming iteration back: one that is still to commit in a rollback-capable loop, unless it is already
under retry (R260). -/
def canRollBack (j : Option (BitVec 32)) (s : State) : Bool :=
  match rollLoop s, j with
  | some l, some j => !l.retry || decide (l.rj ≠ j)
  | _, _ => false

/-- What consumed poison brings: the response, and whether the stream goes on past the consuming word with no effect. -/
def consumePoison (eng : Nat) (j : Option (BitVec 32)) (s : State) : Nat × State :=
  let r := raiseError { cls := 6, src := 1, addr := 0, info := 0, eng, cell := some Config.cellNo, ctx := s.cell.task.ctx } (canRollBack j s) s
  match j with
  | some j => if r.1 = 4 then (4, markRoll j r.2) else r
  | none => r

/-- A vector word consumes poison: actions 0 to 3 raise POISON at the word, action 4 rolls back and the word has no effect, and
the others stop the cell (R260). -/
def vConsume (f : VWord) (tval : Word) (s : State) : State :=
  let r := consumePoison 4 (some (wordIter s f.stg)) s
  if r.1 < 4 then vTrap cPoison tval r.2
  else if r.1 = 4 then vAdvance f r.2
  else { r.2 with held := true }

/-- TVAL of a tile element or of an x register (R193). -/
def keyTval (k : Nat) : Word :=
  if 32768 ≤ k then BitVec.ofNat 64 (0x10 + (k - 32768)) else BitVec.ofNat 64 (k / 4096 + k / 64 % 64 * 2 ^ 8 + k % 64 * 2 ^ 16)

/-- The first key whose lane is set. -/
def firstKey (ks : List Nat) (m : BitVec 64) : Option Nat := ((upTo 64).find? (fun l => enabled m l)).bind (fun l => ks[l]?)

/-! ### Scoreboard (R157, R339) -/

/-- The elements of the destination operand of a pending load. -/
def loadKeys (e : VLoad) : List Nat := operandKeys e.f.d e.rep e.rb 0

/-- The ports that a word's operand names. -/
def portOf : Operand → List Nat
  | .port p => [p.toNat]
  | _ => []

/-- The ports of the running invocation. -/
def cuPorts (s : State) : List Nat :=
  if s.vec.cu.running then portOf s.vec.cu.f.d ++ portOf s.vec.cu.f.a ++ portOf s.vec.cu.f.b else []

/-- Whether a word that touches these elements and ports waits for a load or for the running invocation. -/
def sbBusy (ks ports : List Nat) (s : State) : Bool :=
  s.vec.loads.any (fun e => (loadKeys e).any ks.contains) || (cuKeys s).any ks.contains || (cuPorts s).any ports.contains

/-! ### Checkpoints (R259) -/

/-- The answer of a test before a word: go on with a state, or the state after a hold or a stop. -/
inductive Go where
  | go (s : State)
  | done (s : State)

/-- The checkpoint of the carried rows before the first body word of a pass: it waits until the results of earlier passes have
landed in them; a poisoned lane is consumed by the iteration that starts (R259, R260). This wait never holds the pipeline, since
a pass boundary counts as a word with X = 0 (R254). -/
def checkpoint (f : VWord) (s : State) : Go :=
  match s.vec.ckWait, rollLoop s with
  | true, some l =>
    let rows := carriedRows l.carry
    let ks := rows.flatMap rowKeys
    if sbBusy ks [] s || s.vec.flights.any (fun fl => (flightKeys fl).any (fun p => ks.contains p.1)) then
      .done (vHold { f with x := false } .waiting .scoreboard s)
    else
      let j := l.iter - 1
      let record (s : State) : State := mapVec (fun v => { v with ckWait := false, checks := v.checks.map (fun c =>
          if c.iter = j then { c with rows := rows.map (fun r => (r.1, r.2, readKeys s (rowKeys r), keyMarks s (rowKeys r))) } else c) }) s
      match ks.find? (fun k => inSet s.vec.tileP k) with
      | some k =>
        let r := consumePoison 4 (some j) s
        if r.1 < 4 then .done (vTrap cPoison (keyTval k) r.2)
        else if r.1 = 4 then .go (record r.2)
        else .done { r.2 with held := true }
      | none => .go (record s)
  | _, _ => .go (mapVec (fun v => { v with ckWait := false }) s)

/-! ### The frame of a vector word -/

/-- The trap of a write port that has stopped at a faulting element (R219). -/
def stoppedPort (s : State) : Option (Nat × Word) := writePorts.findSome? (fun n => (vget s.vec.ports n Port.zero).stop)

/-- Whether every pushed entry has been written. -/
def portsDrained (s : State) : Bool := writePorts.all (fun n => (vget s.vec.ports n Port.zero).entries.isEmpty)

/-- Whether the vector queues hold nothing: pushes under way belong to the store queue (R217). -/
def vecQueuesEmpty (s : State) : Bool :=
  s.vec.loads.isEmpty && s.vec.stores.isEmpty && s.vec.parked.isEmpty && s.vec.flights.all (fun f => !f.queues) && portsDrained s &&
    !(s.vec.cu.running && (operandPort s.vec.cu.f.d).isSome)

/-- A word that must find the queues realigned waits as a VQALIGN does: a write port that has stopped raises its trap (R219, R301). -/
def vAlign (f : VWord) (s : State) : State :=
  match stoppedPort s with
  | some (c, v) => vTrap c v s
  | none => vHold f .waiting .fence s

/-- A trap that the frame of a word finds: the word's own illegal-instruction, privilege or control-store miss trap comes before it
(R70). -/
def vSoftTrap (code : Nat) (tval : Word) (body : State → State) (s : State) : State :=
  let t := body s
  if t.vec.trap.any (fun d => [cIllegal, cPrivilege, cCsMiss].contains d.code) then t else vTrap code tval s

/-- The first x register among a word's source operands whose value is not that of its latest-issued write (R193). -/
def xStale (os : List Operand) (f : VWord) (s : State) : Option Nat :=
  if f.x || !s.cell.dbgChk.getLsbD 0 || (s.vec.flights.isEmpty && s.vec.stale.isEmpty) || enableOf f s = 0 then none
  else
    (xKeys os).find? (fun k => inSet s.vec.stale k || s.vec.flights.any (fun fl => (flightKeys fl).contains (k, 0)))

/-- What every vector word passes first: the region count, the check of the x registers that it reads, the realignment after a
strongly ordered access, and the checkpoint of a pass (R189, R193, R259, R301). -/
def vword (f : VWord) (body : State → State) (s : State) : State :=
  if s.vec.repj = 0 ∧ f.x = true ∧ 64 ≤ s.vec.rcount then vSoftTrap cRegion 0 body s
  else if (xStale [f.a, f.b] f s).isSome then vSoftTrap cCheck (keyTval ((xStale [f.a, f.b] f s).getD 0)) body s
  else if s.vec.realign && !vecQueuesEmpty s then vAlign f s
  else
    match checkpoint f s with
    | .done s' => s'
    | .go s' => body s'

/-- A control, x-register or mask-stack word: where its stage predicate is false it has no effect but its issue (R134). -/
def ctlWord (f : VWord) (body : State → State) (s : State) : State :=
  vword f (fun s => if predOn f s then body s else vAdvance f s) s

/-! ### Ports at a word (R114, R216 to R219) -/

/-- The base address of a port's block. -/
def portBase (p : Port) : Word := if p.cfg then BitVec.ofNat 64 (leAt p.block 0 8) else 0

/-- What a port answers to a pop or a push. -/
inductive PortAns where
  | ok
  | wait
  | trap (code : Nat) (tval : Word)
  deriving DecidableEq, Repr

/-- Whether a read port's head entry is complete. -/
def headFull (p : Port) : Bool :=
  let e := (p.taken + 1) * portPer p.flags
  let n := portElems p.block
  !p.entries.isEmpty && decide ((if n < e then n else e) ≤ p.pos)

/-- A pop of a read port by a word with X = `x` (R114, R194, R218, R219). -/
def popAns (x : Bool) (n : Nat) (s : State) : PortAns :=
  let p := vget s.vec.ports n Port.zero
  if !p.cfg ∨ portYield p.block p.flags ≤ p.taken then .trap cAccess (portBase p)
  else if headFull p then
    (match p.entries with
     | e :: _ =>
       (match e.pending with
        | some a => if !x && s.cell.dbgChk.getLsbD 1 then .trap cPending (BitVec.ofNat 64 a) else .ok
        | none => .ok)
     | [] => .wait)
  else
    match p.stop with
    | some (c, a) => .trap c a
    | none => .wait

/-- The head entry of a read port. -/
def headEntry (n : Nat) (s : State) : List Lane × BitVec 64 :=
  match (vget s.vec.ports n Port.zero).entries with
  | e :: _ => (e.lanes, e.pois)
  | [] => ([], 0)

/-- Pops read ports. -/
def popPorts (ns : List Nat) (s : State) : State :=
  ns.foldl (fun x n => mapVec (fun v =>
    let p := vget v.ports n Port.zero
    { v with ports := vset v.ports n { p with entries := p.entries.tail, taken := p.taken + 1 } }) x) s

/-- Pushes under way to a write port. -/
def pushesTo (n : Nat) (s : State) : Nat :=
  let into (o : Operand) : Bool := (portOf o).contains n
  (s.vec.flights.filter (fun f => !f.store && f.valid && f.src.isNone && into f.f.d)).length + (s.vec.loads.filter (fun e => into e.f.d)).length +
    (if s.vec.cu.running && into s.vec.cu.f.d then (s.vec.cu.flights.filter (fun u => decide (u.f.dst = 8))).length else 0)

/-- Pushes held by a rollback-capable loop. -/
def heldPushes (n : Nat) (s : State) : Nat :=
  (s.vec.held.filter (fun h => h.fl.src.isNone && h.port.any (fun p => decide (p.val = n)))).length

/-- A push to a write port: it waits for room for one vector in every case (R114, R217 to R219, log 63). -/
def pushAns (n : Nat) (s : State) : PortAns :=
  let p := vget s.vec.ports n Port.zero
  match p.stop with
  | some (c, a) => .trap c a
  | none =>
    let k := pushesTo n s
    if !p.cfg ∨ portYield p.block p.flags ≤ p.taken + k + heldPushes n s then .trap cAccess (portBase p)
    else if 8 ≤ p.entries.length + k then .wait
    else .ok

/-- The answers of several ports: the first trap, else a wait, else ok. -/
def allAns (l : List PortAns) : PortAns :=
  match l.find? (fun a => match a with
      | .trap _ _ => true
      | _ => false) with
  | some a => a
  | none =>
    if l.any (fun a => match a with
      | .wait => true
      | _ => false) then .wait else .ok

/-! ### Reading operands at issue (R112, R187) -/

/-- Lanes with their poison marks. -/
structure Src where
  lanes : List Lane
  marks : BitVec 64

/-- Nothing read. -/
def Src.none : Src := { lanes := [], marks := 0 }

/-- The values that a flight will write: keys with lanes and marks. -/
def flightVals (fl : Flight) : List (Nat × Lane × Bool) :=
  if fl.op = 0x19 then (flightKeys fl).map (fun p => (p.1, laneAt fl.a 0, false))
  else
    let r := vcompute (flightIn fl)
    let n := (operandKeys fl.f.d fl.rep fl.rb 0).length
    let lo := ((operandKeys fl.f.d fl.rep fl.rb 0).mapIdx (fun l k => (l, k))).filter (fun p => enabled (flightMask fl) p.1)
    let hi := ((operandKeys fl.f.d fl.rep fl.rb 1).mapIdx (fun l k => (l, k))).filter (fun p => enabled (flightMask fl) p.1)
    lo.map (fun p => (p.2, laneAt r.lo p.1, enabled fl.pois p.1)) ++
      (match r.hi with
       | some h => if n = 0 then [] else hi.map (fun p => (p.2, laneAt h p.1, enabled fl.pois p.1))
       | _ => [])

/-- A read of tile elements at issue. A word of a region sees what the last landed write left; any other word may see, for each
element separately, the value of a write that is still in flight: a free choice (R187, log 9). -/
def readTile (x : Bool) (ks : List Nat) (s : State) : Src × State :=
  let old : Src := { lanes := readKeys s ks, marks := keyMarks s ks }
  if x || s.vec.flights.isEmpty then (old, s)
  else
    let hits := s.vec.flights.filter (fun fl => (flightKeys fl).any (fun p => ks.contains p.1))
    if hits.isEmpty then (old, s)
    else
      let writes := hits.map flightVals
      let pick (l k : Nat) : Lane × Bool :=
        let cand := (laneAt old.lanes l, enabled old.marks l) :: writes.filterMap (fun w => (w.find? (fun q => decide (q.1 = k))).map (·.2))
        cand[Config.freeIndex (s.freeCtr + l) % cand.length]?.getD (laneAt old.lanes l, enabled old.marks l)
      let got := ks.mapIdx pick
      ({ lanes := got.map (·.1), marks := BitVec.ofNat 64 (boolsNat (got.map (·.2))) }, { s with freeCtr := s.freeCtr + 64 })

/-- A source operand at issue: the elements of a tile, the head entry of a port, the value of an x register; an immediate or a
special operand is taken from the word itself (R114, R196). -/
def readSrc (x : Bool) (o : Operand) (odd : Nat) (s : State) : Src × State :=
  match o with
  | .tile _ _ _ _ _ _ => readTile x (operandKeys o s.vec.repj (rotBase s) odd) s
  | .port p => let e := headEntry p.toNat s; ({ lanes := e.1, marks := e.2 }, s)
  | .xreg n => ({ lanes := scalarLanes (xNow x n.toNat s), marks := 0 }, s)
  | _ => (Src.none, s)

/-- An operand that a word does not read. -/
def readIf (b x : Bool) (o : Operand) (s : State) : Src × State := if b then readSrc x o 0 s else (Src.none, s)

/-- The checking scoreboard (R193): the elements read by enabled lanes, each with its lane; the answer is the first element whose
value is not that of its latest-issued write. -/
def checkFails (f : VWord) (reads : List (List Nat × BitVec 64)) (s : State) : Option Nat :=
  if f.x || !s.cell.dbgChk.getLsbD 0 || (s.vec.flights.isEmpty && s.vec.stale.isEmpty) then none
  else
    let bad (k : Nat) : Bool := inSet s.vec.stale k || s.vec.flights.any (fun fl => (flightKeys fl).any (fun p => decide (p.1 = k)))
    (upTo 64).findSome? (fun l => reads.findSome? (fun r =>
      if enabled r.2 l then (r.1[l]?).bind (fun k => if bad k then some k else none) else none))

/-! ### Rollback-capable loops at a word (R258) -/

/-- Whether a word that stores, pushes or tests in a rollback-capable loop lacks its stage predicate. -/
def rollBad (f : VWord) (s : State) : Bool := (rollLoop s).isSome && !f.s

/-- The stores and pushes that an iteration holds: those of one CXn are one push (R258, R339). -/
def heldCount (j : BitVec 32) (s : State) : Nat :=
  let mine := s.vec.held.filter (fun h => decide (h.iter = j))
  (mine.filter (fun h => h.key.isNone)).length + (mine.filterMap (·.key)).eraseDups.length

/-- Whether the iteration of a word holds its 32 stores and pushes already. -/
def heldFull (f : VWord) (s : State) : Bool := (rollLoop s).isSome && decide (32 ≤ heldCount (wordIter s f.stg) s)

/-- A store or a push is held in a rollback-capable loop; outside one it is on its way, with its number in the store queue. -/
def launch (f : VWord) (port : Option (Fin 8)) (fl : Flight) (s : State) : State :=
  if (rollLoop s).isSome then mapVec (fun v => { v with held := v.held ++ [{ iter := wordIter s f.stg, port, fl, key := fl.src }] }) s
  else
    let p := nextSeq s
    mapVec (fun v => { v with flights := v.flights ++ [{ fl with num := p.1 }] }) p.2

end Sys2Proof.Machine
end

