-- ==== Sys2Proof/Machine/VecLane.lean ====
section
/-! DEFINITION. The computing words of the vector stream: arithmetic, function pairs, movement, reductions, noise and the amax
registers (spec/05_vector_arith.md R110 to R132; spec/06_vector_flow.md R133 to R144). -/

namespace Sys2Proof.Machine

open Sys2Proof

/-! ### What a word reads -/

/-- Whether a word has a field A (R117, R133). -/
def usesA (op : Nat) : Bool := (vShape op).any (fun h => decide (h.a ≠ .none))

/-- Whether a word has a field B. -/
def usesB (op : Nat) : Bool := (vShape op).any (fun h => decide (h.b ≠ .none))

/-- Whether the destination is read as a source: the "rw" rows of R117. -/
def readsD (op : Nat) : Bool := [0x23, 0x24, 0x25, 0x33, 0x36, 0x43, 0x4F].contains op

/-- Whether a word reads an a40 pair of tiles as its source (R136). -/
def a40Source (op : Nat) (f : VWord) : Bool := decide (op = 0x60) && decide (sourceType f.t.toNat f.a = 11)

/-- The keys of an operand that a word reads. -/
def srcKeys (b : Bool) (o : Operand) (odd : Nat) (s : State) : List Nat :=
  if b then operandKeys o s.vec.repj (rotBase s) odd else []

/-- The keys of the destination of a computing word, both tiles of an a40 pair. -/
def destKeys (op : Nat) (f : VWord) (s : State) : List Nat :=
  operandKeys f.d s.vec.repj (rotBase s) 0 ++
    (if op = 0x60 ∧ f.t = 11 then operandKeys f.d s.vec.repj (rotBase s) 1 else [])

/-- Source lanes that the written lanes of a VCVT read (R124). -/
def cvtReads (src dst : Nat) (c : CvtMode) (en : BitVec 64) : BitVec 64 :=
  let m := en &&& cvtLanes src dst c
  let used := (setLanes m).flatMap (fun l => (upTo (perLane dst)).map (fun k => cvtSource src dst c (perLane dst * l + k) / perLane src))
  maskOf used.contains

/-- Lanes of A that a word reads. -/
def lanesOfA (op : Nat) (f : VWord) (b : List Lane) (en mtop : BitVec 64) : BitVec 64 :=
  if 0x61 ≤ op ∧ op ≤ 0x63 then BitVec.allOnes 64
  else if op = 0x69 then mtop
  else if op = 0x30 then en &&& mtop
  else if op = 0x32 then cvtReads (sourceType f.t.toNat f.a) f.t.toNat (cvtMode f.b b) en
  else en

/-- Lanes of B that a word reads. -/
def lanesOfB (op : Nat) (en mtop : BitVec 64) : BitVec 64 :=
  if op = 0x69 then en &&& maskOf (fun l => decide ((setLanes mtop).length ≤ l))
  else if op = 0x30 then en &&& ~~~ mtop
  else en

/-- Distinct read ports that a word names, in rising order (R114). -/
def readPorts (f : VWord) : List Nat :=
  let a := portOf f.a
  let b := portOf f.b
  match a, b with
  | [x], [y] => if x = y then [x] else if x < y then [x, y] else [y, x]
  | _, _ => a ++ b

/-- The seed register that a word reads at issue (R124, R144). -/
def seedOf (op : Nat) (b : List Lane) (s : State) : Word :=
  if op = 0x32 then vget s.cell.ps 7 0
  else if op = 0x6A ∨ op = 0x6B then vget s.cell.ps ((lanesScalar b).toNat % 8) 0
  else 0

/-- TVAL of a POISON trap at a push or a store: the register number of the first poisoned enabled lane of a tile source, 0 where
no tile lane holds the poison (R260, R193). -/
def poisonTval (srcs : List (List Nat × BitVec 64)) : Word :=
  match srcs.findSome? (fun p => firstKey p.1 p.2) with
  | some k => keyTval k
  | none => 0

/-! ### Issue -/

/-- A result is on its way, or held when it is a push of a rollback-capable loop. -/
def flyOn (fl : Flight) (s : State) : State :=
  match fl.f.d with
  | .port p => launch fl.f (some p.toFin) fl s
  | _ => mapVec (fun v => { v with flights := v.flights ++ [fl] }) s

/-- A computing word with its operands captured goes on: a push that receives an enabled poisoned lane consumes it (R115, R196,
R260). -/
def laneCaptured (op lat : Nat) (f : VWord) (en : BitVec 64) (a b d : Src) (tval : Word) (s : State) : State :=
  let fl : Flight :=
    { Flight.zero with
      op, f, rep := s.vec.repj, left := lat, en, a := a.lanes, b := b.lanes, d := d.lanes, rb := rotBase s, mtop := maskTop s,
      key := seedOf op b.lanes s, iss := s.cell.cycle.toNat }
  let pois := vpoison (flightIn fl) a.marks b.marks d.marks (readsD op)
  if !(portOf f.d).isEmpty && decide (pois &&& en ≠ 0) then vConsume f tval s
  else vAdvance f (popPorts (readPorts f) (flyOn { fl with pois } s))

/-- A computing word with enabled lanes at its issue: scoreboard, ports, checks, and the reading of its operands. -/
def laneIssue (op : Nat) (f : VWord) (en : BitVec 64) (s : State) : State :=
  let odd := a40Source op f
  let ka := srcKeys (usesA op) f.a 0 s
  let ka1 := srcKeys odd f.a 1 s
  let kb := srcKeys (usesB op) f.b 0 s
  let kd := destKeys op f s
  let rports := readPorts f
  let push := portOf f.d
  if sbBusy (ka ++ ka1 ++ kb ++ kd) (rports ++ push) s then vStall f s
  else
    match allAns (rports.map (fun n => popAns f.x n s) ++ push.map (fun n => pushAns n s)) with
    | .trap c v => vTrap c v s
    | .wait => vHold f .waiting .port s
    | .ok =>
        let ra := readIf (usesA op) f.x f.a s
        let rb := if odd then readTile f.x ka1 ra.2 else readIf (usesB op) f.x f.b ra.2
        let rdst := readIf (readsD op) f.x f.d rb.2
        let la := lanesOfA op f rb.1.lanes en (maskTop s)
        let lb := lanesOfB op en (maskTop s)
        let reads := [(ka, la), (ka1, en), (kb, lb)] ++ (if readsD op then [(kd, en)] else [])
        match checkFails f reads s with
        | some k => vTrap cCheck (keyTval k) s
        | none =>
          laneCaptured op ((latencyOf op f.t.toNat).getD 1) f en ra.1 rb.1 rdst.1
            (poisonTval [(ka, la &&& ra.1.marks), (kb, lb &&& rb.1.marks)]) rdst.2

/-- A computing word (R57, R112 to R118, R258). -/
def laneWord (op : Nat) (f : VWord) (s : State) : State :=
  vword f (fun s =>
    if !(portOf f.d).isEmpty && rollBad f s then vIllegal s
    else
      let en := enableOf f s
      if en = 0 then vAdvance f s
      else if !(portOf f.d).isEmpty && heldFull f s then vIllegal s
      else laneIssue op f en s) s

/-! ### Amax registers (R141 to R143) -/

/-- Whether work of the matrix engine that has begun drains into am[n]: an MDRAIN under way, or a drain on end whose drain has begun
(R143, R179, R181). -/
def matDrains (s : State) (n : Nat) : Bool :=
  match s.mat.work with
  | none => false
  | some w =>
    let rb : Option (BitVec 4) :=
      if w.op = 0x13 then (if w.begun then some w.f.rb else none)
      else if w.drain ∧ w.f.flg.getLsbD 2 ∧ (w.op = 0x11 ∨ w.op = 0x12 ∨ w.op = 0x17 ∨ w.op = 0x1A) then s.mat.template.map (·.rb) else none
    rb.any (fun b => b.getLsbD 3 && decide (b.toNat % 8 = n))

/-- VAMAX results on their way to am[n]. -/
def amaxFlights (s : State) (n : Nat) : List Flight :=
  s.vec.flights.filter (fun fl => fl.valid && decide (fl.op = 0x66) && decide (immNat fl.f.d % 8 = n))

/-- The larger of two amax values, as am[n] takes a new one (R141). -/
def amaxLeast (a b : BitVec 32) : BitVec 32 := amaxWith a [f32 b.toNat]

/-- am[n] after a VAMAX result lands. -/
def amaxAfter (fl : Flight) (m : BitVec 32) : BitVec 32 :=
  let i := flightIn fl
  amaxWith m (amaxElems i.t fl.en (operandLanes i.t i.fa i.a i.mtop))

/-- The values that an early read of am[n] may see: the register, and the register after each update still in flight (R187). -/
def amaxSeen (s : State) (n : Nat) : List (BitVec 32) :=
  (amaxFlights s n).foldl (fun acc fl => acc ++ [amaxAfter fl ((acc.getLast?).getD 0)]) [vget s.vec.am n 0]

/-- VAMRD at issue (R143). With X = 1 the value is what the last landed write left; with X = 0 it is one of the values R187 allows, and
not below one read before (log 122). The value read is captured in bytes 64 to 71 of captured A, the scalar operand of an entry, since
the A of the word is an immediate: R196 names no place for it (DESIGN CHOICE, log 133). -/
def amaxRead (f : VWord) (en : BitVec 64) (s : State) : State :=
  let n := immNat f.a % 8
  let push := portOf f.d
  if sbBusy (destKeys 0x67 f s) push s then vStall f s
  else if tb (immNat f.a) 3 && matDrains s n then vHold f .waiting .none s
  else
    match allAns (push.map (fun p => pushAns p s)) with
    | .trap c v => vTrap c v s
    | .wait => vHold f .waiting .port s
    | .ok =>
        let seen := amaxSeen s n
        if !f.x && s.cell.dbgChk.getLsbD 0 && decide (1 < seen.length) then vTrap cCheck (BitVec.ofNat 64 (0x20 + n)) s
        else
          let p := takeFree s
          let floor := vget s.vec.amFloor n 0
          let v := if f.x then vget s.vec.am n 0 else amaxLeast (seen[Config.freeIndex p.1 % seen.length]?.getD 0) floor
          let s1 := if f.x ∨ seen.length = 1 then s else p.2
          let s2 := mapVec (fun k =>
            if tb (immNat f.a) 4 then { k with am := vset k.am n 0, amFloor := vset k.amFloor n 0 } else { k with amFloor := vset k.amFloor n (amaxLeast v floor) }) s1
          laneCaptured 0x67 3 f en { lanes := scalarLanes (v.setWidth 64), marks := 0 } Src.none Src.none 0 s2

/-- VAMRD (R143). -/
def amaxWord (f : VWord) (s : State) : State :=
  vword f (fun s =>
    if !(portOf f.d).isEmpty && rollBad f s then vIllegal s
    else
      let en := enableOf f s
      if en = 0 then vAdvance f s
      else if !(portOf f.d).isEmpty && heldFull f s then vIllegal s
      else amaxRead f en s) s

/-! ### The words -/

/-- VADD (R120). -/
def execVadd (f : VWord) (s : State) : Host.Outcome State Fault Refusal := .next (laneWord 0x20 f s)

/-- VSUB (R120). -/
def execVsub (f : VWord) (s : State) : Host.Outcome State Fault Refusal := .next (laneWord 0x21 f s)

/-- VMUL (R120). -/
def execVmul (f : VWord) (s : State) : Host.Outcome State Fault Refusal := .next (laneWord 0x22 f s)

/-- VFMA (R120). -/
def execVfma (f : VWord) (s : State) : Host.Outcome State Fault Refusal := .next (laneWord 0x23 f s)

/-- VFMS (R120). -/
def execVfms (f : VWord) (s : State) : Host.Outcome State Fault Refusal := .next (laneWord 0x24 f s)

/-- VFNMA (R120). -/
def execVfnma (f : VWord) (s : State) : Host.Outcome State Fault Refusal := .next (laneWord 0x25 f s)

/-- VMIN (R121). -/
def execVmin (f : VWord) (s : State) : Host.Outcome State Fault Refusal := .next (laneWord 0x26 f s)

/-- VMAX (R121). -/
def execVmax (f : VWord) (s : State) : Host.Outcome State Fault Refusal := .next (laneWord 0x27 f s)

/-- VABS (R122). -/
def execVabs (f : VWord) (s : State) : Host.Outcome State Fault Refusal := .next (laneWord 0x28 f s)

/-- VNEG (R122). -/
def execVneg (f : VWord) (s : State) : Host.Outcome State Fault Refusal := .next (laneWord 0x29 f s)

/-- VCPYS (R122). -/
def execVcpys (f : VWord) (s : State) : Host.Outcome State Fault Refusal := .next (laneWord 0x2A f s)

/-- VCMPEQ (R128). -/
def execVcmpeq (f : VWord) (s : State) : Host.Outcome State Fault Refusal := .next (laneWord 0x2B f s)

/-- VCMPLT (R128). -/
def execVcmplt (f : VWord) (s : State) : Host.Outcome State Fault Refusal := .next (laneWord 0x2C f s)

/-- VCMPLE (R128). -/
def execVcmple (f : VWord) (s : State) : Host.Outcome State Fault Refusal := .next (laneWord 0x2D f s)

/-- VCMPNE (R128). -/
def execVcmpne (f : VWord) (s : State) : Host.Outcome State Fault Refusal := .next (laneWord 0x2E f s)

/-- VCMPUN (R128). -/
def execVcmpun (f : VWord) (s : State) : Host.Outcome State Fault Refusal := .next (laneWord 0x2F f s)

/-- VSEL (R129). -/
def execVsel (f : VWord) (s : State) : Host.Outcome State Fault Refusal := .next (laneWord 0x30 f s)

/-- VRND (R123). -/
def execVrnd (f : VWord) (s : State) : Host.Outcome State Fault Refusal := .next (laneWord 0x31 f s)

/-- VCVT (R124). -/
def execVcvt (f : VWord) (s : State) : Host.Outcome State Fault Refusal := .next (laneWord 0x32 f s)

/-- VDOT (R125). -/
def execVdot (f : VWord) (s : State) : Host.Outcome State Fault Refusal := .next (laneWord 0x33 f s)

/-- VSCALE (R126). -/
def execVscale (f : VWord) (s : State) : Host.Outcome State Fault Refusal := .next (laneWord 0x34 f s)

/-- VEXPO (R126). -/
def execVexpo (f : VWord) (s : State) : Host.Outcome State Fault Refusal := .next (laneWord 0x35 f s)

/-- VCLAMP (R127). -/
def execVclamp (f : VWord) (s : State) : Host.Outcome State Fault Refusal := .next (laneWord 0x36 f s)

/-- VDIV (R120). -/
def execVdiv (f : VWord) (s : State) : Host.Outcome State Fault Refusal := .next (laneWord 0x37 f s)

/-- VSQRT (R120). -/
def execVsqrt (f : VWord) (s : State) : Host.Outcome State Fault Refusal := .next (laneWord 0x38 f s)

/-- VIADD (R130). -/
def execViadd (f : VWord) (s : State) : Host.Outcome State Fault Refusal := .next (laneWord 0x40 f s)

/-- VISUB (R130). -/
def execVisub (f : VWord) (s : State) : Host.Outcome State Fault Refusal := .next (laneWord 0x41 f s)

/-- VIMUL (R130). -/
def execVimul (f : VWord) (s : State) : Host.Outcome State Fault Refusal := .next (laneWord 0x42 f s)

/-- VIMAD (R130). -/
def execVimad (f : VWord) (s : State) : Host.Outcome State Fault Refusal := .next (laneWord 0x43 f s)

/-- VAND (R131). -/
def execVand (f : VWord) (s : State) : Host.Outcome State Fault Refusal := .next (laneWord 0x44 f s)

/-- VIOR (R131). -/
def execVior (f : VWord) (s : State) : Host.Outcome State Fault Refusal := .next (laneWord 0x45 f s)

/-- VXOR (R131). -/
def execVxor (f : VWord) (s : State) : Host.Outcome State Fault Refusal := .next (laneWord 0x46 f s)

/-- VSHL (R132). -/
def execVshl (f : VWord) (s : State) : Host.Outcome State Fault Refusal := .next (laneWord 0x47 f s)

/-- VSHR (R132). -/
def execVshr (f : VWord) (s : State) : Host.Outcome State Fault Refusal := .next (laneWord 0x48 f s)

/-- VSHRA (R132). -/
def execVshra (f : VWord) (s : State) : Host.Outcome State Fault Refusal := .next (laneWord 0x49 f s)

/-- VPOPC (R131). -/
def execVpopc (f : VWord) (s : State) : Host.Outcome State Fault Refusal := .next (laneWord 0x4A f s)

/-- VCLZ (R131). -/
def execVclz (f : VWord) (s : State) : Host.Outcome State Fault Refusal := .next (laneWord 0x4B f s)

/-- VIABS (R130). -/
def execViabs (f : VWord) (s : State) : Host.Outcome State Fault Refusal := .next (laneWord 0x4C f s)

/-- VADDS (R130). -/
def execVadds (f : VWord) (s : State) : Host.Outcome State Fault Refusal := .next (laneWord 0x4D f s)

/-- VSUBS (R130). -/
def execVsubs (f : VWord) (s : State) : Host.Outcome State Fault Refusal := .next (laneWord 0x4E f s)

/-- VBSEL (R131). -/
def execVbsel (f : VWord) (s : State) : Host.Outcome State Fault Refusal := .next (laneWord 0x4F f s)

/-- VEXP2_F (R135). -/
def execVexp2F (f : VWord) (s : State) : Host.Outcome State Fault Refusal := .next (laneWord 0x50 f s)

/-- VEXP2_R (R135). -/
def execVexp2R (f : VWord) (s : State) : Host.Outcome State Fault Refusal := .next (laneWord 0x51 f s)

/-- VLOG2_F (R135). -/
def execVlog2F (f : VWord) (s : State) : Host.Outcome State Fault Refusal := .next (laneWord 0x52 f s)

/-- VLOG2_R (R135). -/
def execVlog2R (f : VWord) (s : State) : Host.Outcome State Fault Refusal := .next (laneWord 0x53 f s)

/-- VRCP_F (R135). -/
def execVrcpF (f : VWord) (s : State) : Host.Outcome State Fault Refusal := .next (laneWord 0x54 f s)

/-- VRCP_R (R135). -/
def execVrcpR (f : VWord) (s : State) : Host.Outcome State Fault Refusal := .next (laneWord 0x55 f s)

/-- VRSQ_F (R135). -/
def execVrsqF (f : VWord) (s : State) : Host.Outcome State Fault Refusal := .next (laneWord 0x56 f s)

/-- VRSQ_R (R135). -/
def execVrsqR (f : VWord) (s : State) : Host.Outcome State Fault Refusal := .next (laneWord 0x57 f s)

/-- VSINPI_F (R135). -/
def execVsinpiF (f : VWord) (s : State) : Host.Outcome State Fault Refusal := .next (laneWord 0x58 f s)

/-- VSINPI_R (R135). -/
def execVsinpiR (f : VWord) (s : State) : Host.Outcome State Fault Refusal := .next (laneWord 0x59 f s)

/-- VCOSPI_F (R135). -/
def execVcospiF (f : VWord) (s : State) : Host.Outcome State Fault Refusal := .next (laneWord 0x5A f s)

/-- VCOSPI_R (R135). -/
def execVcospiR (f : VWord) (s : State) : Host.Outcome State Fault Refusal := .next (laneWord 0x5B f s)

/-- VTANH_F (R135). -/
def execVtanhF (f : VWord) (s : State) : Host.Outcome State Fault Refusal := .next (laneWord 0x5C f s)

/-- VTANH_R (R135). -/
def execVtanhR (f : VWord) (s : State) : Host.Outcome State Fault Refusal := .next (laneWord 0x5D f s)

/-- VSIGM_F (R135). -/
def execVsigmF (f : VWord) (s : State) : Host.Outcome State Fault Refusal := .next (laneWord 0x5E f s)

/-- VSIGM_R (R135). -/
def execVsigmR (f : VWord) (s : State) : Host.Outcome State Fault Refusal := .next (laneWord 0x5F f s)

/-- VMOV (R136). -/
def execVmov (f : VWord) (s : State) : Host.Outcome State Fault Refusal := .next (laneWord 0x60 f s)

/-- VBCAST (R137). -/
def execVbcast (f : VWord) (s : State) : Host.Outcome State Fault Refusal := .next (laneWord 0x61 f s)

/-- VPERM (R137). -/
def execVperm (f : VWord) (s : State) : Host.Outcome State Fault Refusal := .next (laneWord 0x62 f s)

/-- VROT (R137). -/
def execVrot (f : VWord) (s : State) : Host.Outcome State Fault Refusal := .next (laneWord 0x63 f s)

/-- VSUM (R139). -/
def execVsum (f : VWord) (s : State) : Host.Outcome State Fault Refusal := .next (laneWord 0x64 f s)

/-- VMAXR (R139). -/
def execVmaxr (f : VWord) (s : State) : Host.Outcome State Fault Refusal := .next (laneWord 0x65 f s)

/-- VAMAX (R142). -/
def execVamax (f : VWord) (s : State) : Host.Outcome State Fault Refusal := .next (laneWord 0x66 f s)

/-- VAMRD (R143). -/
def execVamrd (f : VWord) (s : State) : Host.Outcome State Fault Refusal := .next (amaxWord f s)

/-- VSCAN (R140). -/
def execVscan (f : VWord) (s : State) : Host.Outcome State Fault Refusal := .next (laneWord 0x68 f s)

/-- VCOMP (R138). -/
def execVcomp (f : VWord) (s : State) : Host.Outcome State Fault Refusal := .next (laneWord 0x69 f s)

/-- VRNG (R144). -/
def execVrng (f : VWord) (s : State) : Host.Outcome State Fault Refusal := .next (laneWord 0x6A f s)

/-- VNOISE (R144). -/
def execVnoise (f : VWord) (s : State) : Host.Outcome State Fault Refusal := .next (laneWord 0x6B f s)

end Sys2Proof.Machine
end

