-- ==== Sys2Proof/Machine/VecCtl.lean ====
section
/-! DEFINITION. The control words, the x-register words and the lane-mask stack of the vector stream, with its loops and its
segments (spec/06_vector_flow.md R145 to R152; spec/10_engines.md R225, R236; spec/11_loops.md R251 to R255, R262, R263;
spec/15_ordering.md R303). -/

namespace Sys2Proof.Machine

open Sys2Proof

/-! ### Taking a word past the issue point -/

/-- The word issues and control goes to an address without ending a pass. -/
def vJump (f : VWord) (pc : BitVec 48) (s : State) : State :=
  mapVec (fun v => { v with pc, gap := f.w.toNat }) (vIssueFed true f s)

/-- The word issues and control goes on at an address, where a pass may end. -/
def vThrough (f : VWord) (pc : BitVec 48) (s : State) : State :=
  goOn pc (mapVec (fun v => { v with gap := f.w.toNat }) (vIssueFed true f s))

/-- The target of a branch: the offset counts words of 12 bytes (R147). -/
def vTarget (f : VWord) (s : State) : BitVec 48 :=
  match f.b with
  | .imm v => s.vec.pc + 12 * v.signExtend 48
  | _ => s.vec.pc

/-- Whether an address lies in the body of a loop. -/
def Loop.holds (l : Loop) (a : BitVec 48) : Bool := decide ((a - l.start).toNat < 12 * l.len.toNat)

/-- A taken branch out of the innermost body ends that loop at once, and so on outward; a rollback-capable loop cannot be left
so (R254, R255). -/
def leaveLoops (target : BitVec 48) : Nat → State → Option State
  | 0, s => some s
  | n + 1, s =>
    match innermost s with
    | none => some s
    | some l => if l.holds target then some s else if l.r then none else leaveLoops target n (popLoop s)

/-- A taken branch. -/
def takeBranch (f : VWord) (s : State) : State :=
  match leaveLoops (vTarget f s) 4 s with
  | some s' => vJump f (vTarget f s) s'
  | none => vIllegal s

/-- VNOP (R147). -/
def execVnop (f : VWord) (s : State) : Host.Outcome State Fault Refusal := .next (ctlWord f (vAdvance f) s)

/-- VHALT: issue stops, and the sequencer is halted once its results have landed; the PC moves on then (R147, R158, R189,
R339). -/
def execVhalt (f : VWord) (s : State) : Host.Outcome State Fault Refusal :=
  .next (ctlWord f (fun s =>
    match stoppedPort s with
    | some (c, v) => vTrap c v s
    | none =>
      if !s.vec.parked.isEmpty then vHold f .waiting .none s
      else mapVec (fun v => { v with halting := true, inreg := false, rcount := 0 }) (vIssueFed true f s)) s)

/-- VBR (R147). -/
def execVbr (f : VWord) (s : State) : Host.Outcome State Fault Refusal := .next (ctlWord f (takeBranch f) s)

/-- VBRZ: branches when no bit of the mask top is set (R147). -/
def execVbrz (f : VWord) (s : State) : Host.Outcome State Fault Refusal :=
  .next (ctlWord f (fun s => if maskTop s = 0 then takeBranch f s else vAdvance f s) s)

/-- VCALL: at depth 8 an illegal instruction (R147, R148). -/
def execVcall (f : VWord) (s : State) : Host.Outcome State Fault Refusal :=
  .next (ctlWord f (fun s =>
    if 8 ≤ s.vec.ret.length then vIllegal s
    else vJump f (vTarget f s) (mapVec (fun v => { v with ret := (v.pc + 12) :: v.ret }) s)) s)

/-- VRET: at depth 0 an illegal instruction (R147, R148). -/
def execVret (f : VWord) (s : State) : Host.Outcome State Fault Refusal :=
  .next (ctlWord f (fun s =>
    match s.vec.ret with
    | [] => vIllegal s
    | a :: r => vThrough f a (mapVec (fun v => { v with ret := r }) s)) s)

/-! ### Loops (R251 to R255) -/

/-- The fields of a VLOOP (R252): number of stages minus one, rollback-capable, body length, carried rows, trip count. -/
structure LoopArgs where
  st : BitVec 3
  r : Bool
  len : Nat
  carry : Word
  n : BitVec 32

/-- The arguments of a VLOOP as read at issue. -/
def loopArgs (f : VWord) (s : State) : LoopArgs :=
  let b := immNat f.b
  { st := BitVec.ofNat 3 b, r := tb b 3, len := b / 32, carry := xOf f.x f.d s, n := (xOf f.x f.a s).setWidth 32 }

/-- The reserved bits of a carried-row list (R252). -/
def carryBad (c : Word) : Bool := (upTo 4).any (fun i => decide (nb c.toNat (16 * i + 9) 6 ≠ 0))

/-- Whether a VLOOP breaks a rule of the loop stack (R252, R258). -/
def loopBad (a : LoopArgs) (s : State) : Bool :=
  carryBad a.carry || decide (4 ≤ s.vec.loops.length) || (a.r && (rollLoop s).isSome) ||
    (match innermost s with
     | some l => decide (l.stop.toNat < (s.vec.pc + 12 + 12 * BitVec.ofNat 48 a.len).toNat)
     | none => false)

/-- VLOOP (R252, R253). -/
def execVloop (f : VWord) (s : State) : Host.Outcome State Fault Refusal :=
  .next (vword f (fun s =>
    let a := loopArgs f s
    let past : BitVec 48 := s.vec.pc + 12 + 12 * BitVec.ofNat 48 a.len
    if !predOn f s then vThrough f past s
    else if loopBad a s then vIllegal s
    else if (xStale [f.d] f s).isSome then vTrap cCheck (keyTval ((xStale [f.d] f s).getD 0)) s
    else if a.n = 0 then vThrough f past s
    else
      let l : Loop :=
        { start := s.vec.pc + 12, lc := a.n, iter := 0, st := a.st, r := a.r, drain := false, retry := false, sp := 0, rb := 0,
          ec := 0, len := BitVec.ofNat 16 a.len, carry := a.carry, n := a.n, rj := 0, roll := none, owner := wordIter s f.stg }
      beginPass true (mapVec (fun v => { v with loops := v.loops ++ [l], gap := f.w.toNat }) (vIssueFed true f s))) s)

/-- Whether a VLEXIT is taken. -/
def exitTaken (f : VWord) (s : State) : Bool :=
  match f.a with
  | .xreg n => decide (xNow f.x n.toNat s ≠ 0)
  | _ => true

/-- VLEXIT.D: no iteration starts any more (R255). -/
def execVlexitD (f : VWord) (s : State) : Host.Outcome State Fault Refusal :=
  .next (ctlWord f (fun s =>
    match innermost s with
    | none => vIllegal s
    | some l => if exitTaken f s then vAdvance f (setInner { l with lc := 0 } s) else vAdvance f s) s)

/-- VLEXIT.I: the loop ends at once (R255). -/
def execVlexitI (f : VWord) (s : State) : Host.Outcome State Fault Refusal :=
  .next (ctlWord f (fun s =>
    match innermost s with
    | none => vIllegal s
    | some l =>
      if l.r then vIllegal s
      else if exitTaken f s then vThrough f l.stop (popLoop s) else vAdvance f s) s)

/-! ### Waits and signals (R149, R150, R158, R225, R236) -/

/-- VWAIT: a plain scratchpad address, 16-byte aligned; when the wait ends it is an acquire (R149, R236). -/
def execVwait (f : VWord) (s : State) : Host.Outcome State Fault Refusal :=
  .next (ctlWord f (fun s =>
    let xa := xOf f.x f.a s
    let b : Word := match f.b with
      | .imm v => v.signExtend 64
      | o => xOf f.x o s
    let off := xa.toNat
    if 2 ^ 23 ≤ off ∨ spaOk s ownPos off .read false = false then vTrap cAccess xa s
    else if off % 16 ≠ 0 then vTrap cMisdata xa s
    else
      let w := syncRead s (locSpad ownPos off)
      if (w.gen + 2 ^ 32 - b.toNat % 2 ^ 32) % 2 ^ 32 < 2 ^ 31 then
        vAdvance f (observeSync (locSpad ownPos off) b.toNat (acquire 4 s))
      else vHold f .waiting .sync s) s)

/-- Whether every earlier vector word has landed and its stores are visible at cell scope; stores of an iteration that has not
committed are not counted (R149, R158, R258, R339). -/
def vecSettled (s : State) : Bool :=
  s.vec.flights.isEmpty && s.vec.loads.isEmpty && s.vec.parked.isEmpty && storesOut s.vec.stores && portsDrained s && !s.vec.cu.running

/-- VSIG: retires a marker of the vector stream and pulses the board (R149, R223, R228). -/
def execVsig (f : VWord) (s : State) : Host.Outcome State Fault Refusal :=
  .next (ctlWord f (fun s =>
    match stoppedPort s with
    | some (c, v) => vTrap c v s
    | none =>
      if !vecSettled s then vHold f .waiting .fence s
      else
        let m := BitVec.ofNat 8 (immNat f.b)
        vAdvance f (pulse 4 m.toNat (retireMarker 3 m s))) s)

/-- VRDV: waits for a rendezvous register; when the wait ends it is an acquire (R149, R225). -/
def execVrdv (f : VWord) (s : State) : Host.Outcome State Fault Refusal :=
  .next (ctlWord f (fun s =>
    let i := BitVec.ofNat 3 (immNat f.b)
    if rdvFired s i then vAdvance f (observeRdv i.toNat (acquire 4 s)) else vHold f .waiting .rendezvous s) s)

/-- VTRAP: the software trap; TPC is the next vector word, which would have issued after the idle cycles of W (R149, R195). -/
def execVtrap (f : VWord) (s : State) : Host.Outcome State Fault Refusal :=
  .next (ctlWord f (fun s =>
    let s1 := goOn (s.vec.pc + 12) (vIssueFed true f s)
    vecTrap 4 cTrap (immNat f.b) s1.vec.pc 0 (1 + f.w.toNat) s1) s)

/-- VPPT: a pre-emption point; a pending request is taken when the next word would issue (R149, R323). -/
def execVppt (f : VWord) (s : State) : Host.Outcome State Fault Refusal := .next (ctlWord f (vAdvance f) s)

/-- Whether a load is one of a global address. -/
def isGlobalLoad (e : VLoad) : Bool := decide (e.op = 0x7A)

/-- Whether a fence of the vector sequencer is met at a scope: pushes count as stores (R93, R94, R150, R158, R217). -/
def vFenceMet (scope : Nat) (globals : Bool) (s : State) : Bool :=
  s.vec.loads.all (fun e => !globals && isGlobalLoad e && (portOf e.f.d).isEmpty) && s.vec.flights.all (fun fl => !fl.queues) && s.vec.parked.isEmpty &&
    storesOut s.vec.stores && portsDrained s && !s.vec.cu.running && visibleAt scope 4 s &&
    (decide (scope ≠ 4) || (packetsDone s 4 && packetsDone s 5 && s.vec.stores.isEmpty))

/-- A fence of the vector sequencer stands in its queue as a barrier, and at memory-side scope what follows sees the observed
changes (R150, R301, R305). -/
def vPassFence (scope : Nat) (s : State) : State :=
  let s1 := mapVec (fun v => { v with bar := v.bar + 1 }) s
  if scope = 5 then passMsFence 4 s1 else s1

/-- A word that realigns or fences the queues of the vector sequencer: a write port that has stopped raises its trap (R219). -/
def vFenceWord (scope : Nat) (globals : Bool) (f : VWord) (s : State) : State :=
  ctlWord f (fun s =>
    match stoppedPort s with
    | some (c, v) => vTrap c v s
    | none => if vFenceMet scope globals s then vAdvance f (vPassFence scope s) else vHold f .waiting .fence s) s

/-- VQALIGN (R150). -/
def execVqalign (f : VWord) (s : State) : Host.Outcome State Fault Refusal := .next (vFenceWord 0 false f s)

/-- VFENCE.scope (R150). -/
def execVfence (f : VWord) (s : State) : Host.Outcome State Fault Refusal := .next (vFenceWord (immNat f.b) true f s)

/-! ### Segments (R149, R262, R263) -/

/-- VSEG xa, #0: opens a segment. -/
def execVsegOpen (f : VWord) (s : State) : Host.Outcome State Fault Refusal :=
  .next (ctlWord f (fun s =>
    if s.vec.seg.opened then vIllegal s
    else
      let v := xOf f.x f.a s
      vNext f (mapVec (fun k => { k with seg := Seg.start v }) (vIssueFed true f s))) s)

/-- VSEG %zero, #1: closes the segment and compares. -/
def execVsegClose (f : VWord) (s : State) : Host.Outcome State Fault Refusal :=
  .next (ctlWord f (fun s =>
    if !s.vec.seg.opened then vIllegal s
    else
      let s1 := vIssueFed false f s
      segClose 1 4 s1.vec.seg (vTrap cSegment) s (vNext f (mapVec (fun k => { k with seg := Seg.closed }) s1))) s)

/-! ### x-register words (R151, R152) -/

/-- The capture of an x-register word's operand B. -/
def xCapture (x : Bool) (o : Operand) (s : State) : List Lane :=
  match o with
  | .xreg n => scalarLanes (xNow x n.toNat s)
  | _ => []

/-- A word that writes one x register with a function of x registers and an immediate (R151). -/
def xWord (op sub : Nat) (f : VWord) (s : State) : State :=
  ctlWord f (fun s =>
    match f.d with
    | .xreg n => vAdvance f (putX n (xcompute op sub f.t.toNat f.b (xCapture f.x f.a s) (xCapture f.x f.b s)) s)
    | _ => vAdvance f s) s

/-- XADD (R151). -/
def execXadd (f : VWord) (s : State) : Host.Outcome State Fault Refusal := .next (xWord 0x10 0 f s)

/-- XSUB (R151). -/
def execXsub (f : VWord) (s : State) : Host.Outcome State Fault Refusal := .next (xWord 0x11 0 f s)

/-- XMUL (R151). -/
def execXmul (f : VWord) (s : State) : Host.Outcome State Fault Refusal := .next (xWord 0x12 0 f s)

/-- XSHL (R151). -/
def execXshl (f : VWord) (s : State) : Host.Outcome State Fault Refusal := .next (xWord 0x13 0 f s)

/-- XSHRA (R151). -/
def execXshra (f : VWord) (s : State) : Host.Outcome State Fault Refusal := .next (xWord 0x14 0 f s)

/-- XAND (R151). -/
def execXand (f : VWord) (s : State) : Host.Outcome State Fault Refusal := .next (xWord 0x15 0 f s)

/-- XIOR (R151). -/
def execXior (f : VWord) (s : State) : Host.Outcome State Fault Refusal := .next (xWord 0x16 0 f s)

/-- XLIMM xd, #imm (R151). -/
def execXlimm (f : VWord) (s : State) : Host.Outcome State Fault Refusal := .next (xWord 0x17 0 f s)

/-- XLIMM xd, xd, #imm (R151). -/
def execXlimmShift (f : VWord) (s : State) : Host.Outcome State Fault Refusal := .next (xWord 0x17 1 f s)

/-- XCMP.cc (R151). -/
def execXcmp (f : VWord) (s : State) : Host.Outcome State Fault Refusal := .next (xWord 0x1C 0 f s)

/-- The lane number that an x-register word names: b mod 64. -/
def xLaneOf (f : VWord) (s : State) : Nat := (xOperand f.b (xCapture f.x f.b s)).toNat % 64

/-- XGET: one lane of a tile or of a popped entry; a poisoned lane is consumed (R151, R260). -/
def execXget (f : VWord) (s : State) : Host.Outcome State Fault Refusal :=
  .next (if rollBad f s then vword f vIllegal s else ctlWord f (fun s =>
    let l := xLaneOf f s
    let ks := operandKeys f.a 0 (rotBase s) 0
    let one : BitVec 64 := maskOf (fun i => decide (i = l))
    if sbBusy ((ks[l]?.map (fun k => [k])).getD []) (portOf f.a) s then vStall f s
    else
      match allAns ((portOf f.a).map (fun n => popAns f.x n s)) with
      | .trap c v => vTrap c v s
      | .wait => vHold f .waiting .port s
      | .ok =>
        match checkFails f [(ks, one)] s with
        | some k => vTrap cCheck (keyTval k) s
        | none =>
          let r := readSrc f.x f.a 0 s
          if enabled r.1.marks l then vConsume f (poisonTval [(ks, one)]) r.2
          else
            match f.d with
            | .xreg n => vAdvance f (putX n ((laneAt r.1.lanes l).setWidth 64) (popPorts (portOf f.a) r.2))
            | _ => vAdvance f r.2) s)

/-- XPUT: one lane of a tile operand, 3 cycles after issue (R151). -/
def execXput (f : VWord) (s : State) : Host.Outcome State Fault Refusal :=
  .next (ctlWord f (fun s =>
    let l := xLaneOf f s
    let ks := operandKeys f.d 0 (rotBase s) 0
    if sbBusy ((ks[l]?.map (fun k => [k])).getD []) [] s then vStall f s
    else
      vAdvance f (flyOn
        { Flight.zero with
          op := 0x19, f, left := 3, en := BitVec.allOnes 64, a := xCapture f.x f.a s, b := xCapture f.x f.b s, rb := rotBase s,
          mtop := maskTop s, iss := s.cell.cycle.toNat } s)) s)

/-- Whether a read of a special register is an acquire (R304, R377). -/
def srAcquires (n : Nat) : Bool := decide (n = 0x007) || decide (n = 0x403)

/-- XFSR: a special register as user mode reads it; the number of a cluster is free (R151, R152). -/
def execXfsr (f : VWord) (s : State) : Host.Outcome State Fault Refusal :=
  let n := immNat f.b
  .next (match srTrap n false with
    | some code => vword f (fun s => if predOn f s then vTrap code (wordTval s) s else vAdvance f s) s
    | none => ctlWord f (fun s =>
        match f.d with
        | .xreg r =>
          let p := takeFree s
          let s1 := if n = 0x008 then p.2 else s
          let v := if n = 0x008 then Config.freeWord p.1 % 4 else srRead 0 n s
          let s2 := putX r v s1
          vAdvance f (if srAcquires n then acquire 4 s2 else s2)
        | _ => vAdvance f s) s)

/-- XTSR: a special register from 0x100 to 0x1FF (R151, R152). -/
def execXtsr (f : VWord) (s : State) : Host.Outcome State Fault Refusal :=
  let n := immNat f.d
  .next (if !srExists n then vword f (fun s => if predOn f s then vIllegal s else vAdvance f s) s
    else ctlWord f (fun s => vAdvance f (srWrite 0 n (xOf f.x f.a s) s)) s)

/-! ### The lane-mask stack (R145, R146) -/

/-- A change of the mask stack, whose top stands first. -/
def setMask (m : List (BitVec 64)) (s : State) : State := mapVec (fun v => { v with mask := m }) s

/-- The entry below the top: all ones at depth 1. -/
def maskBelow (s : State) : BitVec 64 := (s.vec.mask.tail.head?).getD (BitVec.allOnes 64)

/-- A word whose condition is a lane operand: c[l] is whether lane l is not zero; poison in it is consumed (R145, R260). -/
def condWord (f : VWord) (full : State → Bool) (k : BitVec 64 → State → State) (s : State) : State :=
  if rollBad f s then vword f vIllegal s
  else
    ctlWord f (fun s =>
      let ks := operandKeys f.a 0 (rotBase s) 0
      let ps := portOf f.a
      if full s then vIllegal s
      else if sbBusy ks ps s then vStall f s
      else
        match allAns (ps.map (fun n => popAns f.x n s)) with
        | .trap c v => vTrap c v s
        | .wait => vHold f .waiting .port s
        | .ok =>
          match checkFails f [(ks, BitVec.allOnes 64)] s with
          | some e => vTrap cCheck (keyTval e) s
          | none =>
            let r := readSrc f.x f.a 0 s
            if r.1.marks ≠ 0 then vConsume f (poisonTval [(ks, r.1.marks)]) r.2
            else
              let a := operandLanes 0 f.a r.1.lanes (maskTop s)
              vAdvance f (k (maskOf (fun l => decide (laneAt a l ≠ 0))) (popPorts ps r.2))) s

/-- MPUSH: at depth 16 an illegal instruction (R145, R146). -/
def execMpush (f : VWord) (s : State) : Host.Outcome State Fault Refusal :=
  .next (condWord f (fun s => decide (16 ≤ s.vec.mask.length)) (fun c s => setMask ((maskTop s &&& c) :: s.vec.mask) s) s)

/-- MAND: at depth 0 an illegal instruction (R145, R146). -/
def execMand (f : VWord) (s : State) : Host.Outcome State Fault Refusal :=
  .next (condWord f (fun s => s.vec.mask.isEmpty) (fun c s => setMask ((maskTop s &&& c) :: s.vec.mask.tail) s) s)

/-- MINV: at depth 0 an illegal instruction (R145, R146). -/
def execMinv (f : VWord) (s : State) : Host.Outcome State Fault Refusal :=
  .next (ctlWord f (fun s =>
    if s.vec.mask.isEmpty then vIllegal s
    else vAdvance f (setMask ((maskBelow s &&& ~~~ maskTop s) :: s.vec.mask.tail) s)) s)

/-- MPOP: at depth 0 an illegal instruction (R145, R146). -/
def execMpop (f : VWord) (s : State) : Host.Outcome State Fault Refusal :=
  .next (ctlWord f (fun s => if s.vec.mask.isEmpty then vIllegal s else vAdvance f (setMask s.vec.mask.tail s)) s)

/-- MRD: the top, or the depth (R145). -/
def execMrd (f : VWord) (s : State) : Host.Outcome State Fault Refusal :=
  .next (ctlWord f (fun s =>
    let v : Word := if immNat f.a = 0 then maskTop s else BitVec.ofNat 64 s.vec.mask.length
    match f.d with
    | .xreg n => vAdvance f (putX n v s)
    | _ => vAdvance f s) s)

/-- MSET: sets the top, or pushes; a push at depth 16 is an illegal instruction (R145, R146). -/
def execMset (f : VWord) (s : State) : Host.Outcome State Fault Refusal :=
  .next (ctlWord f (fun s =>
    let v := xOf f.x f.a s
    if immNat f.b = 1 ∧ 16 ≤ s.vec.mask.length then vIllegal s
    else vAdvance f (setMask (if immNat f.b = 1 then v :: s.vec.mask else v :: s.vec.mask.tail) s)) s)

end Sys2Proof.Machine
end

