-- ==== Sys2Proof/Machine/VecMem.lean ====
section
/-! DEFINITION. Vector loads and stores, the arrival of their lanes, ports, and the start of custom sequences
(spec/06_vector_flow.md R153 to R158; spec/08_latency.md R187, R194, R195; spec/09_scratchpad.md R213 to R219;
spec/15_ordering.md R299, R301; spec/17_control_store.md R336, R337; spec/19_fabric.md R350). -/

namespace Sys2Proof.Machine

open Sys2Proof

/-! ### Addresses of repeats (R153) -/

/-- The byte offset of a linear access. -/
def immOffset (f : VWord) : Int :=
  match f.b with
  | .imm v => v.toInt
  | _ => 0

/-- The address of repeat 0. -/
def eaFirst (f : VWord) (s : State) : Word := eaPlus false (xOf f.x f.a s) (immOffset f)

/-- The address of repeat 0 of a local access, or the base of an indexed one, and the repeats before the current one (R153, R155). -/
def repeatEa (op : Nat) (f : VWord) (s : State) : Word × Nat :=
  if op = 0x7C ∨ op = 0x7D then (xOf f.x f.a s, 0) else (eaFirst f s, s.vec.repj)

/-! ### Loads (R153 to R158, R187, R194) -/

/-- The old bytes and the later bytes of locations that unlanded stores of the sequencer write (R187). -/
def earlySnap (locs : List Nat) (s : State) : List (List Host.Cell) :=
  let hit (f : Flight) : Bool := f.cells.any (fun c => locs.contains c.1)
  let fs := s.vec.flights.filter hit
  if fs.isEmpty then []
  else
    let touched := locs.filter (fun l => fs.any (fun f => f.cells.any (fun c => decide (c.1 = l))))
    let old : List Host.Cell := touched.map (fun l => (l, vecByte s l))
    (fs.foldl (fun acc f => acc ++ [touched.map (fun l => (l, overlay f.cells l (overlay ((acc.getLast?).getD []) l 0)))]) [old])

/-- The first pending scratchpad word among locations (R194). -/
def pendingHit (locs : List Nat) (s : State) : Option Nat :=
  if s.vec.pendWords.isEmpty then none
  else
    locs.findSome? (fun l =>
      if isSpad l ∧ s.vec.pendWords.contains ((l - locSpad ownPos 0) / 32 * 32) then some ((l - locSpad ownPos 0) / 32 * 32) else none)

/-- The port a push names, as Held gives it. -/
def heldPort (d : Operand) : Option (Fin 8) :=
  match d with
  | .port p => some p.toFin
  | _ => none

/-- A load enters the load queue; in a rollback-capable loop its push takes its place among those of its iteration (R258). -/
def queueLoad (e : VLoad) (s : State) : State :=
  let p := nextSeq s
  let s1 := mapVec (fun v => { v with loads := v.loads ++ [{ e with seq := p.1 }] }) p.2
  if e.iter.isSome then launch e.f (heldPort e.f.d) (pushPlace p.1 e.iss e.f.d) s1 else s1

/-- The entry of a load repeat. -/
def loadEntry (op : Nat) (f : VWord) (en : BitVec 64) (ea : Word) (chain : Nat) (idx : List Lane) (s : State) : VLoad :=
  { op, f, rep := s.vec.repj, en, left := en, rb := rotBase s, ea, idx, snap := [], free := !f.x,
    iter := if (rollLoop s).isSome ∧ (portOf f.d).isEmpty = false then some (wordIter s f.stg) else none, acc := [], accP := 0, seq := 0,
    dev := false, greq := none, page := snapOf s, chain, iss := s.cell.cycle.toNat }

/-- A local load with its address at its issue: faults that translation shows are precise, and an untranslated access parks. -/
def loadAt (op : Nat) (f : VWord) (en : BitVec 64) (ea : Word × Nat) (idx : List Lane) (s : State) : State :=
  let e := loadEntry op f en ea.1 ea.2 idx s
  match chainTargets e.page (vecEng e.iss) ea.2 op f.t.toNat .read ea.1 idx en (setLanes en) s with
  | .trap c v _ s' => vTrap c v s'
  | .wait s' => vAdvance f (popPorts (readPorts f) (queueLoad { e with dev := true } s'))
  | .ok (ls, w, _, s') =>
    let locs := ls.flatMap (·.locs)
    if anyStrong ls && !vecQueuesEmpty s then vAlign f s'
    else
      match (if !f.x && s.cell.dbgChk.getLsbD 1 then pendingHit locs s else none) with
      | some a => vTrap cPending (BitVec.ofNat 64 a) s
      | none =>
        alignQueues (anyStrong ls) (vAdvance f (popPorts (readPorts f) (queueLoad
          { e with snap := earlySnap locs s, dev := w || anyDevice ls } s')))

/-- The index lanes of an indexed access, read as i32 (R155). -/
def indexLanes (f : VWord) (b : List Lane) (s : State) : List Lane := operandLanes 3 f.b b (maskTop s)

/-- VLD and VGATH with enabled lanes. -/
def loadIssue (op : Nat) (f : VWord) (en : BitVec 64) (s : State) : State :=
  let gath := decide (op = 0x7C)
  let kb := srcKeys gath f.b 0 s
  let kd := operandKeys f.d s.vec.repj (rotBase s) 0
  let rports := if gath then portOf f.b else []
  let push := portOf f.d
  if sbBusy (kb ++ kd) (rports ++ push) s then vStall f s
  else
    match allAns (rports.map (fun n => popAns f.x n s) ++ push.map (fun n => pushAns n s)) with
    | .trap c v => vTrap c v s
    | .wait => vHold f .waiting .port s
    | .ok =>
      match checkFails f [(kb, en)] s with
      | some k => vTrap cCheck (keyTval k) s
      | none =>
        let r := readIf gath f.x f.b s
        loadAt op f en (repeatEa op f s) (indexLanes f r.1.lanes s) r.2

/-- A load word: a write-port destination counts as a push; `skip` is a repeat without enabled lanes (R114, R258). -/
def vloadWord (f : VWord) (skip : State → State) (issue : VWord → BitVec 64 → State → State) (s : State) : State :=
  vword f (fun s =>
    if !(portOf f.d).isEmpty && rollBad f s then vIllegal s
    else
      let en := enableOf f s
      if en = 0 then skip s
      else if !(portOf f.d).isEmpty && heldFull f s then vIllegal s
      else issue f en s) s

/-- VLD (R153, R154). -/
def execVld (f : VWord) (s : State) : Host.Outcome State Fault Refusal := .next (vloadWord f (vAdvance f) (loadIssue 0x78) s)

/-- VGATH (R155). -/
def execVgath (f : VWord) (s : State) : Host.Outcome State Fault Refusal := .next (vloadWord f (vAdvance f) (loadIssue 0x7C) s)

/-- The byte counts that a global repeat with a type may have (R154). -/
def globalCounts (t : Nat) : List Nat :=
  256 :: (if t = 0 ∨ t = 10 then [64, 32] else if t = 1 ∨ t = 2 then [128, 64] else [])

/-- The byte count that the page of the repeat before has, as the source takes it while that repeat's packet is out: a free choice
among the counts of R154, and the answer to the packet is one that agrees with it (R153, log 107). -/
def globalNext (f : VWord) (id : PktId) (ea : Word) (s : State) : Word × State :=
  let p := takeFree s
  let cs := globalCounts f.t.toNat
  let n := cs[Config.freeIndex p.1 % cs.length]?.getD 256
  (eaPlus true ea n, mapVec (fun v => { v with gSent := v.gSent.map (fun g => if g.id = id then { g with count := some n } else g) }) p.2)

/-- The address of the current repeat of a global access: past the one before by its byte count, as the answer to its packet gave it
or as it is chosen while the packet is out (R153, R156). -/
def globalEa (f : VWord) (s : State) : Word × State :=
  if s.vec.repj = 0 then (eaPlus true (xOf f.x f.a s) (immOffset f), s)
  else
    match s.vec.gWait with
    | some id => globalNext f id s.vec.eaNext s
    | none => (s.vec.eaNext, s)

/-- What a global repeat leaves for the next one. -/
def keepGlobal (f : VWord) (ea : Word) (id : PktId) (s : State) : State :=
  mapVec (fun v => { v with
    eaNext := ea, gWait := if v.repj < f.rep.toNat then some id else none,
    gSent := v.gSent ++ [{ id, iss := s.cell.cycle.toNat, count := none }] }) s

/-- A global repeat without enabled lanes sends nothing (R366). Its bytes need no passing over: every later repeat of the word has the
same mask, and sends nothing either. -/
def skipGlobal (f : VWord) (s : State) : State := vAdvance f (mapVec (fun v => { v with gWait := none }) s)

/-- VLDG with enabled lanes: one packet for each repeat (R156, R350). -/
def globalLoad (f : VWord) (en : BitVec 64) (s : State) : State :=
  let push := portOf f.d
  if sbBusy (operandKeys f.d s.vec.repj (rotBase s) 0) push s then vStall f s
  else
    match allAns (push.map (fun n => pushAns n s)) with
    | .trap c v => vTrap c v s
    | .wait => vHold f .waiting .port s
    | .ok =>
      let ea := globalEa f s
      match spaceOf ea.1 with
      | .glob dev va =>
        (match sendPacket 5 dev 4 f.t.toNat false va [] en ea.2 with
         | none => vHold f .waiting .none s
         | some (id, s1) =>
           let g : GReq := { id, kind := 4, size := f.t.toNat, va, answer := none }
           vAdvance f (keepGlobal f ea.1 id (queueLoad { loadEntry 0x7A f en ea.1 0 [] s with greq := some g } s1)))
      | _ => vTrap cAccess ea.1 s

/-- VLDG (R156). -/
def execVldg (f : VWord) (s : State) : Host.Outcome State Fault Refusal := .next (vloadWord f (skipGlobal f) globalLoad s)

/-! ### Stores (R153 to R158) -/

/-- A local store whose data are captured: 6 cycles later it lands (R157, R194, R196). -/
def storeAt (op : Nat) (f : VWord) (en : BitVec 64) (ea : Word × Nat) (b d : Src) (s : State) : State :=
  let fl : Flight :=
    { Flight.zero with
      op, f, rep := s.vec.repj, left := 6, store := true, en, ea := ea.1, chain := ea.2, a := scalarLanes (xOf f.x f.a s), b := b.lanes, d := d.lanes, rb := rotBase s,
      mtop := maskTop s, key := vget s.cell.ps 7 0, page := snapOf s, iss := s.cell.cycle.toNat }
  let go (fl : Flight) (s : State) : State :=
    let mark (s : State) : State :=
      if s.cell.dbgChk.getLsbD 1 then mapVec (fun v => { v with pendWords := (spadWords fl.cells).foldl addSet v.pendWords }) s else s
    vAdvance f (popPorts (if op = 0x7D then portOf f.b else []) (mark (launch f none fl s)))
  match chainTargets fl.page (vecEng fl.iss) ea.2 op f.t.toNat .write ea.1 (indexLanes f b.lanes s) en (setLanes en) s with
  | .trap c v _ s' => vTrap c v s'
  | .wait s' => go fl s'
  | .ok (ls, w, _, s') =>
    if anyStrong ls && !vecQueuesEmpty s then vAlign f s'
    else if w then go fl s'
    else
      let ea1 := match eaOf (vecEng fl.iss) op f.t.toNat .write s ea.2 ea.1 with
        | .ok a => a
        | _ => ea.1
      alignQueues (anyStrong ls) (go
        { fl with ea := ea1, chain := 0, cells := storeCells s fl.key f.t.toNat d.lanes ls, mt := lanesType ls } s')

/-- A store with enabled lanes: a poisoned lane among its data is consumed (R260). -/
def storeIssue (op : Nat) (f : VWord) (en : BitVec 64) (s : State) : State :=
  let scat := decide (op = 0x7D)
  let kb := srcKeys scat f.b 0 s
  let kd := operandKeys f.d s.vec.repj (rotBase s) 0
  let rports := if scat then portOf f.b else []
  if sbBusy (kb ++ kd) rports s then vStall f s
  else
    match allAns (rports.map (fun n => popAns f.x n s)) with
    | .trap c v => vTrap c v s
    | .wait => vHold f .waiting .port s
    | .ok =>
      match checkFails f [(kd, en), (kb, en)] s with
      | some k => vTrap cCheck (keyTval k) s
      | none =>
        let rdst := readTile f.x kd s
        let rb := readIf scat f.x f.b rdst.2
        if rdst.1.marks &&& en ≠ 0 then vConsume f (poisonTval [(kd, rdst.1.marks &&& en)]) rb.2
        else storeAt op f en (repeatEa op f s) rb.1 rdst.1 rb.2

/-- A store word (R258). -/
def vstoreWord (op : Nat) (f : VWord) (s : State) : State :=
  vword f (fun s =>
    if rollBad f s then vIllegal s
    else
      let en := enableOf f s
      if en = 0 then vAdvance f s else if heldFull f s then vIllegal s else storeIssue op f en s) s

/-- VST (R153, R154). -/
def execVst (f : VWord) (s : State) : Host.Outcome State Fault Refusal := .next (vstoreWord 0x79 f s)

/-- VSCAT (R155). -/
def execVscat (f : VWord) (s : State) : Host.Outcome State Fault Refusal := .next (vstoreWord 0x7D f s)

/-- The bytes of the enabled lanes, in rising order (R366). -/
def enabledBytes (en : BitVec 64) (ls : List Lane) : List Byte :=
  ((upTo 64).filter (fun l => enabled en l)).flatMap (fun l => leBytes 4 (laneAt ls l).toNat)

/-- VSTG with enabled lanes: one packet for each repeat, with the raw enabled lanes (R156, R350, R366). -/
def globalStore (f : VWord) (en : BitVec 64) (s : State) : State :=
  let kd := operandKeys f.d s.vec.repj (rotBase s) 0
  if sbBusy kd [] s then vStall f s
  else
    let ea := globalEa f s
    match spaceOf ea.1 with
    | .glob dev va =>
      (match checkFails f [(kd, en)] s with
       | some k => vTrap cCheck (keyTval k) s
       | none =>
         let r := readTile f.x kd ea.2
         if r.1.marks &&& en ≠ 0 then vConsume f (poisonTval [(kd, r.1.marks &&& en)]) r.2
         else
           match sendPacket 4 dev 5 f.t.toNat false va (enabledBytes en r.1.lanes) en r.2 with
           | none => vHold f .waiting .none s
           | some (id, s1) => vAdvance f (keepGlobal f ea.1 id s1))
    | _ => vTrap cAccess ea.1 s

/-- VSTG: in a rollback-capable loop an illegal instruction (R156, R258). -/
def execVstg (f : VWord) (s : State) : Host.Outcome State Fault Refusal :=
  .next (vword f (fun s =>
    if (rollLoop s).isSome then vIllegal s
    else
      let en := enableOf f s
      if en = 0 then skipGlobal f s else globalStore f en s) s)

/-! ### Landing (R112, R157) -/

/-- VECTOR_RESULT_LAND: a cycle passes for the results in flight, unless the pipeline holds (R112, R188). -/
def execVectorResultLand (s : State) : Host.Outcome State Fault Refusal :=
  .next (if s.vec.adv ∧ s.cell.frozen.isNone then mapVec (fun v => { v with adv := false }) (tickFlights s) else s)

/-- The parked stores whose addresses are translated now enter the store queue; one that cannot be performed is a fault (R158). -/
def retryParked (s : State) : State :=
  s.vec.parked.foldl (fun x p =>
    let drop (x : State) : State := mapVec (fun v => { v with parked := v.parked.filter (fun q => decide (q.1 ≠ p.1)) }) x
    match resolveStore p.2 x with
    | .ok (f, x') => if f.mt = 3 ∧ strongHeld p.1 x' then x' else drop (enqueueStore p.1 f x')
    | .wait x' => x'
    | .trap c v y x' => lateFault p.2.iss 4 c v y (drop x')) s

/-- VECTOR_STORE_LAND: parked stores are tried again; with none, a cycle passes for the results in flight (R157, R158). -/
def execVectorStoreLand (s : State) : Host.Outcome State Fault Refusal :=
  .next (if !s.vec.parked.isEmpty then retryParked s
    else if s.vec.adv ∧ s.cell.frozen.isNone then mapVec (fun v => { v with adv := false }) (tickFlights s) else s)

/-! ### Addresses of port elements (R215) -/

/-- The strided sum of element `e` of a block (R215). -/
def portSum (block : List Byte) (e : Nat) : Int :=
  let c (k : Nat) : Nat := leAt block (8 + 2 * k) 2 + 1
  let st (k : Nat) : Int := sx (leAt block (16 + 4 * k) 4) 32
  (e % c 0 : Nat) * st 0 + (e / c 0 % c 1 : Nat) * st 1 + (e / (c 0 * c 1) % c 2 : Nat) * st 2 + (e / (c 0 * c 1 * c 2) % c 3 : Nat) * st 3

/-- The byte address of element `e`, and the half of the byte that it names (R215): none where a scratchpad address lies outside
the scratchpad. The first part is the address as a number. -/
def portAddr (p : Port) (e : Nat) : Nat × Option Word × Nat :=
  let sum := portSum p.block e
  let half := p.flags.getLsbD 3
  let base : Int := (leAt p.block 0 8 : Nat)
  let a := base + (if half then sum / 2 else sum)
  let h := if half then (sum % 2).toNat else 0
  if p.flags.getLsbD 0 then
    let v := (a % (2 ^ 48 : Int)).toNat
    (v, some (BitVec.ofNat 64 v), h)
  else if 0 ≤ a ∧ a < 2 ^ 23 then (a.toNat, some (BitVec.ofNat 64 (2 ^ 63 + a.toNat)), h)
  else ((a % (2 ^ 64 : Int)).toNat, none, h)

/-! ### Arrival of load lanes (R157, R187, R195) -/

/-- Whether an access to a device page with number `seq` in the queues must wait for an earlier store, which may be one to a device page
(R301). -/
def deviceHeld (seq : Nat) (s : State) : Bool :=
  s.vec.stores.any (fun x => x.dev && decide (x.seq < seq)) || s.cell.cellStores.any (fun x => decide (x.q = 4) && x.dev && decide (x.seq < seq)) ||
    queuedBefore seq s

/-- A byte of a load: a member of a region sees the old value of a store that had not landed at its issue; any other word sees
the old or a new one, by a free choice `k` (R187). -/
def loadByte (e : VLoad) (k : Nat) (s : State) (l : Nat) : Byte :=
  let seen := e.snap.filterMap (fun cs => (cs.find? (fun c => decide (c.1 = l))).map (·.2))
  if seen.isEmpty then vecByte s l
  else if e.free then
    let all := vecByte s l :: seen
    all[k % all.length]?.getD (vecByte s l)
  else seen.head?.getD (vecByte s l)

/-- The push of a load or of the custom unit with number `n`, as a result that lands: a move of 32-bit lanes (log 131). -/
def pushFlight (n : Nat) (d : Operand) (en pois : BitVec 64) (ls : List Lane) : Flight :=
  { pushPlace n 0 d with en, pois, a := ls, src := none }

/-- A complete vector is pushed: source `n` gives it in the place that a rollback-capable loop has kept for it, or it enters the port
(R258); in a frozen cell the frame's port section follows (R195). -/
def pushVector (n : Nat) (more : Bool) (d : Operand) (en pois : BitVec 64) (ls : List Lane) (s : State) : State :=
  let fl := pushFlight n d en pois ls
  if pushKept n s then fillPushes n (some fl) more s else (portOf d).foldl (fun x p => framePort p x) (landFlight fl s)

/-- A load has its last lane: it leaves the queue, and a write port takes its vector; poison in it is consumed then. The word has
issued and no register holds the poison: its trap is a late one with TVAL 0 (R157, R260, log 42). -/
def finishLoad (e : VLoad) (s : State) : State :=
  let s1 := mapVec (fun v => { v with loads := v.loads.filter (fun x => decide (x.seq ≠ e.seq)) }) s
  if (portOf e.f.d).isEmpty then s1
  else if e.accP &&& e.en ≠ 0 then
    let r := consumePoison 4 e.iter s1
    if r.1 < 4 then lateFault e.iss 4 cPoison 0 0 (fillPushes e.seq none false r.2) else r.2
  else pushVector e.seq false e.f.d e.en e.accP e.acc s1

/-- A lane of a load arrives. -/
def takeLane (e : VLoad) (l : Nat) (v : Lane) (mark : Bool) (s : State) : State :=
  let left := e.left &&& ~~~ maskOf (fun i => decide (i = l))
  let base := if e.acc.isEmpty then List.replicate 64 (0 : Lane) else e.acc
  let e1 : VLoad :=
    if (portOf e.f.d).isEmpty then { e with left }
    else { e with left, acc := lset base l v, accP := e.accP ||| (if mark then maskOf (fun i => decide (i = l)) else 0) }
  let s1 := mapVec (fun k => { k with loads := k.loads.map (fun x => if x.seq = e.seq then e1 else x) }) s
  let s2 :=
    match (operandKeys e.f.d e.rep e.rb 0)[l]? with
    | some k => noteLanding [k] [] (fun _ => true) (writeKeys [k] [v] 1 (if mark then 1 else 0) s1)
    | none => s1
  if left = 0 then finishLoad e1 s2 else s2

/-- An abandoned load leaves the queue, and its push has no place any more; its lanes that had not arrived keep their old values
(R195). -/
def dropLoad (e : VLoad) (s : State) : State :=
  fillPushes e.seq none false (mapVec (fun v => { v with loads := v.loads.filter (fun x => decide (x.seq ≠ e.seq)) }) s)

/-- Lane `l` of a local load on its way, or for l = 64 every lane that has not arrived: what its word read at issue governs it
(R202). -/
def loadTargets (e : VLoad) (l : Nat) (s : State) : MemRes (List LaneT × Bool × Nat × State) :=
  chainTargets e.page (vecEng e.iss) e.chain e.op e.f.t.toNat .read e.ea e.idx e.en (if l < 64 then [l] else setLanes e.left) s

/-- A load lane in a strongly ordered page that was not translated at issue is performed after the accesses before it, and realigns the
queues (R301). -/
def strongLoad (e : VLoad) (ls : List LaneT) (s : State) : Bool :=
  anyStrong ls && strongHeld e.seq s

/-- Whether the element at which a write port stands lies in a strongly ordered page, and belongs to a push before `seq`: what follows it
waits for it (R301). -/
def portStrong (seq : Nat) (s : State) : Bool :=
  writePorts.any (fun n =>
    let p := vget s.vec.ports n Port.zero
    p.stop.isNone && p.entries.any (fun x => decide (x.seq < seq)) &&
      (match (portAddr p p.pos).2.1 with
       | some ea => (match xl (16 + n) false .write ea s with
         | .ok _ a => decide (a.mt = 3)
         | _ => false)
       | none => false))

/-- Whether the lanes of a load that have not arrived may lie in a page of type device: as its issue knew it while they are not all
translated (R301). -/
def loadDevice (e : VLoad) (s : State) : Bool :=
  match loadTargets e 64 s with
  | .ok (ls, false, _, _) => anyDevice ls
  | _ => e.dev

/-- A lane of a local load is performed: the answer is none while it must wait. A parked store holds back only a load from a device
page (R158, R301). -/
def arriveLocal (e : VLoad) (l : Nat) (s : State) : Option State :=
  if portStrong e.seq s then none
  else
    match loadTargets e l s with
    | .trap c v y s' => some (lateFault e.iss 4 c v y (dropLoad e s'))
    | .wait _ => none
    | .ok (ls, w, _, s') =>
      match ls with
      | [x] =>
        if w || strongLoad e ls s' || (anyDevice ls && deviceHeld e.seq s') then none
        else
          let k := Config.freeIndex s'.freeCtr
          let s1 := if e.free ∧ !e.snap.isEmpty then { s' with freeCtr := s'.freeCtr + 1 } else s'
          let v := decodeLane (attrDesc (withSnap e.page s1) x.attr) e.f.t.toNat (x.locs.map (loadByte e k s1)) x.half
          let mark := x.locs.any (fun a => poisoned s1 a 1)
          some (takeLane e l v mark (x.locs.foldl (fun y a => markSeen 4 a 1 y) (alignQueues (anyStrong ls) s1)))
      | _ => none

/-- Walks that a waiting lane joins (R158). -/
def joinLocal (e : VLoad) (l : Nat) (s : State) : State :=
  match loadTargets e l s with
  | .wait s' => s'
  | .ok (_, _, _, s') => s'
  | .trap _ _ _ _ => s

/-- The attributes that a global answer names: its first byte holds the formatted bit and the descriptor index (R156). -/
def answerAttr (bs : List Byte) : Attr := { mt := 0, fmt := tb (byteAt bs 0) 0, desc := nb (byteAt bs 0) 1 4 }

/-- A lane of a global load whose answer has come: the containers are decoded through the issuing context's descriptor, as the word
read it at issue, and the marks of its bytes come with it (R83, R156, R397). -/
def arriveGlobal (e : VLoad) (r : Resp) (l : Nat) (s : State) : State :=
  let a := answerAttr r.bs
  let body := r.bs.drop 1
  let t := e.f.t.toNat
  match shapeOf (withSnap e.page s) 0x78 t a e.ea with
  | .ok sh =>
    let p := laneAddrs sh 0 l
    takeLane e l (decodeLane (attrDesc (withSnap e.page s) a) t (p.1.map (fun w => BitVec.ofNat 8 (byteAt body w.toNat))) p.2)
      (p.1.any (fun w => r.pois.contains (w.toNat + 1))) s
  | .trap c v y _ => lateFault e.iss 4 c v y (dropLoad e s)
  | .wait _ => s

/-- The answered global load that has a lane outstanding. -/
def answered (l : Nat) (s : State) : Option (VLoad × Resp) :=
  s.vec.loads.findSome? (fun e =>
    match e.greq with
    | some g => (match g.answer with
      | some r => if r.ok && enabled e.left l then some (e, r) else none
      | none => none)
    | none => none)

/-- VECTOR_LOAD_LANE_ARRIVE: the lane of the oldest local load is performed; where it must wait, that of a global load whose
answer has come (R157, R299). -/
def execVectorLoadLaneArrive (lane : Nat) (s : State) : Host.Outcome State Fault Refusal :=
  let head := s.vec.loads.find? (fun e => !isGlobalLoad e)
  let first : Option State := match head with
    | some e => if enabled e.left lane then arriveLocal e lane s else none
    | none => none
  .next (match first with
    | some s' => s'
    | none =>
      match answered lane s with
      | some (e, r) => arriveGlobal e r lane s
      | none =>
        match head with
        | some e => if enabled e.left lane then joinLocal e lane s else s
        | none => s)

/-! ### Ports (R213 to R220) -/

/-- What an element comes to. -/
inductive PortEl where
  | wait (s : State)
  | stop (code : Nat) (tval : Word) (s : State)
  | ok (locs : List Nat) (addr : Word) (attr : Attr) (half : Nat)

/-- Bytes of an element on an unformatted page: 4 or 2 (R215). -/
def portRaw (p : Port) : Nat := if nb p.flags.toNat 1 2 = 0 then 4 else 2

/-- An element is translated and its page's rules are applied (R215, R219). -/
def portElement (n : Nat) (k : Acc) (s : State) : PortEl :=
  let p := vget s.vec.ports n Port.zero
  let a := portAddr p p.pos
  let tv := BitVec.ofNat 64 a.1
  match a.2.1 with
  | none => .stop cAccess tv s
  | some ea =>
    match xl (16 + n) false k ea s with
    | .wait s' => .wait s'
    | .deny s' => .stop cAccess tv s'
    | .ok loc attr =>
      if attr.fmt then
        let d := descOf (vget s.cell.fd attr.desc 0)
        if !d.valid then .stop cFormat tv s
        else if d.box = 8 ∧ a.2.2 ≠ 0 then .stop cMisdata tv s
        else .ok [loc] ea attr a.2.2
      else if a.1 % portRaw p ≠ 0 ∨ a.2.2 ≠ 0 then .stop cMisdata tv s
      else .ok ((upTo (portRaw p)).map (loc + ·)) ea attr 0

/-- The wide format of a packed port: BF16 or h16. -/
def portWide (p : Port) : Wide := if nb p.flags.toNat 1 2 = 1 then wBf16 else wH16

/-- The bits of a fetched element. -/
def portDecode (p : Port) (d : Option Desc) (bs : List Byte) (half : Nat) : Nat :=
  match d with
  | none => leNat bs
  | some d =>
    let v := d.dec (boxGet d (byteAt bs 0) half)
    if nb p.flags.toNat 1 2 = 0 then toF32 v else (portWide p).enc .rne v

/-- The lane and the bits within it that element `e` of a port fills. -/
def portPlace (p : Port) (e : Nat) : Nat × Nat × Nat :=
  if portPer p.flags = 64 then (e % 64, 0, 32) else (e % 128 / 2, 16 * (e % 2), 16)

/-- A lane with some of its bits replaced. -/
def putBits (v : Lane) (lo n x : Nat) : Lane :=
  BitVec.ofNat 32 (v.toNat - nb v.toNat lo n * 2 ^ lo + x % 2 ^ n * 2 ^ lo)

/-- An empty entry of a read port. -/
def PortEnt.fresh : PortEnt := { lanes := List.replicate 64 0, pois := 0, fill := 0, pending := none, seq := 0, grp := 0 }

/-- A port changed. -/
def mapPort (n : Nat) (f : Port → Port) (s : State) : State :=
  mapVec (fun v => { v with ports := vset v.ports n (f (vget v.ports n Port.zero)) }) s

/-- A fetched element enters the last entry, or a new one. -/
def portTake (x : Nat) (mark : Bool) (pend : Option Nat) (p : Port) : Port :=
  let pl := portPlace p p.pos
  let fresh := decide (p.pos % portPer p.flags = 0)
  let e := if fresh then PortEnt.fresh else (p.entries.getLast?).getD PortEnt.fresh
  let bit : BitVec 64 := maskOf (fun i => decide (i = pl.1))
  let e1 : PortEnt :=
    { e with lanes := lset e.lanes pl.1 (putBits (laneAt e.lanes pl.1) pl.2.1 pl.2.2 x), fill := e.fill ||| bit,
             pois := if mark then e.pois ||| bit else e.pois, pending := match e.pending with
               | some a => some a
               | none => pend }
  { p with entries := (if fresh then p.entries else p.entries.dropLast) ++ [e1], pos := p.pos + 1 }

/-- Whether a port may act: the streams of the cell run and no trap holds its section in the frame area, or an invocation that runs on
names it (R344). -/
def portActs (n : Nat) (p : Port) (s : State) : Bool :=
  ((cellRuns s && !s.vec.delivered) || (!s.vec.cu.stopped && s.cell.bound && !s.cell.gated && (cuPorts s).contains n)) && p.cfg && p.stop.isNone

/-- Whether a fetch from a page waits for the accesses before the word that installed the block: a fetch from a device page for those
to device pages, one from a strongly ordered page for all (R301, log 130). -/
def fetchHeld (p : Port) (a : Attr) (s : State) : Bool :=
  if a.mt = 3 then strongHeld p.num s
  else decide (a.mt = 2) && (deviceHeld p.num s || s.vec.loads.any (fun e => decide (e.seq < p.num) && loadDevice e s))

/-- PORT_ELEMENT_FETCH: a read port fetches its next element, when a place is free (R216, R219). -/
def execPortElementFetch (n : Fin 8) (s : State) : Host.Outcome State Fault Refusal :=
  let p := vget s.vec.ports n.val Port.zero
  let room := decide (p.pos % portPer p.flags ≠ 0) || decide (p.entries.length < 8)
  .next (if !portActs n.val p s || decide (6 ≤ n.val) || decide (portElems p.block ≤ p.pos) || !room then s
    else
      match portElement n.val .read s with
      | .wait s' => s'
      | .stop c v s' => mapPort n.val (fun p => { p with stop := some (c, v) }) s'
      | .ok locs _ attr half =>
        if fetchHeld p attr s then s
        else
        let x := portDecode p (attrDesc s attr) (vecBytes s locs) half
        let mark := locs.any (fun l => poisoned s l 1)
        mapPort n.val (portTake x mark (pendingHit locs s)) (locs.foldl (fun y a => markSeen 4 a 1 y) s))

/-- The bytes that a write port's element becomes (R34, R35, R217). -/
def portEncode (p : Port) (d : Option Desc) (ps7 : Word) (addr : Word) (half : Nat) (old : Byte) (x : Nat) : List Byte :=
  match d with
  | none => leBytes (portRaw p) x
  | some d =>
    let v := if nb p.flags.toNat 1 2 = 0 then f32 x else (portWide p).dec x
    leBytes 1 (boxPut d old.toNat half (d.enc (descRnd d ps7 (coordAddr addr) half) v))

/-- A write port has passed an element; an entry leaves with its last one. -/
def portPass (p : Port) : Port :=
  let e := p.pos + 1
  if e % portPer p.flags = 0 ∨ portElems p.block ≤ e then
    { p with entries := p.entries.tail, pos := e }
  else { p with pos := e }

/-- PORT_ELEMENT_WRITE: a write port writes the next element of its oldest entry, skipping disabled lanes and what lies past the
block's last element; an element in a strongly ordered page waits for every access before it, and what follows waits for it (R217,
R219, R301). -/
def execPortElementWrite (n : Fin 8) (s : State) : Host.Outcome State Fault Refusal :=
  let p := vget s.vec.ports n.val Port.zero
  .next (if !portActs n.val p s || decide (n.val < 6) then s
    else
      match p.entries with
      | [] => s
      | e :: _ =>
        let pl := portPlace p p.pos
        if !enabled e.fill pl.1 || decide (portElems p.block ≤ p.pos) then mapPort n.val portPass s
        else
          match portElement n.val .write s with
          | .wait s' => s'
          | .stop c v s' => mapPort n.val (fun p => { p with stop := some (c, v) }) s'
          | .ok locs addr attr half =>
            if decide (attr.mt = 3) && (strongHeld e.seq s || s.vec.stores.any (fun x => decide (x.seq = e.seq)) ||
                s.cell.cellStores.any (fun x => decide (x.q = 4) && decide (x.seq = e.seq))) then s
            else
            let x := nb (laneAt e.lanes pl.1).toNat pl.2.1 pl.2.2
            let old := mergeByte s [] ((locs.head?).getD 0)
            let bs := portEncode p (attrDesc s attr) (vget s.cell.ps 7 0) addr half old x
            alignQueues (decide (attr.mt = 3))
              (mapPort n.val portPass (enqueueCells e.seq e.grp (decide (attr.mt = 1)) (decide (2 ≤ attr.mt)) (locs.zip bs) s)))

/-- Bytes of the sequencer's own scratchpad view at issue: a member of a region sees the old bytes of stores that have not landed,
any other word a free choice for each aligned 4-byte lane (R187, R214). -/
def blockBytes (x : Bool) (locs : List Nat) (s : State) : List Byte × State :=
  let snap := earlySnap locs s
  if snap.isEmpty ∨ x = true then (vecBytes s locs, s)
  else
    let pick (l : Nat) : Byte :=
      let cs := snap[Config.freeIndex (s.freeCtr + l / 4 % 16) % snap.length]?.getD []
      overlay cs l (vecByte s l)
    (locs.map pick, { s with freeCtr := s.freeCtr + 16 })

/-- A port that is configured or reset has no access under way any more (R214, R219, R294). -/
def forgetPort (n : Nat) (s : State) : State :=
  dropJoins [16 + n] s

/-- The port that a word names. -/
def portNum (o : Operand) : Nat := ((portOf o).head?).getD 0

/-- What PORTCFG and PORTRST wait for: the custom unit's use of the port, and the writing of every pushed entry (R214, R219,
R339); `k` goes on. -/
def portWord (f : VWord) (k : State → State) (s : State) : State :=
  ctlWord f (fun s =>
    let n := portNum f.d
    let p := vget s.vec.ports n Port.zero
    if (cuPorts s).contains n then vStall f s
    else
      match (if 6 ≤ n then p.stop else none) with
      | some (c, v) => vTrap c v s
      | none => if decide (6 ≤ n) && (!p.entries.isEmpty || decide (pushesTo n s ≠ 0)) then vHold f .waiting .port s else k s) s

/-- PORTCFG: reads its block from the scratchpad and installs it (R213, R214). -/
def execPortcfg (f : VWord) (s : State) : Host.Outcome State Fault Refusal :=
  .next (portWord f (fun s =>
    let xa := xOf f.x f.a s
    let off := xa.toNat
    if 2 ^ 23 < off + 32 ∨ spaOk s ownPos off .read false = false then vTrap cAccess xa s
    else if off % 32 ≠ 0 then vTrap cMisdata xa s
    else if s.vec.loads.any (fun e => !isGlobalLoad e) then vStall f s
    else
      let loc := locSpad ownPos off
      if poisoned s loc 32 then
        vTrap cPoison (match f.a with
          | .xreg n => BitVec.ofNat 64 (0x10 + n.toNat)
          | _ => 0) s
      else
        let r := blockBytes f.x ((upTo 32).map (loc + ·)) s
        let q := nextSeq r.2
        let p : Port :=
          { cfg := true, block := r.1, flags := BitVec.ofNat 8 (immNat f.b), entries := [], pos := 0, taken := 0, stop := none, num := q.1 }
        vAdvance f (mapPort (portNum f.d) (fun _ => p) (forgetPort (portNum f.d) (markSeen 4 loc 32 q.2)))) s)

/-- PORTRST: the installed block again, from element 0, or an unconfigured port (R214). -/
def execPortrst (f : VWord) (s : State) : Host.Outcome State Fault Refusal :=
  .next (portWord f (fun s =>
    let q := nextSeq s
    vAdvance f (mapPort (portNum f.d) (fun p =>
      if tb (immNat f.b) 0 then Port.zero else { p with entries := [], pos := 0, taken := 0, stop := none, num := q.1 })
      (forgetPort (portNum f.d) q.2))) s)

/-! ### Custom sequences at issue (R336, R337) -/

/-- Fields of an entry of the custom opcode table (R334). -/
structure CxEntry where
  ver : Nat
  entry : Nat
  len : Nat

/-- Entry n of the table; none where it is empty. -/
def cxEntry (s : State) (n : Nat) : Option CxEntry :=
  let e := (vget s.cell.cst n 0).toNat
  if tb e 63 then some { ver := nb e 0 16, entry := nb e 32 11, len := nb e 48 11 + 1 } else none

/-- The trap of a missing image (R341). -/
def csMiss (n : Nat) (s : State) : State := vecTrap 10 cCsMiss 0 s.vec.pc (BitVec.ofNat 64 n) 0 s

/-- The invocation starts; in a rollback-capable loop its pushes keep the place of its word among those of the iteration (R258, R337,
R339). -/
def cxStart (n : BitVec 4) (f : VWord) (en : BitVec 64) (c : CxEntry) (bank : Nat × Nat) (s : State) : State :=
  let ra := readSrc f.x f.a 0 s
  let rb := readSrc f.x f.b 0 ra.2
  let keep (o : Operand) (r : Src) : Src := match o with
    | .tile _ _ _ _ _ _ => r
    | _ => Src.none
  let a := keep f.a ra.1
  let b := keep f.b rb.1
  let cu : Custom :=
    { Custom.zero with
      running := true, n, f, addr := s.vec.pc, upc := c.entry, ver := c.ver, bank := bank.1, nwords := bank.2, entry := c.entry, len := c.len, enable := en,
      h := Vector.replicate 8 (List.replicate 64 0), a := a.lanes, aPois := a.marks, b := b.lanes, bPois := b.marks,
      xs := vtab 16 (fun i => xNow f.x i s), mtop := maskTop s }
  let q := nextSeq rb.2
  let keeps := (rollLoop s).isSome && !(portOf f.d).isEmpty
  let s1 := if keeps then launch f (heldPort f.d) (pushPlace q.1 s.cell.cycle.toNat f.d) q.2 else q.2
  vAdvance f (mapVec (fun v => { v with cu, cuRb := rotBase s, cuNum := q.1, cuIter := wordIter s f.stg, cuSeq := if keeps then some q.1 else none }) s1)

/-- CXn (R336, R337). -/
def execCxn (n : BitVec 4) (f : VWord) (s : State) : Host.Outcome State Fault Refusal :=
  .next (vword f (fun s =>
    let push := portOf f.d
    if !push.isEmpty && rollBad f s then vIllegal s
    else
      let en := enableOf f s
      if en = 0 then vAdvance f s
      else
        match cxEntry s n.toNat with
        | none => vIllegal s
        | some c =>
          if !push.isEmpty && heldFull f s then vIllegal s
          else
            match imageOf s c.ver with
            | none => csMiss n.toNat s
            | some (bank, words) =>
              if words < c.entry + c.len then vIllegal s
              else
                let ka := operandKeys f.a 0 (rotBase s) 0
                let kb := operandKeys f.b 0 (rotBase s) 0
                let kd := operandKeys f.d 0 (rotBase s) 0
                if s.vec.cu.running || sbBusy (ka ++ kb ++ kd) [] s then vStall f s
                else
                  match checkFails f [(ka, BitVec.allOnes 64), (kb, BitVec.allOnes 64)] s with
                  | some k => vTrap cCheck (keyTval k) s
                  | none => cxStart n f en c (bank, words) s) s)

end Sys2Proof.Machine
end

