-- ==== Sys2Proof/Machine/FabricSource.lean ====
section
/-! DEFINITION. Request packets at their source: responses, acknowledgements, notices, retries under a budget, CANCEL and the
failure of a stream (spec/06_vector_flow.md R153, R156; spec/19_fabric.md R350, R351, R353; spec/20_prog_message.md R367). -/

namespace Sys2Proof.Machine

open Sys2Proof

/-- The global address of a packet. -/
def Packet.ea (p : Packet) : Word := BitVec.ofNat 64 (2 ^ 62 + p.id.dev % 2 ^ 14 * 2 ^ 48 + p.va % 2 ^ 48)

/-- The engine, and the unit that detects an error, of a queue: clusters, vector sequencer, copy engine, collective port. -/
def queueEng (q : Nat) : Nat := if q < 4 then q else if q < 6 then 4 else q

/-- The error source of a queue (R390). -/
def queueSource (q : Nat) : Nat := if q < 4 then 0 else if q < 6 then 1 else if q = 6 then 3 else 4

/-- An error of the fabric class at the source (R353, R390). -/
def fabricError (p : Packet) (s : State) : State :=
  (raiseError { cls := 10, src := queueSource p.id.q, addr := p.ea, info := 0, eng := queueEng p.id.q, cell := some Config.cellNo, ctx := p.ctx }
    false s).2

/-- The kept packet of an identity. -/
def keptOf (s : State) (id : PktId) : Option Packet := s.dev.kept.find? (fun p => decide (p.id = id))

/-- The source keeps a packet no longer. -/
def freePacket (id : PktId) (s : State) : State := mapDev (fun d => { d with kept := d.kept.filter (fun p => decide (p.id ≠ id)) }) s

/-- The byte count of a vector repeat has come: the next repeat's address follows (R153). -/
def countBack (id : PktId) (n : Nat) (s : State) : State :=
  let s1 := mapVec (fun v => { v with gSent := v.gSent.filter (fun g => decide (g.id ≠ id)) }) s
  if s.vec.gWait = some id then mapVec (fun v => { v with eaNext := eaPlus true v.eaNext n, gWait := none }) s1 else s1

/-- Whether an answer with a byte count agrees with the count that a later repeat has taken for the packet: the page at the destination
has one, and no other answer can come (R153, log 107). -/
def countAgrees (id : PktId) (n : Nat) (s : State) : Bool :=
  s.vec.gSent.all (fun g => decide (g.id ≠ id) || (match g.count with
    | some k => decide (k = n)
    | none => true))

/-- The trap that the answer to a vector repeat names: misaligned data or a format fault, with its TVAL; any other remote fault is an
access violation (R32, R154, R156, log 132). -/
def namedTrap (p : Packet) (r : Resp) : Nat × Word :=
  let c := byteAt r.bs 0
  if c = cMisdata then (cMisdata, p.ea) else if c = cFormat then (cFormat, BitVec.ofNat 64 (byteAt r.bs 1)) else (cAccess, p.ea)

/-- A response reaches the queue that waits for it: the held cluster, the vector load, or the job (R87, R156, R350). -/
def answerTo (p : Packet) (r : Resp) (s : State) : State :=
  let id := p.id
  let fill (g : GReq) : GReq := if g.id = id then { g with answer := some r } else g
  if id.q < 4 then { s with cl := s.cl.map (fun k => { k with greq := k.greq.map fill }) }
  else if id.q = 5 then
    let s1 := countBack id (if r.ok then r.bs.length - 1 else 256) s
    match s1.vec.loads.find? (fun e => (e.greq.map (·.id)) == some id) with
    | none => s1
    | some e =>
      if r.ok then mapVec (fun v => { v with loads := v.loads.map (fun x => if x.seq = e.seq then { x with greq := x.greq.map fill } else x) }) s1
      else
        let t := namedTrap p r
        lateFault e.iss 4 t.1 t.2 p.ea (dropLoad e s1)
  else
    mapCell (fun k => { k with jobs := k.jobs.map (fun j => { j with asks := j.asks.map (fun a =>
      if a.id = id then { a with answer := some r } else a) }) }) s

/-- Whether a request of a kind is answered with a response: loads, atomics and vector loads. -/
def isAsked (kind : Nat) : Bool := decide (kind = 0) || decide (kind = 3) || decide (kind = 4)

/-- A remote fault on a store or a VSTG drops it and is an error, and a format or alignment fault of a VSTG repeat raises its trap; one on a
job's write is the job's fault (R154, R156, R242, R281, log 132). -/
def deniedWrite (p : Packet) (r : Resp) (s : State) : State :=
  let s0 := countBack p.id 256 (fabricError p s)
  let t := namedTrap p r
  let s1 := match s.vec.gSent.find? (fun g => decide (g.id = p.id)) with
    | some g => if t.1 = cAccess then s0 else lateFault g.iss 4 t.1 t.2 p.ea s0
    | none => s0
  match s.cell.jobs.find? (fun j => j.acks.contains p.id) with
  | some j => if p.id.q = 6 then jobFault j cAccess p.ea s1 else s1
  | none => s1

/-- GLOBAL_RESPONSE_RETURN: a response with data and the places of its poisoned bytes, or a fault response of any request (R281,
R367, R397); one to a message of the collective port loses its rank (R365, R368). -/
def execGlobalResponseReturn (q dev epoch path seq : Nat) (ok : Bool) (data : Marked) (s : State) :
    Host.Outcome State Fault Refusal :=
  .next (match keptOf s { q, dev, epoch, path, seq } with
    | none => s
    | some p =>
      let r : Resp := { ok, bs := data.bytes, pois := data.pois }
      if isAsked p.kind then
        (if ok && !countAgrees p.id (data.bytes.length - 1) s then s else answerTo p r (freePacket p.id s))
      else if ok then s
      else if p.kind = 7 then freePacket p.id s
      else
        match p.cargo with
        | some g => cargoLost p.id g (freePacket p.id s)
        | none => deniedWrite p r (freePacket p.id s))

/-- PACKET_ACK_RECEIVE: the acknowledgement of a store, a CANCEL or a CLOSE; of a VSTG repeat with its byte count; of a message of
the collective port (R351, R353). -/
def execPacketAckReceive (q dev epoch path seq bytes : Nat) (s : State) : Host.Outcome State Fault Refusal :=
  let id : PktId := { q, dev, epoch, path, seq }
  .next (match keptOf s id with
    | some p =>
      if isAsked p.kind || !countAgrees p.id bytes s then s
      else
        let s1 := countBack p.id bytes (freePacket p.id s)
        match p.cargo with
        | some g => cargoAcked p.id g s1
        | none => s1
    | none => mapDev (fun d => { d with closes := d.closes.filter (fun p => decide (p.id ≠ id)) }) s)

/-! ### Retries (R353) -/

/-- A packet is sent again. -/
def resend (p : Packet) (s : State) : State := send (packetMsg p) s

/-- What the failure of a packet brings: a store, an atomic, a VSTG or a job's write is an error; a load, an atomic or a VLDG
returns a fault response; a message of the collective port loses its rank (R359). -/
def failEffect (p : Packet) (s : State) : State :=
  match p.cargo with
  | some g => cargoLost p.id g s
  | none =>
    let s1 := if decide (p.kind = 0) || decide (p.kind = 4) then s else countBack p.id 256 (fabricError p s)
    if isAsked p.kind then answerTo p (Resp.plain false []) s1 else s1

/-- The CANCEL of a packet. -/
def Packet.cancel (p : Packet) : Packet := { p with kind := 7, size := 0, data := [], mask := 0, before := [], spent := 0, cargo := none }

/-- A packet whose budget is spent fails: a CANCEL goes out in its place. -/
def failPacket (p : Packet) (s : State) : State :=
  failEffect p (resend p.cancel (mapDev (fun d =>
    { d with kept := d.kept.map (fun x => if x.id = p.id then p.cancel else x) }) s))

/-- A CANCEL whose budget is spent fails its stream: every packet not acknowledged fails, an error is recorded for the stream, and
the stream is closed. -/
def failStream (p : Packet) (s : State) : State :=
  let mine (x : Packet) : Bool := decide (x.id.q = p.id.q) && decide (x.id.dev = p.id.dev) && decide (x.id.epoch = p.id.epoch)
  let s1 := mapDev (fun d => { d with kept := d.kept.filter (fun x => !mine x) }) s
  let s2 := (s.dev.kept.filter (fun x => mine x && decide (x.kind ≠ 7))).foldl (fun st x => failEffect x st) s1
  let s3 := fabricError p s2
  match s3.dev.streams.find? (fun t => decide (t.q = p.id.q) && decide (t.dev = p.id.dev) && decide (t.epoch = p.id.epoch)) with
  | some t => closeStream t s3
  | none => s3

/-- A REROUTE or UNREACHABLE notice for a packet: it is sent again while its budget lasts. A CLOSE whose budget is spent stays
pending (R351, R353). -/
def retryPacket (q dev epoch path seq : Nat) (s : State) : State :=
  let id : PktId := { q, dev, epoch, path, seq }
  match keptOf s id with
  | some p =>
    if p.spent < budget s then
      resend p (mapDev (fun d => { d with kept := d.kept.map (fun x => if x.id = p.id then { x with spent := x.spent + 1 } else x) }) s)
    else if p.kind = 7 then failStream p s
    else failPacket p s
  | none =>
    match s.dev.closes.find? (fun p => decide (p.id = id)) with
    | none => s
    | some p =>
      if p.spent < budget s then
        resend p (mapDev (fun d => { d with closes := d.closes.map (fun x => if x.id = p.id then { x with spent := x.spent + 1 } else x) }) s)
      else s

/-- REROUTE_NOTICE (R353). -/
def execRerouteNotice (q dev epoch path seq : Nat) (s : State) : Host.Outcome State Fault Refusal :=
  .next (retryPacket q dev epoch path seq s)

/-- UNREACHABLE_NOTICE (R353). -/
def execUnreachableNotice (q dev epoch path seq : Nat) (s : State) : Host.Outcome State Fault Refusal :=
  .next (retryPacket q dev epoch path seq s)

/-- BUSY_NOTICE: the packet is sent again and no budget is spent (R351). -/
def execBusyNotice (q dev epoch path seq : Nat) (s : State) : Host.Outcome State Fault Refusal :=
  .next (match keptOf s { q, dev, epoch, path, seq } with
    | some p => resend p s
    | none => s)

end Sys2Proof.Machine
end

