-- ==== Sys2Proof/Machine/Preempt.lean ====
section
/-! DEFINITION. The end of launches, pre-emption with its save frame, launch control, and the power gating of quads
(spec/01_device.md R14, R16, R19, R22; spec/11_loops.md R262; spec/14_translation.md R295; spec/15_ordering.md R306;
spec/16_scheduling.md R319 to R324; spec/17_control_store.md R344). -/

namespace Sys2Proof.Machine

open Sys2Proof

/-! ### Retirement and the end of a launch (R14, R319, R320) -/

/-- Whether the modelled cell runs a task of a launch. -/
def runsHere (s : State) (l : Launch) : Bool := ownLaunch s l

/-- TASK_RETIRE: the task of a cell retires. In the modelled cell it waits at the HALT of c0 with its conditions met, or it has been
killed and its chunks in progress have reached their boundaries (R14). -/
def execTaskRetire (cell : Nat) (s : State) : Host.Outcome State Fault Refusal :=
  .next (if cell = Config.cellNo then
      (if s.cell.bound && ((s.cell.halting && cellRuns s && retireReady s) || (killedHere s && s.cell.jobs.isEmpty && s.cell.mends.isEmpty)) then retireTask s else s)
    else
      mapDev (fun d => { d with launches := d.launches.map (fun l =>
        if l.bound ∧ l.cells.contains cell = true then { l with retired := addSet l.retired cell } else l) }) s)

/-- Whether every store of the modelled cell is visible at system scope. -/
def storesSettled (s : State) : Bool :=
  s.cl.toList.all (fun k => k.stores.isEmpty) && s.vec.stores.isEmpty && s.vec.parked.isEmpty && s.cell.cellStores.isEmpty &&
    (upTo 8).all (packetsDone s)

/-- A status entry of 16 bytes (R320). -/
def statusBytes (l : Launch) (st : Nat) : List Byte :=
  leBytes 2 l.num ++ leBytes 1 l.q ++ leBytes 1 st ++ leBytes 4 (Nat.min l.preempts 0xFFFFFFFF) ++
    leBytes 8 (if st = 2 ∨ st = 3 then l.tcause.toNat else 0)

/-- Writes the waiting entries of a queue for which the host has made room, in order, each with its interrupt. -/
def writeStatus (q : Nat) : Nat → State → State
  | 0, s => s
  | n + 1, s =>
    let k := vget s.dev.queues q Queue.zero
    match s.dev.status.find? (fun e => decide (e.q = q)) with
    | none => s
    | some e =>
      if 256 ≤ (e.index - k.shead).toNat then s
      else
        writeStatus q n (interrupt e.vec (mapDev (fun d => { d with status := d.status.erase e })
          (homePut (locHost (k.sbase.toNat % 2 ^ 62 + 16 * (e.index.toNat % 256))) e.bytes s)))

/-- The arrival of a launch's end at its completion sync word (CSV). -/
def completionArrival (l : Launch) (st : Nat) (s : State) : State :=
  if !tb (l.byte 25) 1 then s
  else
    match launchSync s l.ctx (l.byte 26) with
    | none => noteSync l.ctx (l.byte 26) s
    | some loc =>
      let s1 := syncArrive loc 1 s
      if st = 0 then s1 else syncFlag loc true s1

/-- A launch ends: the arrival, then the status entry and the interrupt as the ring has room (R320). -/
def endLaunch (l : Launch) (s : State) : State :=
  let st := l.ending.getD 0
  let s1 := completionArrival l st s
  let k := vget s1.dev.queues l.q Queue.zero
  let e : StatusEnt := { q := l.q, bytes := statusBytes l st, index := k.ended, vec := ctxVector s1 l.ctx }
  let s2 := mapDev (fun d => { d with
    launches := d.launches.filter (fun x => decide (x.q ≠ l.q ∨ x.num ≠ l.num)),
    saved := d.saved.filter (fun x => decide (x.q ≠ l.q ∨ x.num ≠ l.num)),
    queues := vset d.queues l.q { k with ended := k.ended + 1 },
    status := d.status ++ [e] }) s1
  takeAll (writeStatus l.q s2.dev.status.length s2)

/-- Whether a launch may end: every task has retired and, in the modelled cell, its stores are visible; a launch that was never
bound ends in record order among those that failed. -/
def mayEnd (l : Launch) (s : State) : Bool :=
  if l.bound then
    l.cells.all (fun p => l.retired.contains p) && (!l.cells.contains Config.cellNo || storesSettled s)
  else
    l.ending.isSome && (match s.dev.launches.find? (fun x => decide (x.q = l.q) && !x.bound && x.ending.isSome) with
      | some x => decide (x.num = l.num)
      | none => false)

/-- Captures count a launch of their context that ends with FAULT, at the step applied then (R406). -/
def countFault (l : Launch) (s : State) : State :=
  if l.ending = some 3 then
    mapCtx l.ctx (fun c => { c with cap := { c.cap with faults := c.cap.faults ++ [c.log.applied] } }) s
  else s

/-- LAUNCH_END (R320). -/
def execLaunchEnd (q num : Nat) (s : State) : Host.Outcome State Fault Refusal :=
  .next (match launchOf s q num with
    | some l => if mayEnd l s then endLaunch l (countFault l s) else s
    | none => s)

/-- QSHEAD_WRITE: the host has read status entries; waiting ones are written (R320). -/
def execQsheadWrite (fn q v : Nat) (s : State) : Host.Outcome State Fault Refusal :=
  .next (booted s (if queueReach s fn q then
      writeStatus q s.dev.status.length (mapDev (fun d =>
        { d with queues := vset d.queues q { vget d.queues q Queue.zero with shead := BitVec.ofNat 16 v } }) s)
    else s))

/-- SYNCADD_WRITE: a host arrival on a launch sync word (R314). -/
def execSyncaddWrite (ctx index n : Nat) (s : State) : Host.Outcome State Fault Refusal :=
  .next (booted s (match launchSync s (ctx % 65536) (index % 256) with
    | some loc => syncArrive loc (n % 2 ^ 32) s
    | none => noteSync (ctx % 65536) (index % 256) s))

/-! ### Requests and withdrawals (R320, R322, R323) -/

/-- Whether a bound launch stands on a quad that still wakes, and its c0 has not issued a word: its binding is withdrawn. -/
def withdrawable (s : State) (l : Launch) : Bool :=
  l.bound && !l.started && l.cells.any (fun p => s.dev.wakingQuads.contains (p / 4))

/-- The binding is withdrawn: the launch waits again, with its place and its effective priority, and counts as never bound
(R18, R320). -/
def withdraw (l : Launch) (s : State) : State :=
  let s1 := mapLaunch l.q l.num (fun x => { x with bound := false, cells := [], req := false, everBound := false }) s
  if runsHere s l then mapCell (fun k => { k with bound := false, pReq := false, partner := false, partnerTrap := false }) s1 else s1

/-- A request to pre-empt a launch. -/
def preemptLaunch (q num : Nat) (s : State) : State :=
  match launchOf s q num with
  | none => s
  | some l => if withdrawable s l then withdraw l s else requestPreempt q num s

/-- PREEMPT_REQUEST: the firmware asks for a launch to be pre-empted (R323). -/
def execPreemptRequest (q num : Nat) (s : State) : Host.Outcome State Fault Refusal := .next (booted s (preemptLaunch q num s))

/-! ### Saving a task (R306, R323) -/

/-- Whether every engine of the modelled cell stands at a pre-emption point, with every access performed and every store visible
at device scope. -/
def savePoint (s : State) : Bool :=
  stopAsked s && s.cell.frozen.isNone &&
    s.cl.toList.all (fun k => k.loads.isEmpty && k.pend.isEmpty && k.csl.isNone && (!k.active || decide (k.gap = 0)) && k.greq.all (fun g => g.answer.isSome)) &&
    s.vec.loads.isEmpty && s.vec.flights.isEmpty && !s.vec.halting && (!s.vec.running || s.vec.halted || s.vec.trap.isSome) &&
    (!s.mat.running || s.mat.halted) && (!s.vec.cu.running || s.vec.cu.stopped) &&
    writePorts.all (fun n => let p := vget s.vec.ports n Port.zero; p.entries.isEmpty || p.stop.isSome) &&
    s.cell.jobs.all (fun j => j.puts.isEmpty && j.acks.isEmpty && decide (j.wait = 0) &&
      j.asks.all (fun a => a.answer.isSome) && (j.asks.isEmpty || parkedOn s (jobEngine j))) && storesSettled s

/-- Bytes of marks: bit i of the list is element i. -/
def markBits (n : Nat) (marks : List Nat) : List Byte :=
  (upTo (n / 8)).map (fun i => BitVec.ofNat 8 (boolsNat ((upTo 8).map (fun b => marks.contains (8 * i + b)))))

/-- A plane in a save frame. -/
def planeSave (p : Plane) : List Byte :=
  fit 81920 ((upTo 36864).flatMap (fun i => leBytes 2 (sget 0 p.elems i).toNat) ++ markBits 36864 p.marks ++ leBytes 8 p.desc.toNat)

/-- Words of 32 bits. -/
def words32 (n : Nat) (f : Nat → Nat) : List Byte := (upTo n).flatMap (fun i => leBytes 4 (f i))

/-- The parts of the save frame with their offsets. The bytes in use of the parts whose layout the spec does not give are free,
and their unused bytes are zero (log 9). -/
def saveParts (s : State) (free : Nat) : List (Nat × List Byte) :=
  let open_ (n : Nat) (k : Nat) : List Byte := (upTo n).map (fun i => (Config.freeWord (free + k + i)).setWidth 8)
  let m := s.mat
  let norm := (upTo 4096).flatMap (fun k => words32 4 (fun j =>
    (sget 0 (if j = 0 then m.sam.n else if j = 1 then m.sam.c else if j = 2 then m.sam.r else m.sam.sc) k).toNat))
  [(0x000000, (upTo 196608).flatMap (fun i => leBytes 5 (sget 0 m.acc i).toNat)),
   (0x0F0000, markBits 196608 m.accP),
   (0x0F6000, planeSave m.active), (0x10A000, planeSave m.shadow),
   (0x11E000, words32 32768 (fun i => (sget 0 s.vec.tile i).toNat)),
   (0x13E000, (upTo 49152).flatMap (fun i => leBytes 2 (sget 0 m.scale i).toNat))] ++
  (if m.sam.nv then [(0x156000, norm), (0x166000, words32 4096 (fun i => (sget 0 m.sam.al i).toNat))] else []) ++
  [(0x16A000, markBits 4096 m.sam.marks ++ open_ 512 0),
   (0x16A400, frameBytes 0 38912 s),
   (0x173C00, (open_ 50176 512).mapIdx (fun i b => if Config.saveUsed i then b else 0))]

/-- Writes the save frame of the modelled cell's task (R323). The image of a region is written when another context takes it. -/
def writeSaveFrame (l : Launch) (s : State) : State :=
  let base := saveSlot l s.cell.task s.cell.task.cellId s
  let s1 := { s with freeCtr := s.freeCtr + 50688 }
  (saveParts s s.freeCtr).foldl (fun x p => saveWrite l.ctx (base + p.1) p.2 x) s1

/-- The state kept for a pre-empted task; a segment that is open is voided (R262). The read ports fetch their queued entries again
when it resumes (R220). -/
def savedTask (l : Launch) (s : State) : Saved :=
  { q := l.q, num := l.num, cl := s.cl.map (fun k => { k with seg := k.seg.void }), cell := s.cell,
    vec := { s.vec with seg := s.vec.seg.void, ports := vtab 8 (fun n =>
      let p := vget s.vec.ports n Port.zero
      if n < 6 then p.refetch p.mark else p) },
    mat := { s.mat with seg := s.mat.seg.void }, evicted := [], spoiled := [] }

/-- A launch without the modelled cell gives up what the cell had saved of it (R19). -/
def forgetSaved (q num : Nat) (s : State) : State :=
  mapDev (fun d => { d with saved := d.saved.filter (fun x => decide (x.q ≠ q ∨ x.num ≠ num)) }) s

/-- The modelled cell is released by a pre-emption. -/
def releaseTask (l : Launch) (s : State) : State :=
  let v := savedTask l s
  let s1 := dropParked (writeSaveFrame l s)
  let s2 := mapDev (fun d => { d with saved := d.saved ++ [v] }) (forgetSaved l.q l.num s1)
  let s3 : State := { s2 with cl := Vector.replicate 4 Cluster.zero, vec := VecState.zero, mat := MatState.zero }
  mapCell (fun k => { keepCell CellState.zero k with bound := false }) s3

/-- PREEMPT_SAVE: every cell of a launch has stopped; its tasks are saved and its cells are released, once no page of the save frame is held by a capture (R323, R404). -/
def execPreemptSave (q num : Nat) (s : State) : Host.Outcome State Fault Refusal :=
  .next (match launchOf s q num with
    | none => s
    | some l =>
      if !l.bound ∨ !l.req ∨ l.ending.isSome then s
      else if runsHere s l && !savePoint s then s
      else
        let s1 := if runsHere s l then releaseTask l s else forgetSaved q num s
        unlessHeld s (mapLaunch q num (fun x =>
          { x with bound := false, req := false, everBound := true, aged := 0, preempts := x.preempts + 1, cells := [] }) s1))

/-! ### Launch control (R324) -/

/-- LCTL as a finished operation leaves it. -/
def lctlWord (q num op go : Nat) : Word := BitVec.ofNat 64 (num % 65536 * 65536 + q % 64 * 1024 + op * 2 + go)

/-- The calls that a pre-empted launch has under way take a FAULT notice when it is killed (R359). -/
def savedNotices (l : Launch) (s : State) : State :=
  match s.dev.saved.find? (fun x => decide (x.q = l.q) && decide (x.num = l.num)) with
  | some x =>
    let s1 := x.cell.colls.foldl (fun st c => endCall x.cell.task.ctx (if c.calling then { c with failed := true } else c) st) s
    (x.cell.colls.filter (·.calling)).foldl (fun st c => faultNotices (some (x.q, x.num, c.adm)) (c.ref x.cell.task.ctx) false [] st) s1
  | none => s

/-- A launch is killed: one that waits ends at once; a bound one is killed with KILLED, or with FAULT while it is frozen; a bound one whose
status is set already stops with that status, and its freeze is released. -/
def killLaunch (l : Launch) (s : State) : State :=
  if l.ending.isSome then (if l.bound ∧ runsHere s l then killCell s else s)
  else if withdrawable s l then failWaiting l 1 (savedNotices l (withdraw l s))
  else if !l.bound then failWaiting l 1 (savedNotices l s)
  else
    let frozen := runsHere s l && s.cell.frozen.isSome
    let s1 := mapLaunch l.q l.num (fun x => { x with ending := some (if frozen then 3 else 1), tcause := if frozen then (clus s 0).tcause else 0 }) s
    if runsHere s l then killCell s1 else s1

/-- The rebuild of a context that has begun ends every launch of the context, as LCTL does: step 1 of R409 names no status, and its
moment is free (log 127). -/
def endContext (ctx : Nat) (s : State) : State :=
  if (ctxOf s ctx).rebuild then (s.dev.launches.filter (fun l => decide (l.ctx = ctx))).foldl (fun x l => killLaunch l x) s else s

/-- The launch is released: it goes on, unless its record was lost. GO stays while the release waits for a translation (R324). -/
def releaseLaunch (q num : Nat) (s : State) : State :=
  let done (go : Nat) (s : State) : State := mapDev (fun d => { d with lctl := lctlWord q num 3 go }) s
  match launchOf s q num, s.cell.frozen with
  | some l, some f =>
    if runsHere s l ∧ l.ending.isNone ∧ !f.lost then
      let r := releaseCell s
      done (b2n (!r.1)) r.2
    else done 0 s
  | _, _ => done 0 s

/-- A write of LCTL by a function: its fields are stored, and GO starts the operation. A function names only its own queues, so a
write that names another is ignored; a GO that is set stays set under a write with GO = 0 (R2, R312, R324). -/
def writeLctl (fn q num op : Nat) (go : Bool) (s : State) : State :=
  if !queueReach s fn q then s
  else
    let put (go : Nat) (s : State) : State := mapDev (fun d => { d with lctl := lctlWord q num (op % 8) go }) s
    if !go then put (b2n (s.dev.lctl.getLsbD 0)) s
    else if op = 1 then
      (match launchOf s q num with
       | some l => killLaunch l (put 0 s)
       | none => put 0 s)
    else if op = 2 then preemptLaunch q num (put 0 s)
    else if op = 3 then releaseLaunch q num s
    else put 0 s

/-- LCTL_KILL (R324). -/
def execLctlKill (fn q num : Nat) (s : State) : Host.Outcome State Fault Refusal := .next (booted s (writeLctl fn q num 1 true s))

/-- LCTL_PREEMPT (R324). -/
def execLctlPreempt (fn q num : Nat) (s : State) : Host.Outcome State Fault Refusal := .next (booted s (writeLctl fn q num 2 true s))

/-- LCTL_RELEASE (R324). -/
def execLctlRelease (fn q num : Nat) (s : State) : Host.Outcome State Fault Refusal := .next (booted s (writeLctl fn q num 3 true s))

/-! ### Power gating (R22, R320) -/

/-- QUAD_GATE: a quad with no bound and no reserved cell loses power (R320). -/
def execQuadGate (quad : Nat) (s : State) : Host.Outcome State Fault Refusal :=
  .next (if 128 ≤ quad ∨ (upTo 4).any (fun c => cellTaken s (4 * quad + c)) = true ∨ s.dev.wakingQuads.contains quad = true then s
    else
      let s1 := mapDev (fun d => { d with gatedQuads := addSet d.gatedQuads quad }) s
      if quad = Config.cellNo / 4 then mapCell (fun k => { k with gated := true }) s1 else s1)

/-- QUAD_WAKE_COMPLETE: a waking quad has power (R320). -/
def execQuadWakeComplete (quad : Nat) (s : State) : Host.Outcome State Fault Refusal :=
  .next (if s.dev.wakingQuads.contains quad then
      let s1 := mapDev (fun d => { d with wakingQuads := d.wakingQuads.filter (· ≠ quad) }) s
      if quad = Config.cellNo / 4 then mapCell (fun k => { k with waking := false }) s1 else s1
    else s)

end Sys2Proof.Machine
end

