-- ==== Sys2Proof/Machine/TransEvents.lean ====
section
/-! DEFINITION. The events of translation: ends of walks, the fault queue, verdicts, invalidations, and the departure of a context
(spec/14_translation.md R286 to R294; spec/17_control_store.md R325; spec/01_device.md R20). -/

namespace Sys2Proof.Machine

open Sys2Proof

/-! ### The fault queue (R293) -/

/-- The engine of an access as TCAUSE.ENG numbers it: the fetches and the ports stand under their stream. -/
def engCode (e : Nat) : Nat :=
  let n := e % 64
  if n < 16 then n else if n < 32 then 4 else n - 32

/-- The record of a fault. -/
def faultBytes (f : PFault) : List Byte :=
  leBytes 2 f.id ++ leBytes 2 f.walk.ctx ++ leBytes 1 f.walk.kind ++ leBytes 1 (engCode f.walk.eng) ++ leBytes 2 Config.cellNo ++
    leBytes 8 f.walk.va ++ leBytes 1 f.level ++ zeros 7 ++ leBytes 4 f.walk.joined.length ++ zeros 4

/-- Whether the queue has no place for a record. -/
def faultQueueFull (s : State) : Bool := decide (s.dev.pfqTail + 1 = s.dev.pfqHead)

/-- Writes the record of a fault; a queue that was empty sends the vector of the context. -/
def writeFault (f : PFault) (s : State) : State :=
  let at_ := locHost (s.dev.pfqBase.toNat % 2 ^ 62 + 32 * s.dev.pfqTail.toNat)
  let wasEmpty := decide (s.dev.pfqTail = s.dev.pfqHead)
  let s1 := mapDev (fun d => { d with
    pfqTail := d.pfqTail + 1, faults := d.faults.map (fun g => if g.id = f.id then { g with written := true } else g) })
    (homePut at_ (faultBytes f) s)
  if wasEmpty then interruptCtx f.walk.ctx s1 else s1

/-- Writes the oldest fault that waits for room. -/
def writeWaiting (s : State) : State :=
  if faultQueueFull s then s
  else
    match s.dev.faults.find? (fun f => !f.written) with
    | some f => writeFault f s
    | none => s

/-- The next fault id that no outstanding fault holds (log 3). -/
def freeFaultId (s : State) : Nat :=
  ((upTo (s.dev.faults.length + 1)).map (fun i => (s.dev.faultCtr + i) % 65536)).find? (fun i => !s.dev.faults.any (fun f => decide (f.id = i)))
    |>.getD (s.dev.faultCtr % 65536)

/-- A walk that found V = 0 opens a fault, or joins the outstanding one of its page (R293). -/
def openFault (w : Walk) (level : Nat) (s : State) : State :=
  if s.dev.faults.any (fun f => decide (f.walk.ctx = w.ctx) && decide (f.walk.vpn = w.vpn)) then
    mapDev (fun d => { d with faults := d.faults.map (fun f =>
      if f.walk.ctx = w.ctx ∧ f.walk.vpn = w.vpn then
        { f with walk := f.walk.join w }
      else f) }) s
  else
    let id := freeFaultId s
    writeWaiting (mapDev (fun d => { d with
      faults := d.faults ++ [{ id, walk := w, level, written := false }], faultCtr := (id + 1) % 65536 }) s)

/-! ### The ends of walks (R290) -/

/-- Every joined access of the cell's context becomes a violation when it is tried again (R288, R294). -/
def denyJoined (w : Walk) (s : State) : State :=
  if w.ctx = s.cell.task.ctx then
    mapCell (fun k => { k with invalid := k.invalid ++ (w.joined.map (fun e => (e, w.vpn))).filter (fun p => !k.invalid.contains p) }) s
  else s

/-- A walk that met a malformed entry: the accesses are violations, and the walker records a translation error (R288). -/
def malformedWalk (w : Walk) (s : State) : State :=
  (raiseError { cls := 12, src := 12, addr := BitVec.ofNat 64 w.va, info := 0, eng := engCode w.eng, cell := some Config.cellNo, ctx := w.ctx } false
    (denyJoined w s)).2

/-- The end of a walk: its requesters go on, park or fault. The TLBs take no result that allows none of the requests: each of them is a
violation then; a request that a leaf taken for another does not allow finds it denied there (R286, R290). A walk that an invalidation has discarded is made again (R292). -/
def walkEnd (k : Nat) (s : State) : State :=
  match (s.dev.walks.take walkSlots)[k]? with
  | none => s
  | some w =>
    if w.stale then mapDev (fun d => { d with walks := d.walks.set k { w with stale := false } }) s
    else
      let s1 := mapDev (fun d => { d with walks := d.walks.eraseIdx k }) s
      match walkOf s w.ctx w.va with
      | .leaf big e =>
          let host := if w.ctx = s.cell.task.ctx then s.cell.task.hostAcc else tb (byteAt (ctxRecord s w.ctx) 58) 1
          let t : TlbEnt := { ctx := w.ctx, big, vpn := w.vpn, leaf := e }
          if w.want.any (wantOk e host) then tlbPut t (dieTlbPut t s1) else denyJoined w s1
      | .invalid level => openFault w level s1
      | .malformed => malformedWalk w s1

/-- WALK_COMPLETE (R290). -/
def execWalkComplete (k : Nat) (s : State) : Host.Outcome State Fault Refusal := .next (walkEnd k s)

/-- FAULT_QUEUE_ROOM: a fault that waited for room writes its record (R293). -/
def execFaultQueueRoom (s : State) : Host.Outcome State Fault Refusal := .next (writeWaiting s)

/-! ### Verdicts (R294) -/

/-- The outstanding fault that a verdict names: its record has been written. -/
def faultNamed (id : Nat) (s : State) : Option PFault := s.dev.faults.find? (fun f => decide (f.id = id) && f.written)

/-- Takes a fault away. -/
def dropFault (id : Nat) (s : State) : State := mapDev (fun d => { d with faults := d.faults.filter (fun f => decide (f.id ≠ id)) }) s

/-- RETRY: every joined access walks again, as one request for the page (R290, R294); beyond the die's queue each asks for itself when it
is tried again. -/
def retryFault (id : Nat) (s : State) : State :=
  match faultNamed id s with
  | none => s
  | some f =>
    let s1 := dropFault id s
    if f.walk.joined.isEmpty then s1 else askWalk f.walk s1

/-- INVALID: every joined access becomes a violation. -/
def invalidFault (id : Nat) (s : State) : State :=
  match faultNamed id s with
  | none => s
  | some f => denyJoined f.walk (dropFault id s)

/-- PFRES_RETRY (R294). -/
def execPfresRetry (id : Nat) (s : State) : Host.Outcome State Fault Refusal := .next (booted s (retryFault id s))

/-- PFRES_INVALID (R294). -/
def execPfresInvalid (id : Nat) (s : State) : Host.Outcome State Fault Refusal := .next (booted s (invalidFault id s))

/-! ### Invalidation (R291, R292) -/

/-- Removes the named translations and discards the walks that may have read a named entry. -/
def invalidate (hit : TlbEnt → Bool) (walk : Walk → Bool) (s : State) : State :=
  mapDev (fun d => { d with
      dieTlb := d.dieTlb.filter (fun e => !hit e), walks := d.walks.map (fun w => if walk w then { w with stale := true } else w) })
    (mapCell (fun k => { k with tlb := k.tlb.filter (fun e => !hit e) }) s)

/-- TLBINV as a request stands in it: page, context, mode, and GO. -/
def tlbInvWord (vpn ctx mode : Nat) : Word := BitVec.ofNat 64 (vpn % 2 ^ 32 * 2 ^ 32 + ctx % 2 ^ 16 * 2 ^ 16 + mode % 4 * 4 + 1)

/-- A request, which is ignored while one is in progress. -/
def startInvalidation (vpn ctx mode : Nat) (s : State) : State :=
  if s.dev.tlbInv.getLsbD 0 then s
  else
    let s1 := mapDev (fun d => { d with tlbInv := tlbInvWord vpn ctx mode }) s
    if mode = 0 then
      invalidate (fun e => decide (e.ctx = ctx) && e.covers vpn) (fun w => decide (w.ctx = ctx) && decide (w.vpn / 32 = vpn / 32)) s1
    else if mode = 1 then invalidate (fun e => decide (e.ctx = ctx)) (fun w => decide (w.ctx = ctx)) s1
    else if mode = 2 then invalidate (fun _ => true) (fun _ => true) s1
    else mapDev (fun d => { d with tlbInv := d.tlbInv &&& ~~~ 1#64 }) s1

/-- A write of TLBINV: ignored while GO reads 1; GO starts the request (R2, R292). -/
def writeTlbInv (vpn ctx mode : Nat) (go : Bool) (s : State) : State :=
  if go then startInvalidation vpn ctx mode s
  else if s.dev.tlbInv.getLsbD 0 then s
  else mapDev (fun d => { d with tlbInv := tlbInvWord vpn ctx mode - 1 }) s

/-- TLBINV_PAGE (R292). -/
def execTlbinvPage (ctx vpn : Nat) (s : State) : Host.Outcome State Fault Refusal :=
  .next (booted s (writeTlbInv (vpn % 2 ^ 32) (ctx % 2 ^ 16) 0 true s))

/-- TLBINV_CONTEXT, with the VPN that the write carries (R292). -/
def execTlbinvContext (at_ : TlbTarget) (s : State) : Host.Outcome State Fault Refusal :=
  .next (booted s (writeTlbInv (at_.vpn % 2 ^ 32) (at_.ctx % 2 ^ 16) 1 true s))

/-- TLBINV_ALL: the VPN and the context that its write puts into the register are not named, and so free; REGISTER_WRITE names
them (R292, log 9). -/
def execTlbinvAll (s : State) : Host.Outcome State Fault Refusal :=
  let p := takeFree s
  let v := (Config.freeWord p.1).toNat
  .next (booted s (writeTlbInv (nb v 32 32) (nb v 16 16) 2 true p.2))

/-- Whether every access that holds a translation has been performed, with its stores visible at device scope. -/
def translatedDone (s : State) : Bool :=
  clusters.all (fun c =>
    (clus s c).loads.all (fun e => isSpad e.loc) && (clus s c).stores.all (fun e => e.cells.all (fun x => isSpad x.1))) &&
  s.vec.flights.all (fun f => f.cells.isEmpty) && s.vec.held.all (fun h => h.fl.cells.isEmpty) &&
  s.vec.stores.all (fun e => e.cells.all (fun x => isSpad x.1)) && s.cell.cellStores.all (fun e => e.cells.all (fun x => isSpad x.1)) &&
  s.dev.walks.all (fun w => !w.stale)

/-- TLBINV_COMPLETE: GO clears once every access under a named translation has been performed (R292). -/
def execTlbinvComplete (s : State) : Host.Outcome State Fault Refusal :=
  .next (if translatedDone s then mapDev (fun d => { d with tlbInv := d.tlbInv &&& ~~~ 1#64 }) s else s)

/-! ### The departure of a context (R20, R291, R325, R356, R372, R405) -/

/-- Whether a context still has a launch or a saved task. -/
def ctxInUse (ctx : Nat) (s : State) : Bool :=
  s.dev.launches.any (fun l => decide (l.ctx = ctx)) || s.dev.saved.any (fun x => decide (x.cell.task.ctx = ctx)) ||
    (s.cell.bound && decide (s.cell.task.ctx = ctx))

/-- Everything that the device keeps for a context ends: its translations, its control-store tags, its scratchpad regions, its
registers, groups, log state and capture generation. -/
def departCtx (ctx : Nat) (s : State) : State :=
  let drop (t : Option (Nat × Nat × Nat)) : Option (Nat × Nat × Nat) := match t with
    | some (c, v, n) => if c = ctx then none else some (c, v, n)
    | none => none
  let late (h : HeldMsg) : Bool := match h.cmd with
    | .call c _ _ => decide (c = ctx)
    | .cmd _ _ _ => false
  mapDev (fun d => { d with
      pastCalls := d.pastCalls.filter (fun c => decide (c.1 ≠ ctx)), presence := d.presence.filter (fun p => decide (p.ctx ≠ ctx)), collHeld := d.collHeld.filter (fun h => !late h),
      ctxs := d.ctxs.filter (fun c => decide (c.id ≠ ctx)), dieTlb := d.dieTlb.filter (fun e => decide (e.ctx ≠ ctx)),
      walks := d.walks.filter (fun w => decide (w.ctx ≠ ctx)) })
    (mapCell (fun k => { k with
      tlb := k.tlb.filter (fun e => decide (e.ctx ≠ ctx)), csTag := k.csTag.map drop,
      spa := k.spa.filter (fun e => decide (nb e.2.toNat 16 16 ≠ ctx)) }) s)

/-- CONTEXT_DEPARTURE (R291). -/
def execContextDeparture (ctx : Nat) (s : State) : Host.Outcome State Fault Refusal :=
  .next (if ctxInUse ctx s then s else departCtx ctx s)

end Sys2Proof.Machine
end

