-- ==== Sys2Proof/Machine/Boot.lean ====
section
/-! DEFINITION. Start-up, the host's accesses through BAR2, and the registers of BAR0 (spec/00_scope.md R2, R3;
spec/10_engines.md R250; spec/14_translation.md R291, R292; spec/16_scheduling.md R312, R313, R324; spec/19_fabric.md R347;
spec/24_surviving.md R391 to R395; spec/25_links_host_boot.md R410, R414 to R420). -/

namespace Sys2Proof.Machine

open Sys2Proof

/-! ### Cold start (R418, R419) -/

/-- A start request kills every bound launch without a status entry; accesses that have started complete: the stores of the modelled cell
are performed at their homes, each queue's in order (R14, R306, R419, log 96). -/
def startKill (s : State) : State :=
  let k := if s.cell.bound then killCell s else s
  (k.cell.cellStores ++ k.cl.toList.flatMap (·.stores) ++ k.vec.stores).foldl (fun x e => taskWrite e.cells x) k

/-- What a start leaves: the agenda and the free counter of the model, what was sent, host memory, the size of BAR2, and module flash,
whose voltage table gives the rails (R417). -/
def outside (s : State) (fresh : State) : State :=
  { fresh with agenda := s.agenda, freeCtr := s.freeCtr,
               dev := { fresh.dev with mem := s.dev.mem.filter (fun c => isHost c.1), msgs := s.dev.msgs, msix := s.dev.msix,
                                       flash := s.dev.flash, rails := s.dev.flash.volts, bar2 := s.dev.bar2 } }

/-- Phase 1 reconstructs the private key from the PUF and the helper data; it stays inside the security block (R416). -/
def reconstruct (passed : Bool) (s : State) : State :=
  mapDev (fun d => { d with secret := if passed then some (secretOf d.flash.helper) else none }) s

/-- Whether the configuration record fails the start: its signature over the bytes before it, its key, or a bitmap that does not name four
cells of each die (R417). -/
def recordBad (f : Flash) : Bool :=
  decide (f.sig ≠ Config.aedkenSign (Config.recordBytes f.key f.spares f.volts f.repairs)) ||
    decide (f.key ≠ publicBytes (secretOf f.helper)) ||
    !(upTo 4).all (fun d => decide (((upTo 128).filter (fun c => f.spares.contains (128 * d + c))).length = 4))

/-- Whether the stored training record verifies: its CRC-64, and its MAC under the key that the PUF gives (R418). -/
def trainingOk (f : Flash) : Bool :=
  decide (f.training.crc = crc64 f.training.data) && decide (f.training.mac = Config.trainMac (secretOf f.helper) f.training.data)

/-- The DRAM is trained, and the record of it is written (R418). -/
def trainDram (s : State) : State :=
  let p := takeFree s
  let data := Config.trainData p.1
  mapDev (fun d => { d with flash := { d.flash with
    training := { data, crc := crc64 data, mac := Config.trainMac (secretOf d.flash.helper) data } } }) p.2

/-- The phase in which a start fails, 0 for none: an outside cause names one, and a bad configuration record fails phase 3. -/
def failPhaseOf (fail : Nat) (s : State) : Nat :=
  if recordBad s.dev.flash ∧ (fail = 0 ∨ 3 < fail) then 3 else if 8 < fail then 0 else fail

/-- Whether a start that fails in a phase, 0 for none, has passed another. -/
def passes (fail phase : Nat) : Bool := decide (fail = 0) || decide (phase < fail)

/-- A start that fails in a phase: nothing is bound, the count of failed starts rises, and at 3 the part is in safe mode. -/
def failedStart (phase : Nat) (warm : Bool) (s : State) (t : State) : State :=
  let n := Nat.min 3 (s.dev.bootFails.toNat + 1)
  mapDev (fun d => { d with bootPhase := BitVec.ofNat 8 (phase - 1), bootFails := BitVec.ofNat 4 n, bootSafe := decide (n = 3),
                            bootWarm := warm, bootReady := false }) t

/-- A cold start; `cause` is the phase that an outside cause fails, 0 for none. DRAM training writes the training record in phase 5,
and memory is zeroed in phase 7. -/
def coldStart (cause : Nat) (s0 : State) : State :=
  let s := startKill s0
  let fail := failPhaseOf cause s
  let t0 := reconstruct (passes fail 1) (outside s State.reset)
  let t := if passes fail 5 then trainDram t0 else t0
  if fail = 0 then t
  else
    failedStart fail false s (if passes fail 7 then t
      else mapDev (fun d => { d with mem := s.dev.mem, poison := s.dev.poison }) t)

/-- POWER_ON (R418). -/
def execPowerOn (failPhase : Nat) (s : State) : Host.Outcome State Fault Refusal := .next (coldStart failPhase s)

/-- BOOTCTL_COLD (R419). -/
def execBootctlCold (failPhase : Nat) (s : State) : Host.Outcome State Fault Refusal := .next (coldStart failPhase s)

/-! ### Warm start (R418) -/

/-- The pages of local DRAM that a table maps, from a level down: location and length. -/
def mappedPages (s : State) : Nat → Nat → Nat → List (Nat × Nat)
  | 0, _, _ => []
  | fuel + 1, level, table =>
    (upTo (if level = 3 then 32 else 512)).flatMap (fun i =>
      let e := BitVec.ofNat 64 (homeNat s (table + 8 * i) 8)
      let v := e.toNat
      if !tb v 0 then []
      else if level = 3 ∨ (level = 2 ∧ tb v 14) then
        (if leafBad e level || tb v 55 then [] else [(leafLoc e 0, if level = 3 then 65536 else 2097152)])
      else if ptrBad e (if level = 2 then 256 else 4096) then []
      else mappedPages s fuel (level + 1) (nb v 8 48 * 256))

/-- Every page of a context that is no longer valid is zeroed, then its root is cleared. -/
def clearStale (id : Nat) (s : State) : State :=
  if tb (byteAt (ctxRecord s id) 58) 0 ∨ ctxRoot s id = 0 then s
  else
    homePut (s.dev.ctxtBase.toNat + 256 * id) (zeros 8)
      ((mappedPages s 4 0 (ctxRoot s id)).foldl (fun x p => zeroArea p.1 p.2 x) s)

/-- A warm start keeps the DRAM of live contexts, the error banks, the severity registers, the lane swaps and ERRSEQ; a training record that
does not verify is written again by the training. Phase 7 zeroes the scratchpads and the pages of contexts that are no longer valid.
`intact` tells that nothing outside has damaged the record. -/
def warmStart (cause : Nat) (intact : Bool) (s0 : State) : State :=
  let s := startKill s0
  let fail := failPhaseOf cause s
  let t0 := reconstruct (passes fail 1) (outside s State.reset)
  let t := if passes fail 5 && !(intact && trainingOk s.dev.flash) then trainDram t0 else t0
  let keep := mapDev (fun d => { d with
    mem := s.dev.mem, poison := s.dev.poison, esev := s.dev.esev, banks := s.dev.banks, errseq := s.dev.errseq,
    spares := s.dev.spares, bootWarm := true }) t
  let clean (x : State) : State :=
    mapDev (fun d => { d with ctxtBase := 0, mem := d.mem.filter (fun c => !isSpad c.1), poison := d.poison.filter (fun l => !isSpad l) })
      ((upTo s.dev.ctxtN.toNat).foldl (fun y id => clearStale id y) (mapDev (fun d => { d with ctxtBase := s.dev.ctxtBase }) x))
  if fail = 0 then clean keep
  else failedStart fail true s (if passes fail 7 then clean keep else keep)

/-- BOOTCTL_WARM (R418, R419). -/
def execBootctlWarm (failPhase : Nat) (recordVerifies : Bool) (s : State) : Host.Outcome State Fault Refusal :=
  .next (warmStart failPhase recordVerifies s)

/-! ### Adaptive loops (R420, R22) -/

/-- VOLTAGE_STEP: a quad's rail moves by 5 mV within 420 to 550 mV. -/
def execVoltageStep (quad : Nat) (up : Bool) (s : State) : Host.Outcome State Fault Refusal :=
  let v := sget 420 s.dev.rails quad
  .next (if 128 ≤ quad then s
    else mapDev (fun d => { d with rails := sset 420 d.rails quad (if up then Nat.min 550 (v + 5) else Nat.max 420 (v - 5)) }) s)

/-- CLOCK_STRETCH: a stretched cycle counts once, and nothing that a program sees changes. -/
def execClockStretch (s : State) : Host.Outcome State Fault Refusal := .next s

/-! ### BAR2 (R415, R404) -/

/-- The host gives BAR2 a size of 1 GiB to 1 TiB, as a power of two (R415). -/
def resizeBar (bits : Nat) (s : State) : State := mapDev (fun d => { d with bar2 := Nat.max 30 (Nat.min 40 bits) }) s

/-- HOST_BAR2_ACCESS: the host reads or writes device DRAM by physical address from 0; beyond the size of BAR2 an access does not reach the
device, and above 768 GiB there is no DRAM. A read's bytes go back to the host. A write waits while the capture of its page is under way. -/
def execHostBar2Access (write : Bool) (addr : Nat) (data : List (BitVec 8)) (s : State) : Host.Outcome State Fault Refusal :=
  if 2 ^ s.dev.bar2 < addr + data.length ∨ 2 ^ s.dev.bar2 ≤ addr then .next s
  else if dramBytes < addr + data.length ∨ dramBytes ≤ addr then .fault .barHole
  else
    .next (if !s.dev.bootReady then s
      else if write then
        (if (cellsAt addr data).any (fun c => captureHolds s c.1) then claimPages ((cellsAt addr data).map (·.1)) s else homePut addr data s)
      else send { vc := 9, kind := 0, dst := 0, args := [addr], data := homeBytes s addr data.length } s)

/-! ### Registers of BAR0 (R2, R3, R410) -/

/-- A write of a register of a launch queue. Setting EN counts records and ended launches from 0 again. The address registers are
aligned by the bits that they do not hold: those below the alignment read as zero (log 103). -/
def writeQueue (fn q off : Nat) (v : Word) (s : State) : State :=
  let k := vget s.dev.queues q Queue.zero
  let put (k : Queue) : State := mapDev (fun d => { d with queues := vset d.queues q k }) s
  if !queueReach s fn q then s
  else if off = 0x00 then
    let owner := if fn = 0 then nb v.toNat 8 5 else nb k.ctl.toNat 8 5
    let k1 := { k with ctl := BitVec.ofNat 64 (owner * 256 + v.toNat % 4) }
    put (if v.getLsbD 0 && !k.ctl.getLsbD 0 then { k1 with tail := 0, head := 0, posters := [], ended := 0 } else k1)
  else if off = 0x18 then put { k with sbase := v &&& ~~~ 0xFFF#64 }
  else if off = 0x20 then put { k with ovf := k.ovf && !v.getLsbD 32 }
  else s

/-- A write in the dispatch block. -/
def writeDispatch (fn off : Nat) (v : Word) (s : State) : State :=
  if off < 0x1000 then writeQueue fn (off / 64) (off % 64) v s
  else if off = 0x1000 then
    writeLctl fn (nb v.toNat 10 6) (nb v.toNat 16 16) (nb v.toNat 1 3) (v.getLsbD 0) s
  else if fn ≠ 0 then s
  else if off = 0x1008 then mapDev (fun d => { d with ctxtBase := v &&& ~~~ 0xFFFF#64 }) s
  else if off = 0x1010 then mapDev (fun d => { d with ctxtN := BitVec.ofNat 64 (Nat.min 4096 v.toNat) }) s
  else s

/-- A write in the translation block. PFQHEAD holds an index of 0 to 4,095, and R291 reserves no bit of it: a write keeps its low 12 bits
(DESIGN CHOICE, log 103). -/
def writeTranslation (off : Nat) (v : Word) (s : State) : State :=
  if off = 0x00 then
    writeTlbInv (nb v.toNat 32 32) (nb v.toNat 16 16) (nb v.toNat 2 2) (v.getLsbD 0) s
  else if off = 0x08 then mapDev (fun d => { d with pfqBase := v &&& ~~~ 0xFFF#64 }) s
  else if off = 0x10 then mapDev (fun d => { d with pfqHead := BitVec.ofNat 12 v.toNat }) s
  else s

/-- A write in the fabric block. -/
def writeFabric (off : Nat) (v : Word) (s : State) : State :=
  if off = 0x00 then mapDev (fun d => { d with frtBase := v &&& ~~~ 0x1FFFF#64 }) s
  else if off = 0x20 then mapDev (fun d => { d with fbudget := BitVec.ofNat 4 v.toNat }) s
  else if off = 0x28 then mapDev (fun d => { d with fdevid := BitVec.ofNat 14 v.toNat }) s
  else s

/-- A write in the error block. -/
def writeError (off : Nat) (v : Word) (s : State) : State :=
  if off < 0x80 then mapDev (fun d => { d with esev := vset d.esev (off / 8) (esevWrite (vget d.esev (off / 8) 0) v) }) s
  else if off = 0x400 then mapDev (fun d => { d with errvec := BitVec.ofNat 11 v.toNat }) s
  else s

/-- A write in the link block. Clearing EN takes the port down. -/
def writeLink (p off : Nat) (v : Word) (s : State) : State :=
  if off = 0x00 then
    let s1 := mapLink p (fun k => { k with linkId := BitVec.ofNat 32 (nb v.toNat 32 32), enc := v.getLsbD 3, en := v.getLsbD 0 }) s
    if v.getLsbD 0 ∨ !(linkAt s p).up then s1
    else mapLink p LinkPort.fallen (portDown p s1)
  else if off = 0x08 then mapLink p (fun k => { k with lim := v }) s
  else s

/-- REGISTER_WRITE: a function writes a register of BAR0 that has no event of its own; what has one (a doorbell, GO, a clear, a
switch, a start) is written by that event. A virtual function has the dispatch block only; in safe mode, and before phase 8, only
the identity block answers (R2, R3, R410, R419). -/
def execRegisterWrite (fn off : Nat) (v : BitVec 64) (s : State) : Host.Outcome State Fault Refusal :=
  .next (if !s.dev.bootReady ∨ 16 < fn then s
    else if off / 0x100000 = 1 then writeDispatch fn (off % 0x100000) v s
    else if fn ≠ 0 then s
    else if off / 0x100000 = 2 then writeTranslation (off % 0x100000) v s
    else if off / 0x100000 = 3 then writeFabric (off % 0x100000) v s
    else if off / 0x100000 = 4 then writeError (off % 0x100000) v s
    else if off / 0x100000 = 5 ∧ off % 0x100000 < 0x600 then writeLink (off % 0x100000 / 64) (off % 64) v s
    else s)

/-! ### What the host reads (R2, R250, R312, R347, R395, R414, R416, R419) -/

/-- The value that the host reads at an offset of the dispatch block. -/
def readDispatch (s : State) (fn off : Nat) : Word :=
  let d := s.dev
  let seen (c : Nat) : Bool := decide (fn = 0) || decide (byteAt (ctxRecord s c) 59 = fn)
  if off < 0x1000 then
    let q := off / 64
    let k := vget d.queues q Queue.zero
    if !queueReach s fn q then 0
    else if off % 64 = 0x00 then k.ctl
    else if off % 64 = 0x08 then k.tail.setWidth 64
    else if off % 64 = 0x10 then k.head.setWidth 64
    else if off % 64 = 0x18 then k.sbase
    else if off % 64 = 0x20 then
      BitVec.ofNat 64 (k.matched.toNat + k.missed.toNat * 65536 + b2n k.ovf * 2 ^ 32 + b2n (statusWaits s q) * 2 ^ 33)
    else if off % 64 = 0x28 then k.shead.setWidth 64
    else 0
  else if off = 0x1000 then (if queueReach s fn (nb d.lctl.toNat 10 6) then d.lctl else 0)
  else if off = 0x1008 then (if fn = 0 then d.ctxtBase else 0)
  else if off = 0x1010 then (if fn = 0 then d.ctxtN else 0)
  else if 0x10000 ≤ off ∧ off < 0x11000 then
    let v := sget 0 d.cfrz ((off - 0x10000) / 8)
    if seen (nb v.toNat 16 16) then v else 0
  else if 0x20000 ≤ off ∧ off < 0x40000 then
    (if queueReach s fn ((off - 0x20000) / 0x800) then
       BitVec.ofNat 64 (leNat ((upTo 8).map (fun i => sget 0 d.slots (off - 0x20000 + i))))
     else 0)
  else if 0x40000 + 0x200 * Config.cellNo ≤ off ∧ off < 0x40000 + 0x200 * Config.cellNo + 0x200 ∧ seen s.cell.task.ctx = true then
    BitVec.ofNat 64 (leAt (keptRecord s) (off % 0x200) 8)
  else 0

/-- The value that the host reads at an aligned offset of BAR0. -/
def bar0Read (s : State) (fn off : Nat) : Word :=
  let d := s.dev
  let o := off % 0x100000
  let block := off / 0x100000
  if block = 0 ∧ fn = 0 then
    (if o = 0x00 then BitVec.ofNat 64 (0x9072 + Config.stepping.toNat * 65536)
     else if o = 0x08 then
       BitVec.ofNat 64 (d.bootPhase.toNat * 256 + d.bootFails.toNat * 16 + b2n d.bootSafe * 4 + b2n d.bootWarm * 2 + b2n d.bootReady)
     else if 0x100 ≤ o ∧ o < 0x188 then
       (match d.secret with
        | some k => BitVec.ofNat 64 (leAt (publicBytes k) (o - 0x100) 8)
        | none => 0)
     else 0)
  else if !d.bootReady then 0
  else if block = 1 then readDispatch s fn o
  else if fn ≠ 0 then 0
  else if block = 2 then
    (if o = 0x00 then d.tlbInv else if o = 0x08 then d.pfqBase else if o = 0x10 then d.pfqHead.setWidth 64
     else if o = 0x18 then d.pfqTail.setWidth 64 else 0)
  else if block = 3 then
    (if o = 0x00 then d.frtBase else if o = 0x08 then BitVec.ofNat 64 (b2n d.frtLoad.isSome) else if o = 0x10 then d.linkUp.setWidth 64 else if o = 0x20 then d.fbudget.setWidth 64
     else if o = 0x28 then d.fdevid.setWidth 64 else 0)
  else if block = 4 then
    (if o < 0x80 then vget d.esev (o / 8) 0
     else if o < 0x400 then bankReg (vget d.banks ((o / 8 - 16) / 7) Bank.zero) ((o / 8 - 16) % 7)
     else if o = 0x400 then d.errvec.setWidth 64 else if o = 0x408 then d.errseq else 0)
  else if block = 5 ∧ o < 0x600 then
    let k := linkAt s (o / 64)
    (if o % 64 = 0x00 then
       BitVec.ofNat 64 (k.linkId.toNat * 2 ^ 32 + b2n k.enc * 8 + b2n k.switch * 4 + b2n k.slot * 2 + b2n k.en)
     else if o % 64 = 0x08 then k.lim
     else if o % 64 = 0x10 then BitVec.ofNat 64 (b2n k.keyB.isSome * 4 + b2n k.keyA.isSome * 2 + b2n k.up)
     else 0)
  else 0

end Sys2Proof.Machine
end

