-- ==== Sys2Proof/Machine/Capture.lean ====
section
/-! DEFINITION. Capture generations, page captures, the sweep, and DIGEST (spec/24_surviving.md R401 to R408). -/

namespace Sys2Proof.Machine

open Sys2Proof

/-- A change of the capture state of a context. -/
def mapCap (ctx : Nat) (f : Cap → Cap) (s : State) : State := mapCtx ctx (fun c => { c with cap := f c.cap }) s

/-- Capture state of a context. -/
def capOf (s : State) (ctx : Nat) : Cap := (ctxOf s ctx).cap

/-! ### Placement (R401) -/

/-- The capture destination of a context's record. -/
def capDest (s : State) (ctx : Nat) : Word := BitVec.ofNat 64 (leAt (ctxRecord s ctx) 104 8)

/-- Whether the placement of a context is valid and names a range. -/
def capPlaced (s : State) (ctx : Nat) : Bool :=
  let r := ctxRecord s ctx
  let dest := leAt r 104 8
  let area := leAt r 112 8
  let p := leAt r 100 4
  decide (p ≠ 0) && decide (leAt r 96 4 * 65536 + p * 65536 ≤ 2 ^ 48) && decide (nb dest 62 2 < 2) && decide (dest % 65536 = 0) &&
    decide (area % 4096 = 0) && decide (area + 8 * (p + p / 15 + 2) ≤ dramBytes) && zeroAt r 124 4

/-- The byte address of a page image, or of the header (image 0), in a slot of the destination (R401). -/
def capAddr (s : State) (ctx gen image : Nat) : Word :=
  let p := (capRange s ctx).2
  capDest s ctx + BitVec.ofNat 64 (gen % 2 * 65536 * (p + 1) + 65536 * image)

/-- Writes bytes to the capture destination: at a host bus address, or on VC 4 to a buddy device. -/
def capWrite (ctx : Nat) (a : Word) (bs : List Byte) (s : State) : State :=
  if nb a.toNat 62 2 = 0 then homePut (locHost (nb a.toNat 0 62)) bs s
  else send { vc := 4, kind := 0, dst := nb a.toNat 48 14, args := [ctx, nb a.toNat 0 48], data := bs } s

/-- The header of the running generation (R405). -/
def capHeader (c : Cap) (complete : Bool) : List Byte :=
  fit 65536 (leBytes 8 c.gen.toNat ++ leBytes 8 c.step.toNat ++ leBytes 8 c.pagesDone ++ leBytes 8 c.root.toNat ++
    leBytes 8 c.poisoned ++ leBytes 1 (b2n complete))

/-- Writes the header of the running generation. -/
def writeHeader (ctx : Nat) (complete : Bool) (s : State) : State :=
  let c := capOf s ctx
  capWrite ctx (capAddr s ctx c.gen.toNat 0) (capHeader c complete) s

/-! ### CAPT (R403) -/

/-- The digest root of a context's range. -/
def digestRoot (s : State) (ctx : Nat) : Word :=
  let p := (capRange s ctx).2
  if p = 0 then 0 else digestNode s ctx (digestTop 10 p 1) 0

/-- Starts a generation. -/
def startGeneration (ctx : Nat) (s : State) : State :=
  let r := capRange s ctx
  let root := digestRoot s ctx
  writeHeader ctx false (mapCap ctx (fun c =>
    { c with gen := c.gen + 1, fail := false, step := BitVec.ofNat 40 (logOf s ctx).applied, act := true, base := r.1, pages := r.2,
             dest := capDest s ctx, busy := [], bad := [], asked := [], pagesDone := 0, poisoned := 0, root }) s)

/-- Whether an MSUPD of the bound task's context is unfinished on the device: in the cell or in a pre-empted task (R403). -/
def mendsOpen (s : State) : Bool :=
  !s.cell.mends.isEmpty || (suspended s).any (fun v => decide (v.cell.task.ctx = s.cell.task.ctx) && !v.cell.mends.isEmpty)

/-- CAPT.S d (R403). -/
def execCaptS (_y : Bool) (w : BitVec 2) (d : BitVec 5) (s : State) : Host.Outcome State Fault Refusal :=
  .next (reeve [] [d] (fun s =>
    let ctx := s.cell.task.ctx
    let say (v : Word) (s : State) : State := putResult 2 d v (advance w s)
    if !capPlaced s ctx then say 1 s
    else if (capOf s ctx).act then say 2 s
    else if mendsOpen s then say 3 s
    else say 0 (startGeneration ctx s)) s)

/-- Whether an address of a sync word of CAPT.W has a bit set above bit 22 (R403). -/
def capSyncBad (a : Word) : Bool := decide (2 ^ 23 ≤ a.toNat)

/-- CAPT.W d, a (R403). -/
def execCaptW (_y : Bool) (w : BitVec 2) (d a : BitVec 5) (s : State) : Host.Outcome State Fault Refusal :=
  .next (reeve [a] [d] (fun s =>
    let ctx := s.cell.task.ctx
    let v := rd s a
    let run (sync : Option Nat) (s : State) : State :=
      let say (v : Word) (s : State) : State := putResult 2 d v (advance w s)
      let c := capOf s ctx
      if !capPlaced s ctx then say 1 s
      else if !c.act then say 5 s
      else if c.sweep.isSome then say 6 s
      else say 0 (mapCap ctx (fun c => { c with sweep := some sync, bad := [] }) s)
    if a = 0 then run none s
    else if capSyncBad v then trapHere cAccess v s
    else
      match syncAt .write v s with
      | .access => trapHere cAccess v s
      | .misaligned => trapHere cMisdata v s
      | .ok loc => run (some loc) s) s)

/-! ### Page captures (R404) -/

/-- The pages of the range that one leaf holds, with page `p` among them. -/
def leafPages (s : State) (ctx p : Nat) (big : Bool) : List Nat :=
  let r := capRange s ctx
  let group (q : Nat) : Nat := (r.1 + 65536 * q) / 2 ^ 21
  if big then (upTo r.2).filter (fun q => decide (group q = group p)) else [p]

/-- The sectors of a page that carry poison. -/
def poisonSectors (s : State) (l : Nat) : Nat := ((upTo 2048).filter (fun i => poisoned s (l + 32 * i) 32)).length

/-- The page that the sweep of a context has come to: the lowest one still to be captured (R405). -/
def sweepPage (s : State) (ctx : Nat) : Option Nat :=
  let c := capOf s ctx
  if c.sweep.isNone then none
  else
    (upTo (capRange s ctx).2).find? (fun p =>
      match rangeLeaf s ctx p with
      | none => false
      | some (_, _, e) => uncaptured c e && !c.bad.contains p && !c.busy.contains p)

/-- PAGE_CAPTURE: a page that a read or a held write has claimed, or that the sweep has come to, is copied to its image, as an engine of
the die sees it (R296, R404, R405). An access of another cell, which the model does not hold, may claim one too (log 14). -/
def execPageCapture (ctx : Nat) (claim : CaptureClaim) (s : State) : Host.Outcome State Fault Refusal :=
  let page := claim.page
  let c := capOf s ctx
  .next (match rangeLeaf s ctx page with
    | none => s
    | some (_, big, e) =>
      let ps := leafPages s ctx page big
      if !c.act ∨ (capRange s ctx).2 ≤ page ∨ !uncaptured c e ∨ ps.any c.busy.contains ∨ ps.any c.bad.contains ∨
          !ps.any (fun p => claim.other || c.asked.contains p || decide (sweepPage s ctx = some p)) then s
      else
        let loc (p : Nat) : Nat := leafLoc e ((capRange s ctx).1 + 65536 * p)
        let sectors := (ps.map (fun p => poisonSectors s (loc p))).foldl (· + ·) 0
        let s1 := ps.foldl (fun x p => capWrite ctx (capAddr s ctx c.gen.toNat (1 + p)) ((upTo 65536).map (fun i => dieByte s (loc p + i))) x) s
        mapCap ctx (fun k => { k with busy := k.busy ++ ps, asked := k.asked.filter (fun p => !ps.contains p), poisoned := k.poisoned + sectors }) s1)

/-- CAPTURE_COMPLETE: every write is acknowledged and PTE.G flips; or one has failed, which is an error and sets FAIL (R404). -/
def execCaptureComplete (ctx page : Nat) (ok : Bool) (s : State) : Host.Outcome State Fault Refusal :=
  let c := capOf s ctx
  .next (match rangeLeaf s ctx page with
    | none => s
    | some (a, big, e) =>
      let ps := leafPages s ctx page big
      if !c.busy.contains page then s
      else if ok then
        mapCap ctx (fun k => { k with busy := k.busy.filter (fun p => !ps.contains p), pagesDone := k.pagesDone + ps.length })
          (homePut a (leBytes 8 (e ^^^ 0x800#64).toNat) s)
      else
        let err : Err := { cls := 13, src := 7, addr := BitVec.ofNat 64 a, info := 0, eng := 0, cell := none, ctx }
        (raiseError err false (mapCap ctx (fun k =>
          { k with busy := k.busy.filter (fun p => !ps.contains p), bad := k.bad ++ ps, fail := true }) s)).2)

/-- Whether the sweep has passed the whole range: every leaf to be captured has been, or has failed (R405). -/
def sweepDone (s : State) (ctx : Nat) : Bool :=
  let c := capOf s ctx
  (upTo (capRange s ctx).2).all (fun p =>
    match rangeLeaf s ctx p with
    | none => true
    | some (_, _, e) => !uncaptured c e || (c.bad.contains p && !c.busy.contains p))

/-- SWEEP_END: the header completes the generation, or SW.FLT tells that it cannot be completed (R405). -/
def execSweepEnd (ctx : Nat) (s : State) : Host.Outcome State Fault Refusal :=
  let c := capOf s ctx
  .next (match c.sweep with
    | none => s
    | some sync =>
      if !sweepDone s ctx then s
      else
        let s1 := mapCap ctx (fun k => { k with sweep := none }) s
        if c.fail then
          (match sync with
           | none => s1
           | some loc => syncFlag loc true s1)
        else
          let s2 := mapCap ctx (fun k => { k with act := false }) (writeHeader ctx true s1)
          match sync with
          | none => s2
          | some loc => syncArrive loc 1 s2)

/-! ### DIGEST (R408) -/

/-- The nodes of the tree below and at a node, each after those below it. -/
def digestBelow (p l j : Nat) : List (Nat × Nat) :=
  (upTo (l + 1)).flatMap (fun k =>
    ((upTo (16 ^ (l - k))).map (fun i => (k, 16 ^ (l - k) * j + i))).filter (fun n => decide (n.2 < digestCount p n.1)))

/-- The device keeps a node and those below it in the digest area of the context's record, as computed now; which of the area's words
holds a node is a free value (R401, R407, log 40). -/
def keepDigest (ctx l j : Nat) (s : State) : State :=
  let p := (capRange s ctx).2
  if !capPlaced s ctx then s
  else
    (digestBelow p l j).foldl (fun x n =>
      homePut (leAt (ctxRecord s ctx) 112 8 + 8 * (Config.digestPlace p n.1 n.2 % (p + p / 15 + 2)))
        (leBytes 8 (digestNode s ctx n.1 n.2).toNat) x) s

/-- DIGEST d, a, #l: node a of a level (R408). -/
def execDigest (_y : Bool) (w : BitVec 2) (d a : BitVec 5) (l : BitVec 4) (s : State) : Host.Outcome State Fault Refusal :=
  .next (reeve [a] [d] (fun s =>
    let ctx := s.cell.task.ctx
    let j := (rd s a).toNat
    if digestCount (capRange s ctx).2 l.toNat ≤ j then putResult 2 d 0 (advance w s)
    else putResult 2 d (digestNode s ctx l.toNat j) (keepDigest ctx l.toNat j (advance w s))) s)

/-- DIGEST.N d, #l: the number of nodes of a level (R408). -/
def execDigestN (_y : Bool) (w : BitVec 2) (d : BitVec 5) (l : BitVec 4) (s : State) : Host.Outcome State Fault Refusal :=
  .next (writeWord 2 w d [] (fun s => BitVec.ofNat 64 (digestCount (capRange s s.cell.task.ctx).2 l.toNat)) s)

end Sys2Proof.Machine
end

