-- ==== Sys2Proof/Machine/Fetch.lean ====
section
/-! DEFINITION. Fetching the words of the streams, and the state in which a fetched word runs (spec/03_streams.md R47, R48, R53;
spec/04_reeve.md R109; spec/08_latency.md R195). -/

namespace Sys2Proof.Machine

open Sys2Proof

/-- What a cluster presents at its issue point: a word, or the state after a hold or a trap of its fetch. -/
inductive Presented where
  | word (w : Nat)
  | other (s : State)

/-- Fetches the word at a cluster's program counter (R47, R48, R109). A word that has sent a global request is held as it was read: no
later change of its bytes or of its page makes it another (R87, R367). -/
def fetchReeve (c : Fin 4) (s : State) : Presented :=
  let k := clus s c
  match k.gHeld with
  | some (_, w) => .word w
  | none =>
  if k.pc.toNat % 4 ≠ 0 then .other (takeTrap c cMisfetch 0 k.pc (k.pc.setWidth 64) s)
  else
    match fetchBytes (32 + c.val) k.sup k.pc 4 s with
    | .ok bs _ _ => .word (leNat bs)
    | .wait s' => .other (holdMiss (32 + c.val) s')
    | .deny _ s' => .other (takeTrap c cFetch 0 k.pc (k.pc.setWidth 64) s')

/-- The state in which a cluster's word runs: a held word that has sent a global request reads the g registers as it read them
then (R367). -/
def wordState (c : Fin 4) (w : Nat) (s : State) : State :=
  { s with cur := c, word := w, held := false, trapped := false, gSnap := (clus s c).gHeld.map (·.1) }

/-- The marks of a run are taken away after it. -/
def endRun (s : State) : State := { s with gSnap := none, held := false, trapped := false }

/-- The word at the vector PC, when it can be fetched. -/
def vecWordAt (s : State) : Option Nat :=
  match fetchBytes 36 false s.vec.pc 12 s with
  | .ok bs _ _ => some (leNat bs)
  | _ => none

/-- The word at the matrix PC, when it can be fetched. -/
def matWordAt (s : State) : Option Nat :=
  match fetchBytes 37 false s.mat.pc 24 s with
  | .ok bs _ _ => some (leNat bs)
  | _ => none

end Sys2Proof.Machine
end

