-- ==== Sys2Proof/Machine/MatWords.lean ====
section
/-! DEFINITION. The words of the matrix stream and the two events of its work (spec/03_streams.md R66, R67; spec/07_matrix.md
R167 to R183; spec/10_engines.md R225, R245, R246; spec/11_loops.md R262, R263; spec/12_sampled.md R269 to R277). -/

namespace Sys2Proof.Machine

open Sys2Proof

/-! ### The frame of a matrix word -/

/-- The word waits. -/
def mHold (w : WaitKind) (s : State) : State := { mapMat (fun m => { m with stat := .waiting, wait := w }) s with held := true }

/-- The word issues and holds the issue stage for `occ` cycles (R168, R262). -/
def mIssueFed (feed : Bool) (occ : Nat) (s : State) : State :=
  let bytes := leBytes 24 s.word
  mapMat (fun m =>
    let g := m.seg
    { m with stat := .issuing, wait := .none,
             seg := if g.opened then { g with count := g.count + BitVec.ofNat 32 occ, crc := if feed then crc32Feed g.crc bytes else g.crc }
                    else g }) s

/-- The word issues. -/
def mIssue (occ : Nat) (s : State) : State := mIssueFed true occ s

/-- The matrix PC takes a value. -/
def mJump (pc : BitVec 48) (s : State) : State := mapMat (fun m => { m with pc }) s

/-- The word issues and the next one follows. -/
def mAdvance (s : State) : State := mJump (s.mat.pc + 24) (mIssue 1 s)

/-- A word whose effect waits until the work of every earlier word is done (R167). -/
def mword (body : State → State) (s : State) : State := if s.mat.work.isSome then mHold .scoreboard s else body s

/-! ### Words with work -/

/-- The descriptor index that a word's operand A names: for a word that samples, that of the operand record (R161, R266). -/
def fdOfA (op : Nat) (f : MWord) (s : State) : Nat :=
  if op = 0x1A ∨ ((op = 0x11 ∨ op = 0x17) ∧ f.rb.toNat / 4 = 3) then s.mat.sam.codeA.toNat % 16 else f.fda.toNat

/-- The descriptor index of operand B: for MLOADW, that of the source's page (R171). -/
def fdOfB (op : Nat) (f : MWord) (s : State) : Nat :=
  if op = 0x1A ∨ ((op = 0x11 ∨ op = 0x17) ∧ f.rb.toNat / 4 = 3) then s.mat.sam.codeB.toNat % 16
  else if op = 0x10 then
    let a := match auxAt f.aux with
      | .addr a => a
      | _ => ringHead s f.ra.toNat 64 0
    (spaAttr s ownPos a).desc
  else f.fdb.toNat

/-- The descriptor index of a word's drain destination: the drain on end takes its template's (R181). -/
def fdOfD (op : Nat) (f : MWord) (s : State) : Nat := if op = 0x13 then f.fda.toNat else (s.mat.template.map (·.fda.toNat)).getD 0

/-- The work of a word, with the registers and entries that it reads at issue (R161, R171, R172, R186, R202). -/
def workOf (op : Nat) (f : MWord) (s : State) : MWork :=
  { op, f, pc := s.mat.pc, begun := false, idx := [0, 0, 0, 0, 0, 0], row := 0, aRows := [], bRows := [], ks := [], draws := [], before := SampRegs.zero, drain := false,
    pops := 0, popping := false, key := vget s.cell.ps (nb f.prt.toNat 5 3) 0, key7 := vget s.cell.ps 7 0,
    sigma := vget s.cell.sg (nb f.prt.toNat 2 2) 0, fdA := vget s.cell.fd (fdOfA op f s) 0, fdB := vget s.cell.fd (fdOfB op f s) 0,
    fdD := vget s.cell.fd (fdOfD op f s) 0, snap := snapOf s, pageA := false, pageB := false, pageD := false, nDiv := 0 }

/-- A word that waited on a ring when a stop came issues again: it goes on with what it had taken from its rings and given to them (R163,
R184, log 119). -/
def workAgain (w : MWork) (kept : Option MWork) : MWork :=
  match kept with
  | some k =>
    if k.pc = w.pc ∧ k.op = w.op ∧ k.f = w.f then
      { w with idx := k.idx, row := k.row, aRows := k.aRows, bRows := k.bRows, ks := k.ks, draws := k.draws, drain := k.drain, pops := k.pops,
               popping := k.popping, nDiv := k.nDiv }
    else w
  | none => w

/-- A word with work issues, and the first piece of its work is done: its checks. A word that faults has
no effect (R167, R168, R185). -/
def workWord (op occ : Nat) (f : MWord) (s : State) : State :=
  mword (fun s =>
    let t := matStep (mapMat (fun m => { m with work := some (workAgain (workOf op f s) s.mat.kept), kept := none }) (mJump (s.mat.pc + 24) (mIssue occ s)))
    if t.cell.frozen.isSome then mapMat (fun m => { m with seg := s.mat.seg }) t else t) s

/-- MLOADW (R171 to R173). -/
def execMloadw (f : MWord) (s : State) : Host.Outcome State Fault Refusal := .next (workWord 0x10 (f.cnt.toNat + 1) f s)

/-- MSTEP ROW (R175). -/
def execMstepRow (f : MWord) (s : State) : Host.Outcome State Fault Refusal := .next (workWord 0x11 0 f s)

/-- MSTEP COL (R175). -/
def execMstepCol (f : MWord) (s : State) : Host.Outcome State Fault Refusal := .next (workWord 0x11 0 f s)

/-- MSTEP OUTER: MOUTER with the next ring as its second (R67, R175). -/
def execMstepOuter (f : MWord) (s : State) : Host.Outcome State Fault Refusal := .next (workWord 0x11 0 f s)

/-- MSTEP SAMP: MSAMP with the next ring as its draw ring (R269, R275). -/
def execMstepSamp (f : MWord) (s : State) : Host.Outcome State Fault Refusal := .next (workWord 0x11 0 f s)

/-- MOUTER (R176). -/
def execMouter (f : MWord) (s : State) : Host.Outcome State Fault Refusal := .next (workWord 0x12 0 f s)

/-- MDRAIN (R179 to R181). -/
def execMdrain (f : MWord) (s : State) : Host.Outcome State Fault Refusal := .next (workWord 0x13 (f.cnt.toNat + 1) f s)

/-- MSCLD (R177). -/
def execMscld (f : MWord) (s : State) : Host.Outcome State Fault Refusal := .next (workWord 0x14 (f.cnt.toNat + 1) f s)

/-- MZERO (R178). -/
def execMzero (f : MWord) (s : State) : Host.Outcome State Fault Refusal := .next (workWord 0x15 ((f.cnt.toNat + 4) / 4) f s)

/-- MNSET (R245). -/
def execMnset (f : MWord) (s : State) : Host.Outcome State Fault Refusal := .next (workWord 0x16 1 f s)

/-- MNEST (R246). -/
def execMnest (f : MWord) (s : State) : Host.Outcome State Fault Refusal := .next (workWord 0x17 0 f s)

/-- MNORM (R270, R271). -/
def execMnorm (f : MWord) (s : State) : Host.Outcome State Fault Refusal := .next (workWord 0x18 0 f s)

/-- MALIAS (R272, R273). -/
def execMalias (f : MWord) (s : State) : Host.Outcome State Fault Refusal := .next (workWord 0x19 (2 * s.mat.sam.k + 4) f s)

/-- MSAMP (R274 to R276). -/
def execMsamp (f : MWord) (s : State) : Host.Outcome State Fault Refusal := .next (workWord 0x1A 0 f s)

/-- MSWAP (R174). -/
def execMswap (f : MWord) (s : State) : Host.Outcome State Fault Refusal := .next (workWord 0x1B 1 f s)

/-- MSTAT (R277). -/
def execMstat (f : MWord) (s : State) : Host.Outcome State Fault Refusal := .next (workWord 0x1C 1 f s)

/-- The next piece of the work of the word that has issued (R167). -/
def execMatrixWordStart (s : State) : Host.Outcome State Fault Refusal := .next (matStep s)

/-- The oldest finished word is complete (R168). -/
def execMatrixWordComplete (s : State) : Host.Outcome State Fault Refusal :=
  .next (mapMat (fun m => { m with unfinished := m.unfinished.tail }) s)

/-! ### Control words (R182, R183) -/

/-- MNOP. -/
def execMnop (_f : MWord) (s : State) : Host.Outcome State Fault Refusal := .next (mword mAdvance s)

/-- Whether every earlier word is complete. -/
def matComplete (s : State) : Bool := s.mat.work.isNone && s.mat.unfinished.isEmpty

/-- MHALT: issue stops, and the sequencer is halted once every word is complete; a latched resume token lets it go on at once
(R182, R231). -/
def execMhalt (_f : MWord) (s : State) : Host.Outcome State Fault Refusal :=
  .next (if matComplete s then
      let s1 := mAdvance s
      if s.mat.token then mapMat (fun m => { m with token := false }) s1 else mapMat (fun m => { m with running := false, stat := .halted }) s1
    else mHold .fence s)

/-- The target of a branch: AUX counts words of 24 bytes. -/
def mTarget (f : MWord) (s : State) : BitVec 48 := s.mat.pc + 24 * f.aux.signExtend 48

/-- MBR. -/
def execMbr (f : MWord) (s : State) : Host.Outcome State Fault Refusal :=
  .next (mword (fun s => mJump (mTarget f s) (mIssue 1 s)) s)

/-- The loop stack, whose top stands first. -/
def setLoops (l : List (BitVec 48 × Nat)) (s : State) : State := mapMat (fun m => { m with loops := l }) s

/-- A new entry of the loop stack; at depth 4 a fault (R183). -/
def loopPush (f : MWord) (s : State) : State :=
  if 4 ≤ s.mat.loops.length then matFault cMatFmt 0 s
  else if f.cnt = 0 then mAdvance s
  else mJump (mTarget f s) (mIssue 1 (setLoops ((s.mat.pc, f.cnt.toNat - 1) :: s.mat.loops) s))

/-- MLOOP (R183). -/
def execMloop (f : MWord) (s : State) : Host.Outcome State Fault Refusal :=
  .next (mword (fun s =>
    match s.mat.loops with
    | (pc, n) :: r =>
      if pc = s.mat.pc then
        (if 0 < n then mJump (mTarget f s) (mIssue 1 (setLoops ((pc, n - 1) :: r) s)) else mAdvance (setLoops r s))
      else loopPush f s
    | [] => loopPush f s) s)

/-- MWAIT: waits for the generation of a sync word (R182, R236). -/
def execMwait (f : MWord) (s : State) : Host.Outcome State Fault Refusal :=
  .next (mword (fun s =>
    match auxAt f.aux with
    | .addr a =>
      (match regionFault s .read a 16 with
       | some x => matRaise x s
       | none =>
         let g := (syncRead s (locSpad ownPos a)).gen
         if (g + 2 ^ 32 - f.tor.toNat) % 2 ^ 32 < 2 ^ 31 then mAdvance (observeSync (locSpad ownPos a) f.tor.toNat s) else mHold .sync s)
    | _ => matFault cMatFmt 0 s) s)

/-- MSIG: retires a marker of the matrix stream and pulses the board (R182, R223, R228). -/
def execMsig (f : MWord) (s : State) : Host.Outcome State Fault Refusal :=
  .next (if matComplete s then
      let m : BitVec 8 := f.aux.setWidth 8
      pulse 5 m.toNat (retireMarker 4 m (mAdvance s))
    else mHold .fence s)

/-- MRDV: waits for a rendezvous register (R182, R225). -/
def execMrdv (f : MWord) (s : State) : Host.Outcome State Fault Refusal :=
  .next (mword (fun s =>
    let i : BitVec 3 := f.aux.setWidth 3
    if rdvFired s i then mAdvance (observeRdv i.toNat s) else mHold .rendezvous s) s)

/-- MSEG aux=0: opens a segment (R182, R262, R263). -/
def execMsegOpen (f : MWord) (s : State) : Host.Outcome State Fault Refusal :=
  .next (mword (fun s =>
    if s.mat.seg.opened then matFault cMatFmt 0 s
    else
      let v : Word := (f.toc ++ f.tor : BitVec 64)
      mapMat (fun m => { m with seg := Seg.start v }) (mAdvance s)) s)

/-- MSEG aux=1: closes the segment and compares (R182, R262, R263). -/
def execMsegClose (_f : MWord) (s : State) : Host.Outcome State Fault Refusal :=
  .next (mword (fun s =>
    if !s.mat.seg.opened then matFault cMatFmt 0 s
    else
      let s1 := mJump (s.mat.pc + 24) (mIssueFed false 1 s)
      segClose 2 5 s1.mat.seg (matFault cSegment) s (mapMat (fun m => { m with seg := Seg.closed }) s1)) s)

end Sys2Proof.Machine
end

