-- ==== Sys2Proof/Machine/EngineEvents.lean ====
section
/-! DEFINITION. The events of the engines of the cell: starts of clusters, pre-emption requests from inside, the delivery of
delegated traps, wakes and releases of waits, returns of loads, landings, and the sluice board (spec/04_reeve.md R76 to R78, R87,
R89, R99, R107; spec/10_engines.md R225, R227 to R231, R236; spec/16_scheduling.md R322). An event that cannot come about leaves
the state as it is (log 8). -/

namespace Sys2Proof.Machine

open Sys2Proof

/-! ### Clusters -/

/-- CLUSTERGO_WRITE: a write of CLUSTERGO by cluster c (R78). -/
def execClustergoWrite (c : Fin 4) (mask : BitVec 4) (s : State) : Host.Outcome State Fault Refusal :=
  .next (if cellRuns s ∧ (clus s c).active then clusterGo c mask s else s)

/-- PREEMPT_YIELD: the task asks for its launch to be pre-empted (R322). -/
def execPreemptYield (s : State) : Host.Outcome State Fault Refusal := .next (preemptYield s)

/-- PREEMPT_HOLD_EXPIRY: a request that HOLD has deferred for 65,536 cycles is taken (R322). -/
def execPreemptHoldExpiry (s : State) : Host.Outcome State Fault Refusal :=
  .next (if s.cell.pReq ∧ s.cell.pHold then mapCell (fun k => { k with pExpired := true }) s else s)

/-- Whether c0 stands at a word boundary at which a trap of another engine is taken (R107). -/
def deliveryDue (s : State) : Bool := cellRuns s && decide ((clus s 0).gap = 0) && !streamStop s && trapReady s

/-- TRAP_DELIVERY: c0 takes a trap delegated by the vector stream or the custom unit (R107). -/
def execTrapDelivery (s : State) : Host.Outcome State Fault Refusal := .next (if deliveryDue s then deliverTrap s else s)

/-- REEVE_RESULT_LAND: a cycle passes in which results of a cluster are on their way; one whose latency is spent lands (R77). Words
already issued complete also in a cell that is frozen or stops (R247). -/
def execReeveResultLand (c : Fin 4) (s : State) : Host.Outcome State Fault Refusal :=
  .next (if (clus s c).pend.isEmpty then s else passCycles 1 s)

/-- Whether a store to a page of type device stands before an access of number `seq` in the order of queue q (R301). -/
def devStoreBefore (q seq : Nat) (stores : List StoreEnt) (s : State) : Bool :=
  stores.any (fun e => e.dev && decide (e.seq < seq)) || s.cell.cellStores.any (fun e => decide (e.q = q) && e.dev && decide (e.seq < seq))

/-- The oldest load of a cluster is performed: its register takes the bytes that the cluster sees, with their poison
(R76, R85, R87, R89, R298 to R301). The mark is that of the bytes' homes, also of a byte that comes from a scratchpad store which is not yet at
its home (DESIGN CHOICE, log 137). -/
def performLoad (c : Fin 4) (s : State) : State :=
  let k := clus s c
  match k.loads with
  | [] => s
  | e :: r =>
    if e.dev && devStoreBefore c.val e.seq k.stores s then s
    else
      giveResult c 1 e.dest (extend e.size e.sext (leNat (cellBytes c.val s e.loc e.size))) (poisoned s e.loc e.size)
        (markSeen c.val e.loc e.size (mapClus c (fun k => { k with loads := r }) s))

/-- LOAD_DATA_RETURN: the data of the oldest local load of a cluster return (R87). -/
def execLoadDataReturn (c : Fin 4) (s : State) : Host.Outcome State Fault Refusal := .next (performLoad c s)

/-! ### Waits that end (R99, R225, R236) -/

/-- The instruction at which a cluster waits, when the cluster alone can go on from it: the word carries no Y, or no other cluster
is active (R53). -/
def waitingWord (c : Fin 4) (k : WaitKind) (s : State) : Option (Nat × Instr) :=
  let cl := clus s c
  if cellRuns s ∧ cl.active ∧ cl.stat = .waiting ∧ cl.wait = k ∧ !streamStop s ∧ !(decide (c = 0) && trapReady s) then
    match fetchReeve c s with
    | .word w =>
      if w / 2 ^ 31 % 2 = 0 ∨ clusters.filter (fun j => (clus s j).active) = [c] then (decodeReeve w).map (fun i => (w, i)) else none
    | .other _ => none
  else none

/-- The outcome of a waiting word, run again. -/
def runAgain (c : Fin 4) (w : Nat) (f : State → Host.Outcome State Fault Refusal) (s : State) : Host.Outcome State Fault Refusal :=
  match f (wordState c w s) with
  | .next t => .next (endRun t)
  | x => x

/-- WFE_WAKE: the latch of a cluster is set, and the cluster goes on if it waits at a WFE (R99). -/
def execWfeWake (c : Fin 4) (s : State) : Host.Outcome State Fault Refusal :=
  let s1 := mapClus c (fun k => { k with wake := true }) s
  match waitingWord c .wfe s1 with
  | some (w, .wfe y g) => runAgain c w (execWfe y g) s1
  | _ => .next s1

/-- Whether the vector sequencer waits at its PC for a reason. -/
def vecWaits (k : WaitKind) (s : State) : Bool :=
  cellRuns s && !streamStop s && s.vec.running && s.vec.trap.isNone && s.vec.heldFault.isNone && !s.vec.halted && !s.vec.halting &&
    decide (s.vec.gap = 0) && decide (s.vec.stat = .waiting) && decide (s.vec.wait = k)

/-- Whether the matrix sequencer waits at its PC for a reason. -/
def matWaits (k : WaitKind) (s : State) : Bool :=
  cellRuns s && !streamStop s && s.mat.running && !s.mat.halted && s.mat.work.isNone && decide (s.mat.stat = .waiting) && decide (s.mat.wait = k)

/-- The vector word at which the sequencer waits runs again, when it is one of opcode `op`. -/
def vecAgain (op : Nat) (k : WaitKind) (f : VWord → State → Host.Outcome State Fault Refusal) (s : State) :
    Host.Outcome State Fault Refusal :=
  if vecWaits k s then
    match vecWordAt s with
    | some w =>
      (match vecView w with
       | some (o, _, v) =>
         if o = op then
           (match f v { s with word := w, held := false } with
            | .next t => .next { t with held := false }
            | x => x)
         else .next s
       | none => .next s)
    | none => .next s
  else .next s

/-- The matrix word at which the sequencer waits runs again, when it is one of opcode `op`. -/
def matAgain (op : Nat) (k : WaitKind) (f : MWord → State → Host.Outcome State Fault Refusal) (s : State) :
    Host.Outcome State Fault Refusal :=
  if matWaits k s then
    match matWordAt s with
    | some w =>
      (match matView w with
       | some (o, _, v) =>
         if o = op then
           (match f v { s with word := w, held := false } with
            | .next t => .next { t with held := false }
            | x => x)
         else .next s
       | none => .next s)
    | none => .next s
  else .next s

/-- RDV_WAIT_RELEASE: an engine that waits on a rendezvous register goes on if it has fired (R225): engine 0 to 3 a cluster, 4 the
vector sequencer, 5 the matrix sequencer. -/
def execRdvWaitRelease (eng : Nat) (s : State) : Host.Outcome State Fault Refusal :=
  if h : eng < 4 then
    let c : Fin 4 := ⟨eng, h⟩
    match waitingWord c .rendezvous s with
    | some (w, .rdvWait y g i) => runAgain c w (execRdvWait y g i) s
    | some (w, .rdvAw y g m i k) => runAgain c w (execRdvAw y g m i k) s
    | _ => .next s
  else if eng = 4 then vecAgain 0x0A .rendezvous execVrdv s
  else if eng = 5 then matAgain 0x06 .rendezvous execMrdv s
  else .next s

/-- SYNC_WAIT_RELEASE: an engine that waits on a sync word goes on if the generation has come (R236). -/
def execSyncWaitRelease (eng : Nat) (s : State) : Host.Outcome State Fault Refusal :=
  if h : eng < 4 then
    let c : Fin 4 := ⟨eng, h⟩
    match waitingWord c .sync s with
    | some (w, .swait y g d a b) => runAgain c w (execSwait y g d a b) s
    | _ => .next s
  else if eng = 4 then vecAgain 0x08 .sync execVwait s
  else if eng = 5 then matAgain 0x04 .sync execMwait s
  else .next s

/-! ### The sluice board (R227 to R231) -/

/-- The target of an output word (R231). -/
def outTarget (o : BitVec 32) : Nat := nb o.toNat 0 4

/-- The hold line of an output word (R231). -/
def outLine (o : BitVec 32) : Nat := nb o.toNat 8 3

/-- The cluster mask of an output word (R231). -/
def outMask (o : BitVec 32) : Nat := nb o.toNat 16 4

/-- SLUICE_PULSE: the oldest pulse under way reaches its counters (R227, R229). -/
def execSluicePulse (s : State) : Host.Outcome State Fault Refusal :=
  .next (match s.cell.sluice.pulses with
    | [] => s
    | p :: r => mapSluice (fun b => countPulse p.1 p.2 { b with pulses := r }) s)

/-- The terms that are satisfied in one cycle, in order, with the counters that each consumes (R230). -/
def firingTerms (b : Sluice) : List (Nat × BitVec 16) := (upTo 8).filterMap (fun t => (termCounters b t).map (fun m => (t, m)))

/-- SLUICE_TERM_FIRE: in a cycle in which a term is satisfied, every satisfied term fires, and a counter that several of them name
is consumed once (R230). -/
def execSluiceTermFire (term : Fin 8) (s : State) : Host.Outcome State Fault Refusal :=
  .next (match termCounters s.cell.sluice term.val with
    | none => s
    | some _ =>
      mapSluice (fun b =>
        let fs := firingTerms b
        let b1 := consumeCounters (fs.foldl (fun m f => m ||| f.2) 0) b
        let outs := fs.map (fun f => (vget b.terms f.1 { masks := Vector.replicate 4 0, out := 0 }).out)
        { b1 with outs := b1.outs ++ outs.filter (fun o => decide (outTarget o ≠ 0)) }) s)

/-- Takes the oldest output that a test accepts. -/
def takeOut (p : BitVec 32 → Bool) (k : State → State) (s : State) : State :=
  match s.cell.sluice.outs.find? p with
  | none => s
  | some o => k (mapSluice (fun b => { b with outs := b.outs.erase o }) s)

/-- A resume token for the vector sequencer: it starts the halted sequencer at its PC, or is latched (R231). -/
def resumeVecToken (s : State) : State :=
  if s.vec.running then mapVec (fun v => { v with token := true }) s
  else mapVec (fun v => { v with running := true, stat := .issuing, wait := .none, halted := false }) s

/-- A resume token for the matrix sequencer (R231). -/
def resumeMatToken (s : State) : State :=
  if s.mat.running then mapMat (fun m => { m with token := true }) s
  else mapMat (fun m => { m with running := true, stat := .issuing, wait := .none, halted := false }) s

/-- SLUICE_VECTOR_RESUME (R231). -/
def execSluiceVectorResume (s : State) : Host.Outcome State Fault Refusal :=
  .next (takeOut (fun o => decide (outTarget o = 1)) resumeVecToken s)

/-- SLUICE_MATRIX_RESUME (R231). -/
def execSluiceMatrixResume (s : State) : Host.Outcome State Fault Refusal :=
  .next (takeOut (fun o => decide (outTarget o = 2)) resumeMatToken s)

/-- Releases the oldest held job of a hold line, or keeps the token, up to 255 (R231). -/
def releaseJob (line : Nat) (s : State) : State :=
  match s.cell.jobs.find? (fun j => !j.released && decide (nb (byteAt j.card 4) 4 3 = line)) with
  | some j => mapCell (fun k => { k with jobs := k.jobs.map (fun i => if i.adm = j.adm then { i with released := true } else i) }) s
  | none => mapSluice (fun b => { b with tokens := vset b.tokens line (satInc (vget b.tokens line 0) 255) }) s

/-- SLUICE_JOB_RELEASE (R231). -/
def execSluiceJobRelease (line : Fin 8) (s : State) : Host.Outcome State Fault Refusal :=
  .next (takeOut (fun o => decide (outTarget o = 3) && decide (outLine o = line.val)) (releaseJob line.val) s)

/-- Releases the oldest held collective command, or else the oldest held Menders command, or keeps the token (R231, log 31). -/
def releaseColl (s : State) : State :=
  match s.cell.colls.find? (fun c => !c.released) with
  | some c => mapCell (fun k => { k with colls := k.colls.map (fun i => if i.adm = c.adm then { i with released := true } else i) }) s
  | none =>
    match s.cell.mends.find? (fun m => !m.released) with
    | some m => mapCell (fun k => { k with mends := k.mends.map (fun i => if i.adm = m.adm then { i with released := true } else i) }) s
    | none => mapSluice (fun b => { b with collTokens := satInc b.collTokens 255 }) s

/-- SLUICE_COLL_RELEASE (R231). -/
def execSluiceCollRelease (s : State) : Host.Outcome State Fault Refusal :=
  .next (takeOut (fun o => decide (outTarget o = 4)) releaseColl s)

/-- The wake latches of the named clusters are set (R99, R231). -/
def setWakes (mask : Nat) (s : State) : State :=
  clusters.foldl (fun x c => if tb mask c.val then mapClus c (fun k => { k with wake := true }) x else x) s

/-- SLUICE_WAKE (R231). -/
def execSluiceWake (mask : BitVec 4) (s : State) : Host.Outcome State Fault Refusal :=
  .next (takeOut (fun o => decide (outTarget o = 5) && decide (outMask o = mask.toNat)) (setWakes mask.toNat) s)

end Sys2Proof.Machine
end

