-- ==== Sys2Proof/Machine/Errors.lean ====
section
/-! DEFINITION. Errors of DRAM, SRAM, the host interface and the device itself, scrubbing, and the clearing of error banks
(spec/24_surviving.md R390 to R400). -/

namespace Sys2Proof.Machine

open Sys2Proof

/-- An error that the access of a cell carried, or that no cell carried: `cell` is a physical cell, or 512 and above for none; the context
is that of the launch bound to it (R392, R393). -/
def deviceError (cls src addr info cell eng : Nat) (s : State) : State :=
  (raiseError { cls, src, addr := BitVec.ofNat 64 addr, info := BitVec.ofNat 64 info, eng := eng % 16,
                cell := if cell < 512 then some cell else none, ctx := (ctxAt s cell).getD 0 } false s).2

/-- The detail of a DRAM error: symbol or lane, stack, pseudo-channel (R393). -/
def dramInfo (unit stack pc : Nat) : Nat := unit % 256 + stack % 16 * 256 + pc % 64 * 4096

/-! ### Array ECC (R397) -/

/-- DRAM_READ_CORRECTED: class 0; the data are correct and the sector is written back. -/
def execDramReadCorrected (addr symbol stack pc cell eng : Nat) (s : State) : Host.Outcome State Fault Refusal :=
  .next (if addr < dramBytes then deviceError 0 8 addr (dramInfo symbol stack pc) cell eng s else s)

/-- An uncorrectable read: class 1, and every lane of the sector is poisoned from now on. -/
def uncorrectable (addr unit stack pc cell eng : Nat) (s : State) : State :=
  deviceError 1 8 addr (dramInfo unit stack pc) cell eng (markBytes (addr / 32 * 32) 32 true s)

/-- DRAM_READ_UNCORRECTABLE (R397). -/
def execDramReadUncorrectable (addr symbol stack pc cell eng : Nat) (s : State) : Host.Outcome State Fault Refusal :=
  .next (if addr < dramBytes then uncorrectable addr symbol stack pc cell eng s else s)

/-! ### Transfers (R398) -/

/-- The failure count of a lane. -/
def laneCount (s : State) (stack pc lane : Nat) : Nat :=
  ((s.dev.lanes.find? (fun x => decide (x.stack = stack) && decide (x.pc = pc) && decide (x.lane = lane))).map (·.count)).getD 0

/-- Sets the failure count of a lane; a count of 0 is not listed. -/
def setLane (stack pc lane n : Nat) (s : State) : State :=
  mapDev (fun d =>
    let rest := d.lanes.filter (fun x => !(decide (x.stack = stack) && decide (x.pc = pc) && decide (x.lane = lane)))
    { d with lanes := if n = 0 then rest else rest ++ [{ stack, pc, lane, count := n }] }) s

/-- Adds a failure of a lane: at 4 the lane is swapped while the pseudo-channel has one of its two spares. -/
def laneFailure (addr stack pc lane cell eng : Nat) (s : State) : State :=
  let n := laneCount s stack pc lane + 1
  if n < 4 then setLane stack pc lane n s
  else if (s.dev.spares.filter (fun x => decide (x.1 = stack) && decide (x.2.1 = pc))).length < 2 then
    deviceError 3 8 addr (dramInfo lane stack pc) cell eng
      (setLane stack pc lane 0 (mapDev (fun d => { d with spares := d.spares ++ [(stack, pc, lane)] }) s))
  else setLane stack pc lane 4 s

/-- DRAM_PARITY_ERROR: a transfer has failed, `retry` counting the retries made before; class 2 for each, and a transfer whose 8
retries have all failed is an uncorrectable read (R398). -/
def execDramParityError (addr stack pc lane retry cell eng : Nat) (s : State) : Host.Outcome State Fault Refusal :=
  .next (if addr < dramBytes then
      let s1 := laneFailure addr stack pc lane cell eng (deviceError 2 8 addr (dramInfo lane stack pc) cell eng s)
      if 8 ≤ retry then uncorrectable addr lane stack pc cell eng s1 else s1
    else s)

/-- LANE_COUNT_DECAY: 2^20 transfers without a failure of the lane (R398). -/
def execLaneCountDecay (stack pc lane : Nat) (s : State) : Host.Outcome State Fault Refusal :=
  .next (setLane stack pc lane (laneCount s stack pc lane - 1) s)

/-! ### SRAM (R399) -/

/-- Where an SRAM error is: 0 scratchpad, 1 tile registers, 2 accumulators, 3 scales, 4 active plane, 5 shadow plane, 6 norm state,
7 control store. The engine that reads it is the matrix engine or the vector sequencer. -/
def sramEng (kind : Nat) : Nat := if kind = 1 ∨ kind = 7 then 4 else if kind = 0 then 0 else 5

/-- The error of an SRAM read. -/
def sramError (cls kind index : Nat) (s : State) : State :=
  deviceError cls 9 (if kind = 0 then index % 2 ^ 23 else 0) 0 Config.cellNo (sramEng kind) s

/-- SRAM_CORRECTED (R399). -/
def execSramCorrected (kind index : Nat) (s : State) : Host.Outcome State Fault Refusal := .next (sramError 4 kind index s)

/-- The element that an uncorrectable read delivers is poisoned; a control-store word invalidates its bank's tag. -/
def poisonSram (kind index : Nat) (s : State) : State :=
  match kind with
  | 0 => markBytes (locSpad ownPos (index % 2 ^ 23 / 32 * 32)) 32 true s
  | 1 => mapVec (fun v => { v with tileP := addSet v.tileP (index % 32768) }) s
  | 2 => mapMat (fun m => { m with accP := addSet m.accP (index % 196608) }) s
  | 4 => mapMat (fun m => { m with active := { m.active with marks := addSet m.active.marks (index % 36864) } }) s
  | 5 => mapMat (fun m => { m with shadow := { m.shadow with marks := addSet m.shadow.marks (index % 36864) } }) s
  | 6 => mapMat (fun m => { m with sam := { m.sam with marks := addSet m.sam.marks (index % 4096) } }) s
  | 7 => mapCell (fun k => { k with csTag := vset k.csTag (index / 2048 % 4) none }) s
  | _ => s

/-- SRAM_UNCORRECTABLE (R399). -/
def execSramUncorrectable (kind index : Nat) (s : State) : Host.Outcome State Fault Refusal :=
  .next (poisonSram kind index (sramError 5 kind index s))

/-! ### Scrubbing (R400) -/

/-- The interval of the next patrol. -/
def nextScrub (n hits : Nat) : Nat := if 16 ≤ hits then Nat.max 1024 (n / 2) else if hits = 0 then Nat.min 1048576 (2 * n) else n

/-- SCRUB_READ: a sector is read by the patrol of its stack's controller. A corrected one is written back and counted; an uncorrectable one
is stored as poisoned; the last one of a patrol sets the next interval (R397, R400). -/
def execScrubRead (at_ : DramSector) (symbol : Nat) (found : ScrubFound) (last : Bool) (s : State) : Host.Outcome State Fault Refusal :=
  let k := at_.stack % 12
  .next (if at_.addr ≥ dramBytes then s
    else
      let s1 := match found with
        | .clean => s
        | .corrected =>
          mapDev (fun d => { d with scrubHits := vset d.scrubHits k (vget d.scrubHits k 0 + 1) })
            (deviceError 0 8 at_.addr (dramInfo symbol at_.stack at_.pc) 512 0 s)
        | .uncorrectable => uncorrectable at_.addr symbol at_.stack at_.pc 512 0 s
      if last then
        mapDev (fun d => { d with scrubN := vset d.scrubN k (nextScrub (vget d.scrubN k 65536) (vget d.scrubHits k 0)),
                                  scrubHits := vset d.scrubHits k 0 }) s1
      else s1)

/-! ### Banks (R393) -/

/-- EB_CLR: zeroes the record of a bank. -/
def execEbClr (bank : Fin 16) (s : State) : Host.Outcome State Fault Refusal := .next (booted s (bankClr bank.val s))

/-- EB_CLRCNT: zeroes the counts of a bank. -/
def execEbClrcnt (bank : Fin 16) (s : State) : Host.Outcome State Fault Refusal := .next (booted s (bankClrcnt bank.val s))

/-! ### Host interface and dispatch core (R390) -/

/-- PCIE_ERROR: an error that the link does not recover. -/
def execPcieError (addr info : BitVec 64) (s : State) : Host.Outcome State Fault Refusal :=
  .next (deviceError 14 14 addr.toNat info.toNat 512 0 s)

/-- INTERNAL_ERROR: firmware, clock or voltage loops. -/
def execInternalError (info : BitVec 64) (s : State) : Host.Outcome State Fault Refusal :=
  .next (deviceError 15 15 0 info.toNat 512 0 s)

end Sys2Proof.Machine
end

