-- ==== Sys2Proof/Machine/Menders.lean ====
section
/-! DEFINITION. LOGAPP, MSUPD and the Menders: the card and its admission, the replay of log steps into elements, completion
(spec/22_pair_log.md R372, R378 to R386, R388). -/

namespace Sys2Proof.Machine

open Sys2Proof

/-! ### LOGAPP (R378, R379) -/

/-- LOGAPP: places an entry as a relay; d = status and LOGDONE (R378). -/
def execLogapp (_y : Bool) (w : BitVec 2) (d a : BitVec 5) (s : State) : Host.Outcome State Fault Refusal :=
  .next (reeve [a] [d] (fun s =>
    let ea := rd s a
    let place (s : State) : State :=
      withBlock a ea 32 (fun e s =>
        let ctx := s.cell.task.ctx
        if entryHeld ctx e s then holdWith .waiting .none (claimEntry ctx e s)
        else
          let r := placeEntry ctx e (advance w s)
          putResult 1 d (BitVec.ofNat 64 (r.1 + (logOf r.2 ctx).done * 2 ^ 24)) r.2) s
    if !aligned ea 32 then trapHere cMisdata ea s
    else
      match spaceOf ea with
      | .virt _ => place s
      | .spad _ => place s
      | _ => trapHere cAccess ea s) s)

/-- Whether LOGAPPLIED may take a value (R379). -/
def appliedOk (l : Log) (v : Word) : Bool :=
  decide (nb v.toNat 40 24 = 0) && decide (l.applied < v.toNat) && decide (v.toNat ≤ l.done)

/-- LOGAPP.A: advances LOGAPPLIED (R379, R406). -/
def execLogappA (_y : Bool) (w : BitVec 2) (d a : BitVec 5) (s : State) : Host.Outcome State Fault Refusal :=
  .next (reeve [a] [d] (fun s =>
    let v := rd s a
    let ctx := s.cell.task.ctx
    if appliedOk (logOf s ctx) v then
      putResult 2 d v (updateCapiv ctx (mapLog ctx (fun l => { l with applied := v.toNat }) (advance w s)))
    else putResult 2 d (BitVec.allOnes 64) (advance w s)) s)

/-! ### The card (R381, R382) -/

/-- First and last step. -/
def mendFirst (c : List Byte) : Nat := leAt c 0 5
def mendLast (c : List Byte) : Nat := leAt c 8 5

/-- A flag of byte 5: 0 SWV, 1 HOLD, 2 BF16. -/
def mendFlag (c : List Byte) (i : Nat) : Bool := tb (byteAt c 5) i

/-- Noise mode. -/
def mendMode (c : List Byte) : Nat := nb (byteAt c 5) 3 2

/-- Element size. -/
def mendSize (c : List Byte) : Nat := if mendFlag c 2 then 2 else 4

/-- Rows and columns. -/
def mendRows (c : List Byte) : Nat := leAt c 32 4
def mendCols (c : List Byte) : Nat := leAt c 20 4

/-- The code that a card breaks, against the log; 0 for none. -/
def mendCode (c : List Byte) (l : Log) : Nat :=
  if nb (byteAt c 5) 5 3 ≠ 0 ∨ !zeroAt c 6 2 ∨ !zeroAt c 13 3 ∨ !zeroAt c 19 1 then 1
  else if mendMode c = 0 ∨ mendMode c = 3 then 2
  else if mendRows c = 0 ∨ mendCols c = 0 ∨ 65536 < mendCols c ∨ 2 ^ 24 < mendRows c ∨ mendLast c < mendFirst c then 3
  else if leAt c 24 8 % mendSize c ≠ 0 ∨ (mendFlag c 0 ∧ leAt c 48 8 % 16 ≠ 0) ∨ leAt c 56 8 % 8 ≠ 0 then 4
  else if !l.live then 6
  else if mendFirst c ≤ l.applied ∨ l.done < mendLast c then 5
  else 0

/-- Admits a Menders command; it reads the vote state now (R388). A held one takes a kept token of the command ports (R231,
DEDUCED, log 31). -/
def admitMend (c : List Byte) (s : State) : State :=
  let l := logOf s s.cell.task.ctx
  let take := mendFlag c 1 && decide (s.cell.sluice.collTokens ≠ 0)
  let s1 := if take then mapSluice (fun x => { x with collTokens := x.collTokens - 1 }) s else s
  let m : Mend :=
    { adm := s.cell.mendCtr, card := c, sup := (clus s s.cur).sup, released := !mendFlag c 1 || take, started := false, pos := 0,
      skipped := 0,
      vote := match l.vote with
        | some f => if f ≤ mendLast c then some f else none
        | none => none,
      failed := false, settled := false, cause := none }
  mapCell (fun x => { x with mends := x.mends ++ [m], mendCtr := x.mendCtr + 1 }) s1

/-- MSUPD d, a (R381, R382). -/
def execMsupd (_y : Bool) (w : BitVec 2) (d a : BitVec 5) (s : State) : Host.Outcome State Fault Refusal :=
  .next (reeve [a] [d] (fun s =>
    let ea := rd s a
    if 16 ≤ s.cell.mends.length then holdWith .waiting .none s
    else if !aligned ea 64 then putResult 1 d (notAdmitted 4) (advance w s)
    else
      withBlock a ea 64 (fun c s =>
        let code := mendCode c (logOf s s.cell.task.ctx)
        if code ≠ 0 then putResult 1 d (notAdmitted code) (advance w s)
        else putResult 1 d (BitVec.ofNat 64 s.cell.mendCtr) (admitMend c (advance w s))) s) s)

/-! ### Running (R383, R385, R386) -/

/-- Lowest byte and end of the byte range of a region. -/
def mendRange (c : List Byte) : Int × Int :=
  let base : Int := leAt c 24 8
  let row := ((mendRows c : Int) - 1) * sx (leAt c 36 4) 32
  let width : Int := mendCols c * mendSize c
  (base + (if row < 0 then row else 0), base + (if row < 0 then 0 else row) + width)

/-- Whether the byte ranges of two cards overlap. -/
def mendsMeet (a b : List Byte) : Bool :=
  decide ((mendRange a).1 < (mendRange b).2) && decide ((mendRange b).1 < (mendRange a).2)

/-- A change of a Menders command. -/
def mapMend (adm : Nat) (f : Mend → Mend) (s : State) : State :=
  mapCell (fun k => { k with mends := k.mends.map (fun m => if m.adm = adm then f m else m) }) s

/-- A Menders command. -/
def mendOf (s : State) (adm : Nat) : Option Mend := s.cell.mends.find? (fun m => decide (m.adm = adm))

/-- The sum of the contributions of one step to an element (R383). -/
def mendAcc (mode t rho kappa : Nat) (es : List (List Byte)) : Nat :=
  es.foldl (fun acc e =>
    if entVoid e then acc
    else
      let c := (f32 (toF32 ((f32 (leAt e 20 4)).mul (f32 (leAt e 16 4))))).neg
      let n := noiseOf mode (bobbin (BitVec.ofNat 64 (leAt e 8 8)) (BitVec.ofNat 24 t) (BitVec.ofNat 32 rho) (BitVec.ofNat 32 kappa))
      toF32 ((f32 acc).add (c.mul (FV.ofInt n)))) 0

/-- The new value of an element after every step of the card (R383, R384). -/
def mendElem (c : List Byte) (steps : List (List (List Byte))) (i j : Nat) (old : Nat) : Nat :=
  let f := if mendFlag c 2 then wBf16 else wF32
  steps.foldl (fun w es =>
    f.enc .rne ((f.dec w).add (f32 (mendAcc (mendMode c) (leAt c 16 3) (leAt c 40 4 + i) (leAt c 44 4 + j) es)))) old

/-- The entries of the card's steps, step by step in slot order. -/
def mendSteps (s : State) (c : List Byte) : List (List (List Byte)) :=
  let l := logOf s s.cell.task.ctx
  (upTo (mendLast c + 1 - mendFirst c)).map (fun i => (upTo l.slots).map (fun k => entBytes s l (mendFirst c + i) k))

/-- The locations of bytes of an element, page by page; a page must be unformatted, normal and in local DRAM (R386). -/
def mendBytes (m : Mend) : List (Word × Nat) → List Nat → State → JobRes (List Nat)
  | [], ls, s => .ok ls s
  | (ea, n) :: r, ls, s =>
    match spaceOf ea with
    | .virt _ =>
      (match xl (8 + 64 * (m.adm + 1)) m.sup .write ea s with
       | .wait s' => .wait s'
       | .deny s' => .fault cAccess ea s'
       | .ok l at_ =>
         if at_.fmt then .fault cFormat (BitVec.ofNat 64 at_.desc) s
         else if at_.mt ≠ 0 ∨ !isDram l then .fault cAccess ea s
         else if captureHolds s l then .wait (claimPages [l] s)
         else mendBytes m r (ls ++ (upTo n).map (l + ·)) s)
    | _ => .fault cAccess ea s

/-- The locations of the bytes of an element, which a stride may put across a page edge (R381). -/
def mendLoc (m : Mend) (i j : Nat) (s : State) : JobRes (List Nat) :=
  mendBytes m (pagePieces (BitVec.ofNat 64 (leAt m.card 24 8) + w64 ((i : Int) * sx (leAt m.card 36 4) 32) +
    BitVec.ofNat 64 (j * mendSize m.card)) (mendSize m.card)) [] s

/-- Locations of elements j and up of a row; a fault ends the list. -/
def mendLocs (m : Mend) (i : Nat) : Nat → Nat → State → List (List Nat) × JobRes Unit
  | 0, _, s => ([], .ok () s)
  | n + 1, j, s =>
    match mendLoc m i j s with
    | .ok l s' =>
      let r := mendLocs m i n (j + 1) s'
      (l :: r.1, r.2)
    | .wait s' => ([], .wait s')
    | .fault c a s' => ([], .fault c a s')

/-- A command writes an element: what its lanes held before can still be read by accesses that know of no completion (R305). -/
def mendPut (m : Mend) (ls : List Nat) (bs : List Byte) (s : State) : State :=
  let parts := (ls.map (· / 4)).eraseDups
  let note (p : Nat) : MsLane :=
    { part := p, old := homePart s p, cmd := (s.cell.task.q, s.cell.task.num, m.adm), done := false, sync := none, marks := [], rvs := [],
      seenAt := none, fenced := [] }
  let s1 := homeWrite (ls.zip bs) s
  mapDev (fun d => { d with msLanes := s.dev.msLanes ++ parts.map note }) s1

/-- A command completes: its lanes learn the generation of the sync word that counts it and the markers queued behind it (R305,
R385). -/
def mendDone (m : Mend) (sync : Option (Nat × Nat)) (s : State) : State :=
  let behind := (s.cell.qmarks.filter (fun q => decide (q.eng = 2) && q.ahead.contains m.adm)).map (·.m)
  let id := (s.cell.task.q, s.cell.task.num, m.adm)
  mapDev (fun d => { d with msLanes := d.msLanes.map (fun e =>
    if e.cmd = id ∧ !e.done then { e with done := true, sync, marks := behind } else e) }) s

/-- The generation of a sync word that counts an arrival of n bytes made now; with target 0 there is none (R234). -/
def SyncWord.counting (w : SyncWord) (n : Nat) : Option Nat :=
  if w.tgt = 0 then none else some ((w.gen + (w.arr + n + w.tgt - 1) / w.tgt) % 2 ^ 32)

/-- Updates the elements at locations, from column j on; a poisoned one is skipped. -/
def mendWrite (m : Mend) (steps : List (List (List Byte))) (i j : Nat) (ls : List (List Nat)) (s : State) : State :=
  let size := mendSize m.card
  (ls.mapIdx (fun k l => (j + k, l))).foldl (fun x p =>
    if p.2.any (fun l => inSet x.dev.poison l) then
      (raiseError { cls := 6, src := 5, addr := BitVec.ofNat 64 (p.2.headD 0), info := 0, eng := 8, cell := some Config.cellNo, ctx := s.cell.task.ctx } false
        (mapMend m.adm (fun y => { y with skipped := y.skipped + 1 }) x)).2
    else mendPut m p.2 (leBytes size (mendElem m.card steps i p.1 (leNat (p.2.map (memGet x.dev.mem))))) x) s

/-- MENDERS_CMD_START: once every earlier overlapping command has completed (R385, R388). -/
def execMendersCmdStart (adm : Nat) (s : State) : Host.Outcome State Fault Refusal :=
  .next (match mendOf s adm with
    | none => s
    | some m =>
      let clear := s.cell.mends.all (fun x => decide (adm ≤ x.adm) || !mendsMeet x.card m.card)
      if cellRuns s ∧ !stopAsked s ∧ m.released ∧ !m.started ∧ clear then
        mapMend adm (fun x => { x with started := true, settled := x.vote.isSome }) s
      else s)

/-- MENDERS_CHUNK: up to 64 consecutive elements of one row (R383, R385, R386). -/
def execMendersChunk (adm : Nat) (s : State) : Host.Outcome State Fault Refusal :=
  .next (match mendOf s adm with
    | none => s
    | some m =>
      if !cellRuns s ∨ stopAsked s ∨ !m.started ∨ m.settled then s
      else
        let cols := mendCols m.card
        let i := m.pos / cols
        let j := m.pos % cols
        let n := Nat.min 64 (cols - j)
        let steps := mendSteps s m.card
        match mendLocs m i n j s with
        | (ls, .ok _ s1) =>
          mendWrite m steps i j ls (mapMend adm (fun x =>
            { x with pos := m.pos + n, settled := decide (mendRows m.card * cols ≤ m.pos + n) }) s1)
        | (_, .wait s1) => s1
        | (ls, .fault c a s1) =>
          mendWrite m steps i j ls (mapMend adm (fun x => { x with failed := true, settled := true, cause := some (c, a) }) s1))

/-- The status block (R385). -/
def mendStatus (m : Mend) : List Byte :=
  leBytes 8 (1 + 2 * b2n m.vote.isSome + 4 * b2n m.failed + 8 * b2n (decide (m.skipped ≠ 0)) + m.vote.getD 0 * 2 ^ 16) ++
    leBytes 8 m.skipped

/-- MENDERS_CMD_COMPLETE: status block, sync word, markers, source, and a freeze where it has faulted (R385, R386). One that action 8 has
ended writes its status block alone: its sync word has its flag (R391). -/
def execMendersCmdComplete (adm : Nat) (s : State) : Host.Outcome State Fault Refusal :=
  .next (match mendOf s adm with
    | none => s
    | some m =>
      if !cellRuns s ∨ !m.settled then s
      else
        let e : Ending :=
          { status := BitVec.ofNat 64 (leAt m.card 56 8), bytes := mendStatus m, syncOn := mendFlag m.card 0 && !killedHere s,
            sync := leAt m.card 48 8, good := true, count := 64, flt := true, always := true }
        let flag (s : State) : State :=
          if !e.syncOn ∨ (!m.failed ∧ m.vote.isNone ∧ m.skipped = 0) then s
          else
            match spadSync (leAt m.card 48 8) s with
            | some loc => syncFlag loc true s
            | none => s
        let counted := if e.syncOn then (spadSync e.sync s).bind (fun loc => ((syncRead s loc).counting 64).map (fun g => (loc, g))) else none
        match writeEnding (8 + 64 * (m.adm + 1)) m.sup e s with
        | .wait s' => s'
        | .fault _ _ s' => s'
        | .ok bad s1 =>
          let s2 := mapCell (fun k => { k with mends := k.mends.filter (fun x => decide (x.adm ≠ adm)) }) (flag s1)
          let s3 := pulse 3 0 (commandDone 2 adm (mendDone m counted s2))
          match (if killedHere s then none else m.cause <|> bad) with
          | none => s3
          | some (code, a) => freezeCell code 8 a s3)

/-- LOGBASE_WRITE: a supervisor write of LOGBASE by a cluster creates the log again, once no command of the context uses it
(R372). -/
def execLogbaseWrite (_c : Fin 4) (v : BitVec 64) (s : State) : Host.Outcome State Fault Refusal :=
  .next (if !s.cell.bound ∨ logBusy s then s else logRegWrite 0x400 v s)

end Sys2Proof.Machine
end

