-- ==== Sys2Proof/Machine/Micro.lean ====
section
/-! DEFINITION. The micro-ops of the custom unit: operands, landing, stops inside a sequence, and the meaning of each code
(spec/17_control_store.md R329 to R333, R338 to R344). -/

namespace Sys2Proof.Machine

open Sys2Proof

/-! ### The unit -/

/-- The micro-mask top: the invocation's enable mask at depth 0 (R333). -/
def Custom.top (c : Custom) : BitVec 64 := c.masks.getLast?.getD c.enable

/-- The entry below the top: the enable mask at depth 1 (R333). -/
def Custom.below (c : Custom) : BitVec 64 := c.masks.dropLast.getLast?.getD c.enable

/-- Whether D of the invocation is a write port. -/
def Custom.pushes (c : Custom) : Bool := !(portOf c.f.d).isEmpty

/-- The elements of tile D. -/
def uDestKeys (s : State) : List Nat := operandKeys s.vec.cu.f.d 0 s.vec.cuRb 0

/-- The iteration for which the pushes of the unit are held: its own, until it has committed (R258, R339). -/
def uHolds (s : State) : Option (BitVec 32) :=
  if s.vec.cuSeq.isSome && s.vec.held.any (fun h => decide (h.fl.src = s.vec.cuSeq)) then some s.vec.cuIter else none

/-- The invocation ends, and its pushes keep their place no longer; while the cell is frozen the port section follows what it has done
to its ports (R220, R344). -/
def endUnit (s : State) : State :=
  let s1 := match s.vec.cuSeq with
    | some n => fillPushes n none false s
    | none => s
  mapVec (fun v => { v with cu := Custom.zero, cuSeq := none }) (frameUnitPorts s1)

/-- Lanes of a hidden temporary after a write of the lanes of a mask. -/
def mergeLanes (old new : List Lane) (en : BitVec 64) : List Lane := lanes64 (fun l => if enabled en l then laneAt new l else laneAt old l)

/-- A result of the unit lands in a temporary, in tile D, or in the write port (R338). -/
def landUop (u : UFlight) (s : State) : State :=
  let d := u.f.dst.toNat
  if d < 8 then
    mapCu (fun c => { c with
      h := vset c.h d (mergeLanes (vget c.h d []) u.res u.en),
      hPois := vset c.hPois d ((vget c.hPois d 0 &&& ~~~ u.en) ||| (u.pois &&& u.en)) }) s
  else if s.vec.cu.pushes then
    match s.vec.cuSeq with
    | some n => pushVector n true s.vec.cu.f.d u.en u.pois u.res s
    | none => landFlight (pushFlight s.vec.cuNum s.vec.cu.f.d u.en u.pois u.res) s
  else
    let ks := uDestKeys s
    noteLanding ((ks.mapIdx (fun l k => (l, k))).filterMap (fun p => if enabled u.en p.1 then some p.2 else none)) [] (fun _ => true)
      (writeKeys ks u.res u.en u.pois s)

/-- Whether a result whose latency is spent must wait: a push keeps its place behind earlier pushes (R338). -/
def uBlocked (before : List UFlight) (u : UFlight) (s : State) : Bool :=
  s.vec.cu.pushes && decide (u.f.dst = 8) && before.any (fun b => decide (b.f.dst = 8))

/-- The results whose latency is spent land in order; `before` lists those that stay. -/
def landUops : List UFlight → List UFlight → State → State
  | [], before, s => mapCu (fun c => { c with flights := before }) s
  | u :: r, before, s =>
    if u.left = 0 ∧ !uBlocked before u s then landUops r before (landUop u s) else landUops r (before ++ [u]) s

/-- One cycle passes for the unit; an invocation that has executed its END word ends with its last landing (R338). -/
def tickCustom (s : State) : State :=
  let aged := s.vec.cu.flights.map (fun u => { u with left := u.left - 1 })
  let s1 := landUops aged [] (mapCu (fun c => { c with adv := false }) s)
  if s1.vec.cu.ending && s1.vec.cu.flights.isEmpty then endUnit s1 else s1

/-- Every result of the unit lands, and every push enters its port (R341). -/
def landUnit (s : State) : State :=
  mapCu (fun c => { c with flights := [] }) (s.vec.cu.flights.foldl (fun x u => landUop u x) s)

/-- UOP_RESULT_LAND: a cycle passes for the unit's results (R338). -/
def execUopResultLand (s : State) : Host.Outcome State Fault Refusal :=
  .next (if s.vec.cu.running && s.vec.cu.adv && !s.vec.cu.stopped then tickCustom s else s)

/-! ### Stops (R341, R344) -/

/-- The invocation stops before the micro-op at its counter: earlier results land, and the trap goes to c0 unless the vector stream
has trapped already or the cell is frozen; then the micro-op raises it again later. -/
def stopUnit (code : Nat) (tval : Word) (s : State) : State :=
  let s1 := frameUnitPorts (mapCu (fun c => { c with stopped := true, adv := false }) (landUnit s))
  match s1.cell.frozen with
  | some f => if f.lost then s1 else writeCustomPart s1
  | none =>
    if s1.vec.trap.isSome then s1
    else
      let s2 := settleVec s1
      vecTrap 10 code 0 s2.vec.pc tval 0 s2

/-- The bank that the running invocation runs from, and the words of its image (R327). -/
def uImage (s : State) : Nat × Nat := (s.vec.cu.bank, s.vec.cu.nwords)

/-- The illegal-instruction trap inside a sequence: TVAL is the micro-op word (R341). -/
def uIllegal (s : State) : State := stopUnit cIllegal (uopWordAt (uImage s).1 s.vec.cu.upc (uImage s).2 s) s

/-- The frame of a micro-op: an invocation runs and has micro-ops to execute; the 65,537th raises WATCHDOG (R340). -/
def uword (k : State → State) (s : State) : State :=
  let c := s.vec.cu
  if !c.running || c.stopped || c.ending then s
  else if 65536 ≤ c.count then stopUnit cWatchdog 65536 s
  else k s

/-- The micro-op waits; time passes for the unit. -/
def uWait (s : State) : State := mapCu (fun c => { c with adv := true }) s

/-- The micro-op has executed, and the next one stands at `upc` (R333, R340). -/
def uGo (f : UWord) (upc : Nat) (s : State) : State :=
  mapCu (fun c => { c with count := c.count + 1, upc, ending := f.fin, adv := true }) s

/-! ### Operands (R330) -/

/-- The operand of the CXn word that a source number names. -/
def cxOperand (n : Nat) (c : Custom) : Option Operand := if n = 9 then some c.f.a else if n = 10 then some c.f.b else none

/-- The read ports that source numbers name, in rising order. -/
def uPorts (ns : List Nat) (c : Custom) : List Nat :=
  (upTo 6).filter (fun p => ns.any (fun n => (cxOperand n c).any (fun o => (portOf o).contains p)))

/-- Whether every source has landed (R338). -/
def uLanded (ns : List Nat) (s : State) : Bool :=
  ns.all (fun n => s.vec.cu.flights.all (fun u => decide (u.f.dst.toNat ≠ n))) &&
    (!ns.contains 8 || (let ks := uDestKeys s
      s.vec.flights.all (fun fl => (flightKeys fl).all (fun p => !ks.contains p.1))))

/-- A source operand read for a type. -/
def uSource (t n : Nat) (s : State) : Src :=
  let c := s.vec.cu
  let plain (ls : List Lane) : Src := { lanes := ls, marks := 0 }
  let cx (o : Operand) (cap : Src) : Src :=
    match o with
    | .tile _ _ _ _ _ _ => cap
    | .port p => let e := headEntry p.toNat s; { lanes := e.1, marks := e.2 }
    | .xreg r => plain (List.replicate 64 (xLane t (vget c.xs r.toNat 0)))
    | o => plain (operandLanes t o [] c.mtop)
  if n < 8 then { lanes := vget c.h n [], marks := vget c.hPois n 0 }
  else if n = 8 then { lanes := readKeys s (uDestKeys s), marks := keyMarks s (uDestKeys s) }
  else if n = 9 then cx c.f.a { lanes := c.a, marks := c.aPois }
  else if n = 10 then cx c.f.b { lanes := c.b, marks := c.bPois }
  else if n = 11 then plain (List.replicate 64 0)
  else if n = 12 then plain (List.replicate 64 (mapLane t (fun _ => intElem t 1)))
  else if n = 13 then plain (lanes64 (fun l => specialLane t 0 l 0))
  else if n = 14 then plain (lanes64 (fun l => specialLane t 1 l c.top))
  else plain (List.replicate 64 (xLane t (vget c.xs (n - 16) 0)))

/-- Sources of a micro-op at its issue: `k` goes on with the state from which they are read, once they have landed and every read
port has an entry; a write port as a source is an illegal instruction (R330, R338, R341). -/
def uRead (ns : List Nat) (k : State → State) (s : State) : State :=
  let c := s.vec.cu
  if ns.contains 8 && c.pushes then uIllegal s
  else if !uLanded ns s then uWait s
  else
    match allAns ((uPorts ns c).map (fun n => popAns true n s)) with
    | .trap code v => stopUnit code v s
    | .wait => uWait s
    | .ok => k s

/-! ### Computing micro-ops (R331, R332) -/

/-- The opcode of the counterpart of a computing micro-op. -/
def uCounterpart (code imm : Nat) : Nat :=
  if code = 0x0C then 0x2B + imm % 8
  else if 0x30 ≤ code then 0x20 + code
  else if code ≤ 0x0B then 0x1F + code
  else if code = 0x0D then 0x30
  else if code ≤ 0x13 then 0x23 + code
  else if code ≤ 0x23 then 0x2C + code
  else if code = 0x24 then 0x63
  else if code = 0x25 then 0x61
  else if code = 0x26 then 0x62
  else if code = 0x27 then 0x64
  else 0x65

/-- Number of sources of a computing micro-op. -/
def uSources (code : Nat) : Nat := ((uShape code).map (·.srcs)).getD 0

/-- The source numbers that a micro-op reads. -/
def uSourceNums (code : Nat) (f : UWord) : List Nat := [f.s1.toNat, f.s2.toNat, f.s3.toNat].take (uSources code)

/-- Whether the second source is read as i32 whatever UT is, as its counterpart reads B (R126, R137). -/
def uIntB (code : Nat) : Bool := decide (code = 0x11) || decide (code = 0x26)

/-- The mode operand that the immediate of a micro-op stands for (R331). -/
def uMode (code imm : Nat) : Operand :=
  if code = 0x0F then .imm (BitVec.ofNat 21 (imm / 16 % 16)) else if code = 0x0E ∨ code = 0x24 ∨ code = 0x25 then .imm (BitVec.ofNat 21 imm)
  else Operand.unused

/-- The result of a computing micro-op: its counterpart's on the sources read, with the micro-mask top for the mask top. -/
def uCompute (code : Nat) (f : UWord) (s : State) : VIn × Src × Src × Src :=
  let t := f.ut.toNat
  let n := uSources code
  let src (k m : Nat) (ty : Nat) : Src := if k < n then uSource ty m s else { lanes := List.replicate 64 0, marks := 0 }
  let a := src 0 f.s1.toNat t
  let b := src 1 f.s2.toNat (if uIntB code then 3 else t)
  let d := src 2 f.s3.toNat t
  ({ op := uCounterpart code f.imm.toNat, t, src := if code = 0x0F then f.imm.toNat % 16 else t, rep := 0, fa := Operand.unused,
     fb := uMode code f.imm.toNat, a := a.lanes, b := b.lanes, d := d.lanes, mtop := s.vec.cu.top, en := s.vec.cu.top, key := 0 }, a, b, d)

/-- A push of the unit consumes poison: with action 4 the invocation is abandoned (R341). -/
def uConsume (s : State) : State :=
  let r := consumePoison 10 (uHolds s) s
  if r.1 < 4 then stopUnit cPoison 0 r.2
  else if r.1 = 4 then endUnit (landUnit r.2)
  else r.2

/-- A computing micro-op with its sources read. -/
def uIssue (code : Nat) (f : UWord) (s : State) : State :=
  let c := s.vec.cu
  let x := uCompute code f s
  let r := vcompute x.1
  let pois := vpoison x.1 x.2.1.marks x.2.2.1.marks x.2.2.2.marks (decide (uSources code = 3))
  let en := c.top &&& r.wr
  let push := decide (f.dst = 8) && c.pushes
  let lat := (latencyOf x.1.op x.1.t).getD 1
  if push && decide (pois &&& en ≠ 0) then uConsume s
  else
    uGo f (c.upc + 1) (mapCu (fun k => { k with flights := k.flights ++ [{ code, f, left := lat, en, pois, res := r.lo }] })
      (popPorts (uPorts (uSourceNums code f) c) s))

/-- A computing micro-op (R332, R338). -/
def uopWord (code : Nat) (f : UWord) (s : State) : State :=
  uword (fun s =>
    let c := s.vec.cu
    if (uSourceNums code f).contains 8 && c.pushes then uIllegal s
    else if c.top = 0 then uGo f (c.upc + 1) s
    else
      uRead (uSourceNums code f) (fun s =>
        if f.dst = 8 ∧ c.pushes = true then
          match allAns ((portOf c.f.d).map (fun n => pushAns n s)) with
          | .trap code v => stopUnit code v s
          | .wait => uWait s
          | .ok => uIssue code f s
        else uIssue code f s) s) s

/-! ### Control micro-ops (R333) -/

/-- UNOP (R331). -/
def execUnop (f : UWord) (s : State) : Host.Outcome State Fault Refusal := .next (uword (fun s => uGo f (s.vec.cu.upc + 1) s) s)

/-- ULOOP (R333). -/
def execUloop (f : UWord) (s : State) : Host.Outcome State Fault Refusal :=
  .next (uword (fun s =>
    let c := s.vec.cu
    let n := if f.s1 = 11 then f.imm.toNat else Nat.min (vget c.xs (f.s1.toNat - 16) 0).toNat 65535
    if n = 0 then uGo f (c.upc + (32 * f.s2.toNat + f.s3.toNat) + 2) s
    else uGo f (c.upc + 1) (mapCu (fun c => { c with loops := c.loops ++ [(c.upc + 1, n - 1)] }) s)) s)

/-- ULEND (R333). -/
def execUlend (f : UWord) (s : State) : Host.Outcome State Fault Refusal :=
  .next (uword (fun s =>
    let c := s.vec.cu
    match c.loops.getLast? with
    | some (start, n + 1) => uGo f start (mapCu (fun c => { c with loops := c.loops.dropLast ++ [(start, n)] }) s)
    | _ => uGo f (c.upc + 1) (mapCu (fun c => { c with loops := c.loops.dropLast }) s)) s)

/-- USKIP (R333). -/
def execUskip (f : UWord) (s : State) : Host.Outcome State Fault Refusal :=
  .next (uword (fun s =>
    let c := s.vec.cu
    if !f.imm.getLsbD 8 || decide (c.top = 0) then uGo f (c.upc + 1 + f.imm.toNat % 256) s else uGo f (c.upc + 1) s) s)

/-- UMPUSH: at depth 4 an illegal instruction (R333). -/
def execUmpush (f : UWord) (s : State) : Host.Outcome State Fault Refusal :=
  .next (uword (fun s =>
    if 4 ≤ s.vec.cu.masks.length then uIllegal s
    else
      uRead [f.s1.toNat] (fun s =>
        let c := s.vec.cu
        let a := (uSource 0 f.s1.toNat s).lanes
        let m := c.top &&& maskOf (fun l => decide (laneAt a l ≠ 0))
        uGo f (c.upc + 1) (mapCu (fun c => { c with masks := c.masks ++ [m] }) (popPorts (uPorts [f.s1.toNat] c) s))) s) s)

/-- UMPOP: at depth 0 an illegal instruction (R333). -/
def execUmpop (f : UWord) (s : State) : Host.Outcome State Fault Refusal :=
  .next (uword (fun s =>
    let c := s.vec.cu
    if c.masks.isEmpty then uIllegal s else uGo f (c.upc + 1) (mapCu (fun c => { c with masks := c.masks.dropLast }) s)) s)

/-- UMINV: at depth 0 an illegal instruction (R333). -/
def execUminv (f : UWord) (s : State) : Host.Outcome State Fault Refusal :=
  .next (uword (fun s =>
    let c := s.vec.cu
    if c.masks.isEmpty then uIllegal s
    else uGo f (c.upc + 1) (mapCu (fun k => { k with masks := k.masks.dropLast ++ [c.below &&& ~~~ c.top] }) s)) s)

/-! ### The computing codes -/

/-- UADD (R332). -/
def execUadd (f : UWord) (s : State) : Host.Outcome State Fault Refusal := .next (uopWord 0x01 f s)

/-- USUB (R332). -/
def execUsub (f : UWord) (s : State) : Host.Outcome State Fault Refusal := .next (uopWord 0x02 f s)

/-- UMUL (R332). -/
def execUmul (f : UWord) (s : State) : Host.Outcome State Fault Refusal := .next (uopWord 0x03 f s)

/-- UFMA (R332). -/
def execUfma (f : UWord) (s : State) : Host.Outcome State Fault Refusal := .next (uopWord 0x04 f s)

/-- UFMS (R332). -/
def execUfms (f : UWord) (s : State) : Host.Outcome State Fault Refusal := .next (uopWord 0x05 f s)

/-- UFNMA (R332). -/
def execUfnma (f : UWord) (s : State) : Host.Outcome State Fault Refusal := .next (uopWord 0x06 f s)

/-- UMIN (R332). -/
def execUmin (f : UWord) (s : State) : Host.Outcome State Fault Refusal := .next (uopWord 0x07 f s)

/-- UMAX (R332). -/
def execUmax (f : UWord) (s : State) : Host.Outcome State Fault Refusal := .next (uopWord 0x08 f s)

/-- UABS (R332). -/
def execUabs (f : UWord) (s : State) : Host.Outcome State Fault Refusal := .next (uopWord 0x09 f s)

/-- UNEG (R332). -/
def execUneg (f : UWord) (s : State) : Host.Outcome State Fault Refusal := .next (uopWord 0x0A f s)

/-- UCPYS (R332). -/
def execUcpys (f : UWord) (s : State) : Host.Outcome State Fault Refusal := .next (uopWord 0x0B f s)

/-- UCMP (R332). -/
def execUcmp (f : UWord) (s : State) : Host.Outcome State Fault Refusal := .next (uopWord 0x0C f s)

/-- USEL (R332). -/
def execUsel (f : UWord) (s : State) : Host.Outcome State Fault Refusal := .next (uopWord 0x0D f s)

/-- URND (R332). -/
def execUrnd (f : UWord) (s : State) : Host.Outcome State Fault Refusal := .next (uopWord 0x0E f s)

/-- UCVT (R332). -/
def execUcvt (f : UWord) (s : State) : Host.Outcome State Fault Refusal := .next (uopWord 0x0F f s)

/-- UDOT (R332). -/
def execUdot (f : UWord) (s : State) : Host.Outcome State Fault Refusal := .next (uopWord 0x10 f s)

/-- USCALE (R332). -/
def execUscale (f : UWord) (s : State) : Host.Outcome State Fault Refusal := .next (uopWord 0x11 f s)

/-- UEXPO (R332). -/
def execUexpo (f : UWord) (s : State) : Host.Outcome State Fault Refusal := .next (uopWord 0x12 f s)

/-- UCLAMP (R332). -/
def execUclamp (f : UWord) (s : State) : Host.Outcome State Fault Refusal := .next (uopWord 0x13 f s)

/-- UIADD (R332). -/
def execUiadd (f : UWord) (s : State) : Host.Outcome State Fault Refusal := .next (uopWord 0x14 f s)

/-- UISUB (R332). -/
def execUisub (f : UWord) (s : State) : Host.Outcome State Fault Refusal := .next (uopWord 0x15 f s)

/-- UIMUL (R332). -/
def execUimul (f : UWord) (s : State) : Host.Outcome State Fault Refusal := .next (uopWord 0x16 f s)

/-- UIMAD (R332). -/
def execUimad (f : UWord) (s : State) : Host.Outcome State Fault Refusal := .next (uopWord 0x17 f s)

/-- UAND (R332). -/
def execUand (f : UWord) (s : State) : Host.Outcome State Fault Refusal := .next (uopWord 0x18 f s)

/-- UIOR (R332). -/
def execUior (f : UWord) (s : State) : Host.Outcome State Fault Refusal := .next (uopWord 0x19 f s)

/-- UXOR (R332). -/
def execUxor (f : UWord) (s : State) : Host.Outcome State Fault Refusal := .next (uopWord 0x1A f s)

/-- USHL (R332). -/
def execUshl (f : UWord) (s : State) : Host.Outcome State Fault Refusal := .next (uopWord 0x1B f s)

/-- USHR (R332). -/
def execUshr (f : UWord) (s : State) : Host.Outcome State Fault Refusal := .next (uopWord 0x1C f s)

/-- USHRA (R332). -/
def execUshra (f : UWord) (s : State) : Host.Outcome State Fault Refusal := .next (uopWord 0x1D f s)

/-- UPOPC (R332). -/
def execUpopc (f : UWord) (s : State) : Host.Outcome State Fault Refusal := .next (uopWord 0x1E f s)

/-- UCLZ (R332). -/
def execUclz (f : UWord) (s : State) : Host.Outcome State Fault Refusal := .next (uopWord 0x1F f s)

/-- UIABS (R332). -/
def execUiabs (f : UWord) (s : State) : Host.Outcome State Fault Refusal := .next (uopWord 0x20 f s)

/-- UADDS (R332). -/
def execUadds (f : UWord) (s : State) : Host.Outcome State Fault Refusal := .next (uopWord 0x21 f s)

/-- USUBS (R332). -/
def execUsubs (f : UWord) (s : State) : Host.Outcome State Fault Refusal := .next (uopWord 0x22 f s)

/-- UBSEL (R332). -/
def execUbsel (f : UWord) (s : State) : Host.Outcome State Fault Refusal := .next (uopWord 0x23 f s)

/-- UROT (R332). -/
def execUrot (f : UWord) (s : State) : Host.Outcome State Fault Refusal := .next (uopWord 0x24 f s)

/-- UBCAST (R332). -/
def execUbcast (f : UWord) (s : State) : Host.Outcome State Fault Refusal := .next (uopWord 0x25 f s)

/-- UPERM (R332). -/
def execUperm (f : UWord) (s : State) : Host.Outcome State Fault Refusal := .next (uopWord 0x26 f s)

/-- USUM (R332). -/
def execUsum (f : UWord) (s : State) : Host.Outcome State Fault Refusal := .next (uopWord 0x27 f s)

/-- UMAXR (R332). -/
def execUmaxr (f : UWord) (s : State) : Host.Outcome State Fault Refusal := .next (uopWord 0x28 f s)

/-- UEXP2_F (R332). -/
def execUexp2F (f : UWord) (s : State) : Host.Outcome State Fault Refusal := .next (uopWord 0x30 f s)

/-- UEXP2_R (R332). -/
def execUexp2R (f : UWord) (s : State) : Host.Outcome State Fault Refusal := .next (uopWord 0x31 f s)

/-- ULOG2_F (R332). -/
def execUlog2F (f : UWord) (s : State) : Host.Outcome State Fault Refusal := .next (uopWord 0x32 f s)

/-- ULOG2_R (R332). -/
def execUlog2R (f : UWord) (s : State) : Host.Outcome State Fault Refusal := .next (uopWord 0x33 f s)

/-- URCP_F (R332). -/
def execUrcpF (f : UWord) (s : State) : Host.Outcome State Fault Refusal := .next (uopWord 0x34 f s)

/-- URCP_R (R332). -/
def execUrcpR (f : UWord) (s : State) : Host.Outcome State Fault Refusal := .next (uopWord 0x35 f s)

/-- URSQ_F (R332). -/
def execUrsqF (f : UWord) (s : State) : Host.Outcome State Fault Refusal := .next (uopWord 0x36 f s)

/-- URSQ_R (R332). -/
def execUrsqR (f : UWord) (s : State) : Host.Outcome State Fault Refusal := .next (uopWord 0x37 f s)

/-- USINPI_F (R332). -/
def execUsinpiF (f : UWord) (s : State) : Host.Outcome State Fault Refusal := .next (uopWord 0x38 f s)

/-- USINPI_R (R332). -/
def execUsinpiR (f : UWord) (s : State) : Host.Outcome State Fault Refusal := .next (uopWord 0x39 f s)

/-- UCOSPI_F (R332). -/
def execUcospiF (f : UWord) (s : State) : Host.Outcome State Fault Refusal := .next (uopWord 0x3A f s)

/-- UCOSPI_R (R332). -/
def execUcospiR (f : UWord) (s : State) : Host.Outcome State Fault Refusal := .next (uopWord 0x3B f s)

/-- UTANH_F (R332). -/
def execUtanhF (f : UWord) (s : State) : Host.Outcome State Fault Refusal := .next (uopWord 0x3C f s)

/-- UTANH_R (R332). -/
def execUtanhR (f : UWord) (s : State) : Host.Outcome State Fault Refusal := .next (uopWord 0x3D f s)

/-- USIGM_F (R332). -/
def execUsigmF (f : UWord) (s : State) : Host.Outcome State Fault Refusal := .next (uopWord 0x3E f s)

/-- USIGM_R (R332). -/
def execUsigmR (f : UWord) (s : State) : Host.Outcome State Fault Refusal := .next (uopWord 0x3F f s)

end Sys2Proof.Machine
end

