-- ==== Sys2Proof/Machine/Store.lean ====
section
/-! DEFINITION. The control store: banks, the verifier and CSLOAD (spec/17_control_store.md R325 to R328; spec/04_reeve.md
R105). -/

namespace Sys2Proof.Machine

open Sys2Proof

/-- Micro-op code of a word. -/
def uCode (w : Nat) : Nat := w / 2 ^ 58 % 64

/-- The word index of the ULEND of a ULOOP at index i (R333). -/
def loopEnd (words : List Nat) (i : Nat) : Nat :=
  let f := uopFields (words[i]?.getD 0)
  i + 1 + 32 * f.s2.toNat + f.s3.toNat

/-- Whether a USKIP at index i breaks code 5; `loops` holds the ends of the loop bodies that it stands in, innermost first. -/
def skipBad (words : List Nat) (i : Nat) (loops : List Nat) : Bool :=
  let t := i + 1 + (uopFields (words[i]?.getD 0)).imm.toNat % 256
  decide (words.length ≤ t) || (match loops with | e :: _ => decide (e < t) | [] => false) ||
    (upTo (t - (i + 1))).any (fun k => decide (uCode (words[i + 1 + k]?.getD 0) = 0x29) && decide (t ≤ loopEnd words (i + 1 + k)))

/-- The lowest code that the word at index i breaks; 0 for none. `run` counts the words without END that end before it. -/
def wordCode (words : List Nat) (i run : Nat) (loops : List Nat) : Nat :=
  let w := words[i]?.getD 0
  let code := uCode w
  let f := uopFields w
  let e := loopEnd words i
  let control := decide (code = 0x29) || decide (code = 0x2A) || decide (code = 0x2B)
  if w / 65536 % 131072 ≠ 0 ∨ uBreaks3 code f = true then 3
  else if uBreaks4 code f then 4
  else if (decide (code = 0x2A) && !(match loops with | x :: _ => decide (x = i) | [] => false)) ||
      (decide (code = 0x2B) && skipBad words i loops) ||
      (decide (code = 0x29) && (decide (words.length ≤ e) || decide (uCode (words[e]?.getD 0) ≠ 0x2A) ||
        loops.any (fun x => decide (x < e)))) then 5
  else if code = 0x29 ∧ 2 ≤ loops.length then 6
  else if (f.fin && (control || !loops.isEmpty)) || (!f.fin && (decide (run = 256) || decide (i + 1 = words.length))) then 7
  else 0

/-- Checks words from index i on: the first broken code with its index (R328). -/
def verifyFrom (words : List Nat) : Nat → Nat → Nat → List Nat → Option (Nat × Nat)
  | 0, _, _, _ => none
  | n + 1, i, run, loops =>
    let ls := loops.filter (fun e => decide (i ≤ e))
    let w := words[i]?.getD 0
    let code := wordCode words i run ls
    if code ≠ 0 then some (code, i)
    else
      let f := uopFields w
      verifyFrom words n (i + 1) (if f.fin then 0 else run + 1)
        (if uCode w = 0x29 then loopEnd words i :: ls else ls)

/-- The verifier (R328). -/
def verify (words : List Nat) : Option (Nat × Nat) := verifyFrom words words.length 0 0 []

/-- Whether an invocation runs from a bank (R327). -/
def bankInUse (s : State) (b : Nat) : Bool := s.vec.cu.running && !s.vec.cu.stopped && decide (s.vec.cu.bank = b)

/-- Whether a header breaks code 2 of R328. -/
def headerBad (h : List Byte) : Bool :=
  decide (leAt h 0 2 = 0) || decide (leAt h 2 2 = 0) || decide (2048 < leAt h 2 2) || !zeroAt h 4 60

/-- Writes an image into a bank and sets its tag; any other bank that holds the pair is invalidated (R325, R327). -/
def loadBank (b ver : Nat) (words : List Nat) (s : State) : State :=
  let tag := some (s.cell.task.ctx, ver, words.length)
  let same (t : Option (Nat × Nat × Nat)) : Bool :=
    match t with
    | some (c, v, _) => decide (c = s.cell.task.ctx) && decide (v = ver)
    | none => false
  mapCell (fun k =>
    { k with cs := (words.mapIdx (fun i w => (2048 * b + i, BitVec.ofNat 64 w))).foldl (fun m p => sset 0 m p.1 p.2) k.cs,
             csTag := vset (k.csTag.map (fun t => if same t then none else t)) b tag }) s

/-- Steps 3 to 5 of a CSLOAD that a cluster has issued: once no invocation runs from its bank, the bank's tag becomes invalid; the
verifier looks at one word a cycle, and an image it passes is written and named by the tag when it finishes; the status is written
4 cycles after that (R327). -/
def cslStep (c : Fin 4) (s : State) : State :=
  match (clus s c).csl with
  | none => s
  | some x =>
    let verified (left : Nat) (s : State) : State :=
      if left = 4 then (match x.words with | some ws => loadBank x.bank x.ver ws s | none => s) else s
    match x.left with
    | none =>
        if bankInUse s x.bank then s
        else
          verified (x.count + 4) (mapCell (fun k => { k with csTag := vset k.csTag x.bank none })
            (mapClus c (fun k => { k with csl := some { x with left := some (x.count + 4) } }) s))
    | some n =>
        if n ≤ 2 then
          giveResult c 1 x.dest (BitVec.ofNat 64 x.status) false (mapClus c (fun k => { k with csl := none, stat := .issuing }) s)
        else verified (n - 1) (mapClus c (fun k => { k with csl := some { x with left := some (n - 1) } }) s)

/-- What the verifier answers for a header and the words behind it: the words of an image that passes, and the status (R328). -/
def imageStatus (h bs : List Byte) : Option (List Nat) × Nat :=
  if headerBad h then (none, 2)
  else
    let words := (upTo (leAt h 2 2)).map (fun i => leAt bs (8 * i) 8)
    match verify words with
    | some (code, i) => (none, code + i * 2 ^ 16)
    | none => (some words, 0)

/-- Reads a block of an image; an access violation traps with the failing address (R327). -/
def imageBlock (a : BitVec 5) (ea : Word) (n : Nat) (k : List Byte → State → State) (s : State) : State :=
  if !(clus s s.cur).loads.isEmpty then holdWith .waiting .scoreboard s
  else if n = 0 then k [] s
  else
    match readBlock s.cur.val (clus s s.cur).sup ea n s with
    | .ok bs p ps => readPieces a p ps (k bs) s
    | .wait s' => holdMiss s.cur.val s'
    | .deny x s' => trapHere cAccess x s'

/-- CSLOAD d, a, b: loads and verifies an image; in user mode the privilege trap (R105, R327). The word issues when its image has
been read; from then on the cluster waits until the bank is free (R428). -/
def execCsload (_y : Bool) (w : BitVec 2) (d a b : BitVec 5) (s : State) : Host.Outcome State Fault Refusal :=
  .next (if !(clus s s.cur).sup then trapWord cPrivilege s
    else
      reeve [a, b] [d] (fun s =>
        let ea := rd s a
        let bank := (rd s b).toNat
        if ea.toNat % 64 ≠ 0 ∨ nb ea.toNat 48 16 ≠ 0 ∨ 4 ≤ bank then putResult 1 d 1 (advance w s)
        else
          imageBlock a ea 64 (fun h s =>
            imageBlock a (ea + 64) (8 * leAt h 2 2) (fun bs s =>
              let r := imageStatus h bs
              cslStep s.cur (mapClus s.cur (fun k => { k with
                csl := some { bank, ver := leAt h 0 2, words := r.1, status := r.2, dest := d, count := leAt h 2 2, left := none }, stat := .waiting, wait := .none })
                (advance w s))) s) s) s)

end Sys2Proof.Machine
end

