-- ==== Sys2Proof/Machine/Dispatch.lean ====
section
/-! DEFINITION. The meaning of every instruction: one arm per constructor of Instr. -/

namespace Sys2Proof.Machine

open Sys2Proof

def exec (i : Instr) (s : State) : Host.Outcome State Fault Refusal :=
  match i with
  | .nop y w => Sys2Proof.Machine.execNop y w s
  | .halt y w => Sys2Proof.Machine.execHalt y w s
  | .wfe y w => Sys2Proof.Machine.execWfe y w s
  | .trap y w c => Sys2Proof.Machine.execTrap y w c s
  | .eret y w => Sys2Proof.Machine.execEret y w s
  | .segb y w a => Sys2Proof.Machine.execSegb y w a s
  | .sege y w => Sys2Proof.Machine.execSege y w s
  | .replay y w a => Sys2Proof.Machine.execReplay y w a s
  | .ppt y w d => Sys2Proof.Machine.execPpt y w d s
  | .csload y w d a b => Sys2Proof.Machine.execCsload y w d a b s
  | .add y w d a b => Sys2Proof.Machine.execAdd y w d a b s
  | .sub y w d a b => Sys2Proof.Machine.execSub y w d a b s
  | .and y w d a b => Sys2Proof.Machine.execAnd y w d a b s
  | .or y w d a b => Sys2Proof.Machine.execOr y w d a b s
  | .xor y w d a b => Sys2Proof.Machine.execXor y w d a b s
  | .andn y w d a b => Sys2Proof.Machine.execAndn y w d a b s
  | .shl y w d a b => Sys2Proof.Machine.execShl y w d a b s
  | .shrl y w d a b => Sys2Proof.Machine.execShrl y w d a b s
  | .shra y w d a b => Sys2Proof.Machine.execShra y w d a b s
  | .rotl y w d a b => Sys2Proof.Machine.execRotl y w d a b s
  | .min y w d a b => Sys2Proof.Machine.execMin y w d a b s
  | .max y w d a b => Sys2Proof.Machine.execMax y w d a b s
  | .minn y w d a b => Sys2Proof.Machine.execMinn y w d a b s
  | .maxn y w d a b => Sys2Proof.Machine.execMaxn y w d a b s
  | .cmpeq y w d a b => Sys2Proof.Machine.execCmpeq y w d a b s
  | .cmpne y w d a b => Sys2Proof.Machine.execCmpne y w d a b s
  | .cmplt y w d a b => Sys2Proof.Machine.execCmplt y w d a b s
  | .cmpltn y w d a b => Sys2Proof.Machine.execCmpltn y w d a b s
  | .clz y w d a => Sys2Proof.Machine.execClz y w d a s
  | .popc y w d a => Sys2Proof.Machine.execPopc y w d a s
  | .sel y w d a b => Sys2Proof.Machine.execSel y w d a b s
  | .mul y w d a b => Sys2Proof.Machine.execMul y w d a b s
  | .mulh y w d a b => Sys2Proof.Machine.execMulh y w d a b s
  | .mulhn y w d a b => Sys2Proof.Machine.execMulhn y w d a b s
  | .div y w d a b => Sys2Proof.Machine.execDiv y w d a b s
  | .divn y w d a b => Sys2Proof.Machine.execDivn y w d a b s
  | .rem y w d a b => Sys2Proof.Machine.execRem y w d a b s
  | .remn y w d a b => Sys2Proof.Machine.execRemn y w d a b s
  | .addi y w d a im => Sys2Proof.Machine.execAddi y w d a im s
  | .andi y w d a im => Sys2Proof.Machine.execAndi y w d a im s
  | .ori y w d a im => Sys2Proof.Machine.execOri y w d a im s
  | .xori y w d a im => Sys2Proof.Machine.execXori y w d a im s
  | .shli y w d a im => Sys2Proof.Machine.execShli y w d a im s
  | .shrli y w d a im => Sys2Proof.Machine.execShrli y w d a im s
  | .shrai y w d a im => Sys2Proof.Machine.execShrai y w d a im s
  | .cmpeqi y w d a im => Sys2Proof.Machine.execCmpeqi y w d a im s
  | .cmplti y w d a im => Sys2Proof.Machine.execCmplti y w d a im s
  | .limm y w d im => Sys2Proof.Machine.execLimm y w d im s
  | .limms y w d im => Sys2Proof.Machine.execLimms y w d im s
  | .mfsr y w d r => Sys2Proof.Machine.execMfsr y w d r s
  | .mtsr y w a r => Sys2Proof.Machine.execMtsr y w a r s
  | .ldb y w d a im => Sys2Proof.Machine.execLdb y w d a im s
  | .ldh y w d a im => Sys2Proof.Machine.execLdh y w d a im s
  | .ldw y w d a im => Sys2Proof.Machine.execLdw y w d a im s
  | .ldd y w d a im => Sys2Proof.Machine.execLdd y w d a im s
  | .ldws y w d a im => Sys2Proof.Machine.execLdws y w d a im s
  | .stb y w v a o => Sys2Proof.Machine.execStb y w v a o s
  | .sth y w v a o => Sys2Proof.Machine.execSth y w v a o s
  | .stw y w v a o => Sys2Proof.Machine.execStw y w v a o s
  | .std y w v a o => Sys2Proof.Machine.execStd y w v a o s
  | .stf y w v a o => Sys2Proof.Machine.execStf y w v a o s
  | .amoAdd y w d a b z => Sys2Proof.Machine.execAmoAdd y w d a b z s
  | .amoAnd y w d a b z => Sys2Proof.Machine.execAmoAnd y w d a b z s
  | .amoOr y w d a b z => Sys2Proof.Machine.execAmoOr y w d a b z s
  | .amoXor y w d a b z => Sys2Proof.Machine.execAmoXor y w d a b z s
  | .amoMin y w d a b z => Sys2Proof.Machine.execAmoMin y w d a b z s
  | .amoMax y w d a b z => Sys2Proof.Machine.execAmoMax y w d a b z s
  | .amoMinn y w d a b z => Sys2Proof.Machine.execAmoMinn y w d a b z s
  | .amoMaxn y w d a b z => Sys2Proof.Machine.execAmoMaxn y w d a b z s
  | .amoSwap y w d a b z => Sys2Proof.Machine.execAmoSwap y w d a b z s
  | .cas y w d a b z => Sys2Proof.Machine.execCas y w d a b z s
  | .qalign y w => Sys2Proof.Machine.execQalign y w s
  | .fenceCell y w => Sys2Proof.Machine.execFenceCell y w s
  | .fenceQuad y w => Sys2Proof.Machine.execFenceQuad y w s
  | .fenceDie y w => Sys2Proof.Machine.execFenceDie y w s
  | .fenceDev y w => Sys2Proof.Machine.execFenceDev y w s
  | .fenceSys y w => Sys2Proof.Machine.execFenceSys y w s
  | .fenceMs y w => Sys2Proof.Machine.execFenceMs y w s
  | .br y w o => Sys2Proof.Machine.execBr y w o s
  | .beqz y w a o => Sys2Proof.Machine.execBeqz y w a o s
  | .bnez y w a o => Sys2Proof.Machine.execBnez y w a o s
  | .bltz y w a o => Sys2Proof.Machine.execBltz y w a o s
  | .bgez y w a o => Sys2Proof.Machine.execBgez y w a o s
  | .call y w o => Sys2Proof.Machine.execCall y w o s
  | .jr y w a => Sys2Proof.Machine.execJr y w a s
  | .jtab y w d a n => Sys2Proof.Machine.execJtab y w d a n s
  | .mark y w m k => Sys2Proof.Machine.execMark y w m k s
  | .rdvArm y w m im k => Sys2Proof.Machine.execRdvArm y w m im k s
  | .rdvWait y w im => Sys2Proof.Machine.execRdvWait y w im s
  | .rdvAw y w m im k => Sys2Proof.Machine.execRdvAw y w m im k s
  | .fork y w d a b => Sys2Proof.Machine.execFork y w d a b s
  | .forkV y w d a => Sys2Proof.Machine.execForkV y w d a s
  | .forkM y w d b => Sys2Proof.Machine.execForkM y w d b s
  | .forkE y w d => Sys2Proof.Machine.execForkE y w d s
  | .forkEV y w d => Sys2Proof.Machine.execForkEV y w d s
  | .forkEM y w d => Sys2Proof.Machine.execForkEM y w d s
  | .evsetLoad y w d a => Sys2Proof.Machine.execEvsetLoad y w d a s
  | .evsetZero y w d => Sys2Proof.Machine.execEvsetZero y w d s
  | .evsetClear y w d => Sys2Proof.Machine.execEvsetClear y w d s
  | .evsetCount y w d a => Sys2Proof.Machine.execEvsetCount y w d a s
  | .job y w d a => Sys2Proof.Machine.execJob y w d a s
  | .swinit y w d a b => Sys2Proof.Machine.execSwinit y w d a b s
  | .swinitZ y w d a b => Sys2Proof.Machine.execSwinitZ y w d a b s
  | .swait y w d a b => Sys2Proof.Machine.execSwait y w d a b s
  | .swaddCell y w d a b => Sys2Proof.Machine.execSwaddCell y w d a b s
  | .swaddQuad y w d a b => Sys2Proof.Machine.execSwaddQuad y w d a b s
  | .tlook y w d a => Sys2Proof.Machine.execTlook y w d a s
  | .tset y w d a b => Sys2Proof.Machine.execTset y w d a b s
  | .tinvSlot y w d a => Sys2Proof.Machine.execTinvSlot y w d a s
  | .tinvKey y w d a => Sys2Proof.Machine.execTinvKey y w d a s
  | .tinvAll y w d => Sys2Proof.Machine.execTinvAll y w d s
  | .ringset y w d a b r => Sys2Proof.Machine.execRingset y w d a b r s
  | .ringadvP y w d a r => Sys2Proof.Machine.execRingadvP y w d a r s
  | .ringadvC y w d a r => Sys2Proof.Machine.execRingadvC y w d a r s
  | .csbind y w d a b n => Sys2Proof.Machine.execCsbind y w d a b n s
  | .csbindU y w d n => Sys2Proof.Machine.execCsbindU y w d n s
  | .csbindR y w d n => Sys2Proof.Machine.execCsbindR y w d n s
  | .cgrp y w d a g => Sys2Proof.Machine.execCgrp y w d a g s
  | .cgrpD y w d g => Sys2Proof.Machine.execCgrpD y w d g s
  | .cgrpQ y w d g => Sys2Proof.Machine.execCgrpQ y w d g s
  | .cgrpL y w d g => Sys2Proof.Machine.execCgrpL y w d g s
  | .cldred y w d a => Sys2Proof.Machine.execCldred y w d a s
  | .crot y w d a => Sys2Proof.Machine.execCrot y w d a s
  | .cpair y w d a => Sys2Proof.Machine.execCpair y w d a s
  | .logapp y w d a => Sys2Proof.Machine.execLogapp y w d a s
  | .logappA y w d a => Sys2Proof.Machine.execLogappA y w d a s
  | .logpull y w d a => Sys2Proof.Machine.execLogpull y w d a s
  | .msupd y w d a => Sys2Proof.Machine.execMsupd y w d a s
  | .captS y w d => Sys2Proof.Machine.execCaptS y w d s
  | .captW y w d a => Sys2Proof.Machine.execCaptW y w d a s
  | .digest y w d a l => Sys2Proof.Machine.execDigest y w d a l s
  | .digestN y w d l => Sys2Proof.Machine.execDigestN y w d l s
  | .clustergoWrite c mask => Sys2Proof.Machine.execClustergoWrite c mask s
  | .preemptYield => Sys2Proof.Machine.execPreemptYield s
  | .preemptHoldExpiry => Sys2Proof.Machine.execPreemptHoldExpiry s
  | .logbaseWrite c v => Sys2Proof.Machine.execLogbaseWrite c v s
  | .registerWrite fn off v => Sys2Proof.Machine.execRegisterWrite fn off v s
  | .trapDelivery => Sys2Proof.Machine.execTrapDelivery s
  | .wfeWake c => Sys2Proof.Machine.execWfeWake c s
  | .loadDataReturn c => Sys2Proof.Machine.execLoadDataReturn c s
  | .globalResponseReturn q dev epoch path seq ok data => Sys2Proof.Machine.execGlobalResponseReturn q dev epoch path seq ok data s
  | .walkComplete k => Sys2Proof.Machine.execWalkComplete k s
  | .faultQueueRoom => Sys2Proof.Machine.execFaultQueueRoom s
  | .pfresRetry id => Sys2Proof.Machine.execPfresRetry id s
  | .pfresInvalid id => Sys2Proof.Machine.execPfresInvalid id s
  | .tlbinvPage ctx vpn => Sys2Proof.Machine.execTlbinvPage ctx vpn s
  | .tlbinvContext at_ => Sys2Proof.Machine.execTlbinvContext at_ s
  | .tlbinvAll => Sys2Proof.Machine.execTlbinvAll s
  | .tlbinvComplete => Sys2Proof.Machine.execTlbinvComplete s
  | .vectorResultLand => Sys2Proof.Machine.execVectorResultLand s
  | .vectorLoadLaneArrive lane => Sys2Proof.Machine.execVectorLoadLaneArrive lane s
  | .vectorStoreLand => Sys2Proof.Machine.execVectorStoreLand s
  | .portElementFetch p => Sys2Proof.Machine.execPortElementFetch p s
  | .portElementWrite p => Sys2Proof.Machine.execPortElementWrite p s
  | .matrixWordComplete => Sys2Proof.Machine.execMatrixWordComplete s
  | .matrixWordStart => Sys2Proof.Machine.execMatrixWordStart s
  | .rdvWaitRelease eng => Sys2Proof.Machine.execRdvWaitRelease eng s
  | .syncWaitRelease eng => Sys2Proof.Machine.execSyncWaitRelease eng s
  | .sluicePulse => Sys2Proof.Machine.execSluicePulse s
  | .sluiceTermFire term => Sys2Proof.Machine.execSluiceTermFire term s
  | .sluiceVectorResume => Sys2Proof.Machine.execSluiceVectorResume s
  | .sluiceMatrixResume => Sys2Proof.Machine.execSluiceMatrixResume s
  | .sluiceJobRelease line => Sys2Proof.Machine.execSluiceJobRelease line s
  | .sluiceCollRelease => Sys2Proof.Machine.execSluiceCollRelease s
  | .sluiceWake mask => Sys2Proof.Machine.execSluiceWake mask s
  | .jobStart adm => Sys2Proof.Machine.execJobStart adm s
  | .jobChunkComplete adm => Sys2Proof.Machine.execJobChunkComplete adm s
  | .jobComplete adm => Sys2Proof.Machine.execJobComplete adm s
  | .collCmdStart adm => Sys2Proof.Machine.execCollCmdStart adm s
  | .collCmdComplete adm => Sys2Proof.Machine.execCollCmdComplete adm s
  | .presenceRequestReceive p grp call rank kind elems out32 => Sys2Proof.Machine.execPresenceRequestReceive p grp call rank kind elems out32 s
  | .presenceReportReceive p g call rank absent kind elems out32 => Sys2Proof.Machine.execPresenceReportReceive p g call rank absent kind elems out32 s
  | .collVerdictReceive p g call absent => Sys2Proof.Machine.execCollVerdictReceive p g call absent s
  | .collDataChunkReceive p g call rank chunk data => Sys2Proof.Machine.execCollDataChunkReceive p g call rank chunk data s
  | .collFaultNotice p g call mismatch => Sys2Proof.Machine.execCollFaultNotice p g call mismatch s
  | .crotBlockReceive p grp call block => Sys2Proof.Machine.execCrotBlockReceive p grp call block s
  | .crotAbortReceive p g call absent => Sys2Proof.Machine.execCrotAbortReceive p g call absent s
  | .logReceive p entry original => Sys2Proof.Machine.execLogReceive p entry original s
  | .logpullRequestReceive p adm step slot => Sys2Proof.Machine.execLogpullRequestReceive p adm step slot s
  | .logpullAnswerReceive ctx adm step slot answer gone => Sys2Proof.Machine.execLogpullAnswerReceive ctx adm step slot answer gone s
  | .mendersCmdStart adm => Sys2Proof.Machine.execMendersCmdStart adm s
  | .mendersChunk adm => Sys2Proof.Machine.execMendersChunk adm s
  | .mendersCmdComplete adm => Sys2Proof.Machine.execMendersCmdComplete adm s
  | .requestPacketArrive src q ctx epoch path seq sup kind va data sp => Sys2Proof.Machine.execRequestPacketArrive src q ctx epoch path seq sup kind va data sp s
  | .packetForward dst tag hops src by_ epoch seq => Sys2Proof.Machine.execPacketForward dst tag hops src by_ epoch seq s
  | .packetAckReceive q dev epoch path seq bytes => Sys2Proof.Machine.execPacketAckReceive q dev epoch path seq bytes s
  | .rerouteNotice q dev epoch path seq => Sys2Proof.Machine.execRerouteNotice q dev epoch path seq s
  | .unreachableNotice q dev epoch path seq => Sys2Proof.Machine.execUnreachableNotice q dev epoch path seq s
  | .busyNotice q dev epoch path seq => Sys2Proof.Machine.execBusyNotice q dev epoch path seq s
  | .cancelReceive src q epoch path seq => Sys2Proof.Machine.execCancelReceive src q epoch path seq s
  | .closeReceive src q epoch => Sys2Proof.Machine.execCloseReceive src q epoch s
  | .flitReceive port kind seq ack enc checkOk slot => Sys2Proof.Machine.execFlitReceive port kind seq ack enc checkOk slot s
  | .nakReceive port seq => Sys2Proof.Machine.execNakReceive port seq s
  | .retryBufferResend port => Sys2Proof.Machine.execRetryBufferResend port s
  | .linkDeath port => Sys2Proof.Machine.execLinkDeath port s
  | .linkTrained port => Sys2Proof.Machine.execLinkTrained port s
  | .keyMarkerReceive port => Sys2Proof.Machine.execKeyMarkerReceive port s
  | .keyLoad port slot => Sys2Proof.Machine.execKeyLoad port slot s
  | .lkctlSwitch port => Sys2Proof.Machine.execLkctlSwitch port s
  | .keylimReached port => Sys2Proof.Machine.execKeylimReached port s
  | .frtload => Sys2Proof.Machine.execFrtload s
  | .flinkdn ports => Sys2Proof.Machine.execFlinkdn ports s
  | .launchArrival fn q tail slots => Sys2Proof.Machine.execLaunchArrival fn q tail slots s
  | .firmwareBind q num gangs cells => Sys2Proof.Machine.execFirmwareBind q num gangs cells s
  | .armedWithdraw q => Sys2Proof.Machine.execArmedWithdraw q s
  | .taskRetire cell => Sys2Proof.Machine.execTaskRetire cell s
  | .launchEnd q num => Sys2Proof.Machine.execLaunchEnd q num s
  | .qsheadWrite fn q v => Sys2Proof.Machine.execQsheadWrite fn q v s
  | .syncaddWrite ctx index n => Sys2Proof.Machine.execSyncaddWrite ctx index n s
  | .lctlKill fn q num => Sys2Proof.Machine.execLctlKill fn q num s
  | .lctlPreempt fn q num => Sys2Proof.Machine.execLctlPreempt fn q num s
  | .lctlRelease fn q num => Sys2Proof.Machine.execLctlRelease fn q num s
  | .preemptRequest q num => Sys2Proof.Machine.execPreemptRequest q num s
  | .preemptSave q num => Sys2Proof.Machine.execPreemptSave q num s
  | .quadGate quad => Sys2Proof.Machine.execQuadGate quad s
  | .quadWakeComplete quad => Sys2Proof.Machine.execQuadWakeComplete quad s
  | .uopResultLand => Sys2Proof.Machine.execUopResultLand s
  | .dramReadCorrected addr symbol stack pc cell eng => Sys2Proof.Machine.execDramReadCorrected addr symbol stack pc cell eng s
  | .dramReadUncorrectable addr symbol stack pc cell eng => Sys2Proof.Machine.execDramReadUncorrectable addr symbol stack pc cell eng s
  | .dramParityError addr stack pc lane retry cell eng => Sys2Proof.Machine.execDramParityError addr stack pc lane retry cell eng s
  | .laneCountDecay stack pc lane => Sys2Proof.Machine.execLaneCountDecay stack pc lane s
  | .sramCorrected kind index => Sys2Proof.Machine.execSramCorrected kind index s
  | .sramUncorrectable kind index => Sys2Proof.Machine.execSramUncorrectable kind index s
  | .scrubRead at_ symbol found last => Sys2Proof.Machine.execScrubRead at_ symbol found last s
  | .ebClr bank => Sys2Proof.Machine.execEbClr bank s
  | .ebClrcnt bank => Sys2Proof.Machine.execEbClrcnt bank s
  | .pageCapture ctx claim => Sys2Proof.Machine.execPageCapture ctx claim s
  | .captureComplete ctx page ok => Sys2Proof.Machine.execCaptureComplete ctx page ok s
  | .sweepEnd ctx => Sys2Proof.Machine.execSweepEnd ctx s
  | .hostBar2Access write addr data => Sys2Proof.Machine.execHostBar2Access write addr data s
  | .powerOn failPhase => Sys2Proof.Machine.execPowerOn failPhase s
  | .bootctlCold failPhase => Sys2Proof.Machine.execBootctlCold failPhase s
  | .bootctlWarm failPhase recordVerifies => Sys2Proof.Machine.execBootctlWarm failPhase recordVerifies s
  | .voltageStep quad up => Sys2Proof.Machine.execVoltageStep quad up s
  | .clockStretch => Sys2Proof.Machine.execClockStretch s
  | .contextDeparture ctx => Sys2Proof.Machine.execContextDeparture ctx s
  | .firmwareArm q header gangs cells => Sys2Proof.Machine.execFirmwareArm q header gangs cells s
  | .reeveResultLand c => Sys2Proof.Machine.execReeveResultLand c s
  | .pcieError addr info => Sys2Proof.Machine.execPcieError addr info s
  | .internalError info => Sys2Proof.Machine.execInternalError info s
  | .vnop f => Sys2Proof.Machine.execVnop f s
  | .vhalt f => Sys2Proof.Machine.execVhalt f s
  | .vbr f => Sys2Proof.Machine.execVbr f s
  | .vbrz f => Sys2Proof.Machine.execVbrz f s
  | .vcall f => Sys2Proof.Machine.execVcall f s
  | .vret f => Sys2Proof.Machine.execVret f s
  | .vloop f => Sys2Proof.Machine.execVloop f s
  | .vlexitD f => Sys2Proof.Machine.execVlexitD f s
  | .vlexitI f => Sys2Proof.Machine.execVlexitI f s
  | .vwait f => Sys2Proof.Machine.execVwait f s
  | .vsig f => Sys2Proof.Machine.execVsig f s
  | .vrdv f => Sys2Proof.Machine.execVrdv f s
  | .vsegOpen f => Sys2Proof.Machine.execVsegOpen f s
  | .vsegClose f => Sys2Proof.Machine.execVsegClose f s
  | .vtrap f => Sys2Proof.Machine.execVtrap f s
  | .vppt f => Sys2Proof.Machine.execVppt f s
  | .vqalign f => Sys2Proof.Machine.execVqalign f s
  | .vfence f => Sys2Proof.Machine.execVfence f s
  | .xadd f => Sys2Proof.Machine.execXadd f s
  | .xsub f => Sys2Proof.Machine.execXsub f s
  | .xmul f => Sys2Proof.Machine.execXmul f s
  | .xshl f => Sys2Proof.Machine.execXshl f s
  | .xshra f => Sys2Proof.Machine.execXshra f s
  | .xand f => Sys2Proof.Machine.execXand f s
  | .xior f => Sys2Proof.Machine.execXior f s
  | .xlimm f => Sys2Proof.Machine.execXlimm f s
  | .xlimmShift f => Sys2Proof.Machine.execXlimmShift f s
  | .xget f => Sys2Proof.Machine.execXget f s
  | .xput f => Sys2Proof.Machine.execXput f s
  | .xfsr f => Sys2Proof.Machine.execXfsr f s
  | .xtsr f => Sys2Proof.Machine.execXtsr f s
  | .xcmp f => Sys2Proof.Machine.execXcmp f s
  | .vadd f => Sys2Proof.Machine.execVadd f s
  | .vsub f => Sys2Proof.Machine.execVsub f s
  | .vmul f => Sys2Proof.Machine.execVmul f s
  | .vfma f => Sys2Proof.Machine.execVfma f s
  | .vfms f => Sys2Proof.Machine.execVfms f s
  | .vfnma f => Sys2Proof.Machine.execVfnma f s
  | .vmin f => Sys2Proof.Machine.execVmin f s
  | .vmax f => Sys2Proof.Machine.execVmax f s
  | .vabs f => Sys2Proof.Machine.execVabs f s
  | .vneg f => Sys2Proof.Machine.execVneg f s
  | .vcpys f => Sys2Proof.Machine.execVcpys f s
  | .vcmpeq f => Sys2Proof.Machine.execVcmpeq f s
  | .vcmplt f => Sys2Proof.Machine.execVcmplt f s
  | .vcmple f => Sys2Proof.Machine.execVcmple f s
  | .vcmpne f => Sys2Proof.Machine.execVcmpne f s
  | .vcmpun f => Sys2Proof.Machine.execVcmpun f s
  | .vsel f => Sys2Proof.Machine.execVsel f s
  | .vrnd f => Sys2Proof.Machine.execVrnd f s
  | .vcvt f => Sys2Proof.Machine.execVcvt f s
  | .vdot f => Sys2Proof.Machine.execVdot f s
  | .vscale f => Sys2Proof.Machine.execVscale f s
  | .vexpo f => Sys2Proof.Machine.execVexpo f s
  | .vclamp f => Sys2Proof.Machine.execVclamp f s
  | .vdiv f => Sys2Proof.Machine.execVdiv f s
  | .vsqrt f => Sys2Proof.Machine.execVsqrt f s
  | .viadd f => Sys2Proof.Machine.execViadd f s
  | .visub f => Sys2Proof.Machine.execVisub f s
  | .vimul f => Sys2Proof.Machine.execVimul f s
  | .vimad f => Sys2Proof.Machine.execVimad f s
  | .vand f => Sys2Proof.Machine.execVand f s
  | .vior f => Sys2Proof.Machine.execVior f s
  | .vxor f => Sys2Proof.Machine.execVxor f s
  | .vshl f => Sys2Proof.Machine.execVshl f s
  | .vshr f => Sys2Proof.Machine.execVshr f s
  | .vshra f => Sys2Proof.Machine.execVshra f s
  | .vpopc f => Sys2Proof.Machine.execVpopc f s
  | .vclz f => Sys2Proof.Machine.execVclz f s
  | .viabs f => Sys2Proof.Machine.execViabs f s
  | .vadds f => Sys2Proof.Machine.execVadds f s
  | .vsubs f => Sys2Proof.Machine.execVsubs f s
  | .vbsel f => Sys2Proof.Machine.execVbsel f s
  | .vexp2F f => Sys2Proof.Machine.execVexp2F f s
  | .vexp2R f => Sys2Proof.Machine.execVexp2R f s
  | .vlog2F f => Sys2Proof.Machine.execVlog2F f s
  | .vlog2R f => Sys2Proof.Machine.execVlog2R f s
  | .vrcpF f => Sys2Proof.Machine.execVrcpF f s
  | .vrcpR f => Sys2Proof.Machine.execVrcpR f s
  | .vrsqF f => Sys2Proof.Machine.execVrsqF f s
  | .vrsqR f => Sys2Proof.Machine.execVrsqR f s
  | .vsinpiF f => Sys2Proof.Machine.execVsinpiF f s
  | .vsinpiR f => Sys2Proof.Machine.execVsinpiR f s
  | .vcospiF f => Sys2Proof.Machine.execVcospiF f s
  | .vcospiR f => Sys2Proof.Machine.execVcospiR f s
  | .vtanhF f => Sys2Proof.Machine.execVtanhF f s
  | .vtanhR f => Sys2Proof.Machine.execVtanhR f s
  | .vsigmF f => Sys2Proof.Machine.execVsigmF f s
  | .vsigmR f => Sys2Proof.Machine.execVsigmR f s
  | .vmov f => Sys2Proof.Machine.execVmov f s
  | .vbcast f => Sys2Proof.Machine.execVbcast f s
  | .vperm f => Sys2Proof.Machine.execVperm f s
  | .vrot f => Sys2Proof.Machine.execVrot f s
  | .vsum f => Sys2Proof.Machine.execVsum f s
  | .vmaxr f => Sys2Proof.Machine.execVmaxr f s
  | .vamax f => Sys2Proof.Machine.execVamax f s
  | .vamrd f => Sys2Proof.Machine.execVamrd f s
  | .vscan f => Sys2Proof.Machine.execVscan f s
  | .vcomp f => Sys2Proof.Machine.execVcomp f s
  | .vrng f => Sys2Proof.Machine.execVrng f s
  | .vnoise f => Sys2Proof.Machine.execVnoise f s
  | .mpush f => Sys2Proof.Machine.execMpush f s
  | .minv f => Sys2Proof.Machine.execMinv f s
  | .mpop f => Sys2Proof.Machine.execMpop f s
  | .mand f => Sys2Proof.Machine.execMand f s
  | .mrd f => Sys2Proof.Machine.execMrd f s
  | .mset f => Sys2Proof.Machine.execMset f s
  | .vld f => Sys2Proof.Machine.execVld f s
  | .vst f => Sys2Proof.Machine.execVst f s
  | .vldg f => Sys2Proof.Machine.execVldg f s
  | .vstg f => Sys2Proof.Machine.execVstg f s
  | .vgath f => Sys2Proof.Machine.execVgath f s
  | .vscat f => Sys2Proof.Machine.execVscat f s
  | .portcfg f => Sys2Proof.Machine.execPortcfg f s
  | .portrst f => Sys2Proof.Machine.execPortrst f s
  | .cxn n f => Sys2Proof.Machine.execCxn n f s
  | .mnop f => Sys2Proof.Machine.execMnop f s
  | .mhalt f => Sys2Proof.Machine.execMhalt f s
  | .mbr f => Sys2Proof.Machine.execMbr f s
  | .mloop f => Sys2Proof.Machine.execMloop f s
  | .mwait f => Sys2Proof.Machine.execMwait f s
  | .msig f => Sys2Proof.Machine.execMsig f s
  | .mrdv f => Sys2Proof.Machine.execMrdv f s
  | .msegOpen f => Sys2Proof.Machine.execMsegOpen f s
  | .msegClose f => Sys2Proof.Machine.execMsegClose f s
  | .mloadw f => Sys2Proof.Machine.execMloadw f s
  | .mstepRow f => Sys2Proof.Machine.execMstepRow f s
  | .mstepCol f => Sys2Proof.Machine.execMstepCol f s
  | .mstepOuter f => Sys2Proof.Machine.execMstepOuter f s
  | .mstepSamp f => Sys2Proof.Machine.execMstepSamp f s
  | .mouter f => Sys2Proof.Machine.execMouter f s
  | .mdrain f => Sys2Proof.Machine.execMdrain f s
  | .mscld f => Sys2Proof.Machine.execMscld f s
  | .mzero f => Sys2Proof.Machine.execMzero f s
  | .mswap f => Sys2Proof.Machine.execMswap f s
  | .mnset f => Sys2Proof.Machine.execMnset f s
  | .mnest f => Sys2Proof.Machine.execMnest f s
  | .mnorm f => Sys2Proof.Machine.execMnorm f s
  | .malias f => Sys2Proof.Machine.execMalias f s
  | .msamp f => Sys2Proof.Machine.execMsamp f s
  | .mstat f => Sys2Proof.Machine.execMstat f s
  | .unop f => Sys2Proof.Machine.execUnop f s
  | .uadd f => Sys2Proof.Machine.execUadd f s
  | .usub f => Sys2Proof.Machine.execUsub f s
  | .umul f => Sys2Proof.Machine.execUmul f s
  | .ufma f => Sys2Proof.Machine.execUfma f s
  | .ufms f => Sys2Proof.Machine.execUfms f s
  | .ufnma f => Sys2Proof.Machine.execUfnma f s
  | .umin f => Sys2Proof.Machine.execUmin f s
  | .umax f => Sys2Proof.Machine.execUmax f s
  | .uabs f => Sys2Proof.Machine.execUabs f s
  | .uneg f => Sys2Proof.Machine.execUneg f s
  | .ucpys f => Sys2Proof.Machine.execUcpys f s
  | .ucmp f => Sys2Proof.Machine.execUcmp f s
  | .usel f => Sys2Proof.Machine.execUsel f s
  | .urnd f => Sys2Proof.Machine.execUrnd f s
  | .ucvt f => Sys2Proof.Machine.execUcvt f s
  | .udot f => Sys2Proof.Machine.execUdot f s
  | .uscale f => Sys2Proof.Machine.execUscale f s
  | .uexpo f => Sys2Proof.Machine.execUexpo f s
  | .uclamp f => Sys2Proof.Machine.execUclamp f s
  | .uiadd f => Sys2Proof.Machine.execUiadd f s
  | .uisub f => Sys2Proof.Machine.execUisub f s
  | .uimul f => Sys2Proof.Machine.execUimul f s
  | .uimad f => Sys2Proof.Machine.execUimad f s
  | .uand f => Sys2Proof.Machine.execUand f s
  | .uior f => Sys2Proof.Machine.execUior f s
  | .uxor f => Sys2Proof.Machine.execUxor f s
  | .ushl f => Sys2Proof.Machine.execUshl f s
  | .ushr f => Sys2Proof.Machine.execUshr f s
  | .ushra f => Sys2Proof.Machine.execUshra f s
  | .upopc f => Sys2Proof.Machine.execUpopc f s
  | .uclz f => Sys2Proof.Machine.execUclz f s
  | .uiabs f => Sys2Proof.Machine.execUiabs f s
  | .uadds f => Sys2Proof.Machine.execUadds f s
  | .usubs f => Sys2Proof.Machine.execUsubs f s
  | .ubsel f => Sys2Proof.Machine.execUbsel f s
  | .urot f => Sys2Proof.Machine.execUrot f s
  | .ubcast f => Sys2Proof.Machine.execUbcast f s
  | .uperm f => Sys2Proof.Machine.execUperm f s
  | .usum f => Sys2Proof.Machine.execUsum f s
  | .umaxr f => Sys2Proof.Machine.execUmaxr f s
  | .uloop f => Sys2Proof.Machine.execUloop f s
  | .ulend f => Sys2Proof.Machine.execUlend f s
  | .uskip f => Sys2Proof.Machine.execUskip f s
  | .umpush f => Sys2Proof.Machine.execUmpush f s
  | .umpop f => Sys2Proof.Machine.execUmpop f s
  | .uminv f => Sys2Proof.Machine.execUminv f s
  | .uexp2F f => Sys2Proof.Machine.execUexp2F f s
  | .uexp2R f => Sys2Proof.Machine.execUexp2R f s
  | .ulog2F f => Sys2Proof.Machine.execUlog2F f s
  | .ulog2R f => Sys2Proof.Machine.execUlog2R f s
  | .urcpF f => Sys2Proof.Machine.execUrcpF f s
  | .urcpR f => Sys2Proof.Machine.execUrcpR f s
  | .ursqF f => Sys2Proof.Machine.execUrsqF f s
  | .ursqR f => Sys2Proof.Machine.execUrsqR f s
  | .usinpiF f => Sys2Proof.Machine.execUsinpiF f s
  | .usinpiR f => Sys2Proof.Machine.execUsinpiR f s
  | .ucospiF f => Sys2Proof.Machine.execUcospiF f s
  | .ucospiR f => Sys2Proof.Machine.execUcospiR f s
  | .utanhF f => Sys2Proof.Machine.execUtanhF f s
  | .utanhR f => Sys2Proof.Machine.execUtanhR f s
  | .usigmF f => Sys2Proof.Machine.execUsigmF f s
  | .usigmR f => Sys2Proof.Machine.execUsigmR f s

end Sys2Proof.Machine
end

