-- ==== Sys2Proof/Machine/ReeveTurn.lean ====
section
/-! DEFINITION. One cycle of a Reeve cluster: its gap passes, a trap of another engine is taken at the word
boundary of c0, a word is fetched and decoded, and it or its whole bundle is executed (spec/03_streams.md R47 to R54;
spec/04_reeve.md R76, R77, R107, R428; spec/16_scheduling.md R322, R323). -/

namespace Sys2Proof.Machine

open Sys2Proof

/-- Runs a word of a cluster: what is no instruction raises the illegal-instruction trap (R69). -/
def runReeve (c : Fin 4) (w : Nat) (s : State) : Host.Outcome State Fault Refusal :=
  match decodeReeve w with
  | some i => exec i (wordState c w s)
  | none => .next (trapWord cIllegal (wordState c w s))

/-- Whether a cluster stands before its next word: it is active, past its gap and past a CSLOAD of its own, it was not started in
this cycle, and neither a stop nor, on c0, a trap of another engine or a HALT comes first (R53, R78, R105, R107, R322). -/
def mayIssue (c : Fin 4) (s : State) : Bool :=
  let k := clus s c
  k.active && decide (k.gap = 0) && k.csl.isNone && !s.startedNow.any (fun p => decide (p.1 = c.val)) && !streamStop s &&
    (decide (c ≠ 0) || (!trapReady s && !s.cell.halting))

/-- The word that a cluster presents for a bundle: it may issue and holds a Y-set word (R53). -/
def bundleWord (c : Fin 4) (s : State) : Option Nat :=
  if !mayIssue c s then none
  else
    match fetchReeve c s with
    | .word w => if w / 2 ^ 31 % 2 = 1 then some w else none
    | .other _ => none

/-- Runs words one after another, in rising cluster number, each on what the earlier ones left. -/
def runAll : List (Fin 4 × Nat) → State → Host.Outcome State Fault Refusal
  | [], s => .next s
  | (c, w) :: r, s =>
    match runReeve c w s with
    | .next s' => runAll r s'
    | x => x

/-- What one word of a bundle does alone: it is held, it traps, or it issues. -/
structure Trial where
  c : Fin 4
  w : Nat
  out : State
  /-- it is held only because its RDV.AW has armed its register in this cycle (R224) -/
  armed : Bool

/-- Each word of a bundle alone, on the state before the bundle. -/
def trials (ws : List (Fin 4 × Nat)) (s : State) : List Trial :=
  ws.filterMap (fun p =>
    match runReeve p.1 p.2 s with
    | .next t => some { c := p.1, w := p.2, out := t, armed := t.held && (clus t p.1).rdvArmed && !(clus s p.1).rdvArmed }
    | _ => none)

/-- A bundle: it is held whole while any word is held, trapped whole at the lowest cluster whose word traps, and otherwise
every word takes effect; a g register that one of them writes changes from the next cycle on (R53, R428). R428 does not say whether a word
that waits, for an event, a sync word, a rendezvous, a fence or the clusters of c0's HALT, is held by an interlock: here every wait holds
the bundle, so one with a Y-set HALT of c0 and of another cluster never issues (DESIGN CHOICE, log 134). -/
def runBundle (ws : List (Fin 4 × Nat)) (s : State) : Host.Outcome State Fault Refusal :=
  let ts := trials ws s
  let holds := ts.filter (fun t => t.out.held)
  let traps := ts.filter (fun t => t.out.trapped)
  if holds.any (fun t => !t.armed) then runAll ((holds.filter (fun t => !t.armed)).map (fun t => (t.c, t.w))) s
  else
    match traps with
    | t :: _ => .next t.out
    | [] => runAll ((if holds.isEmpty then ts else holds).map (fun t => (t.c, t.w))) s

/-- The cycle in which a bundle issues: a cluster that has had its turn in this one gives it its word in the next, and each has had its
turn then (log 10). -/
def bundleCycle (c : Fin 4) (act : List (Fin 4)) (s : State) : State :=
  let s1 := if act.any (fun j => decide (j ≠ c) && s.ran.contains (3 + j.val)) then passCycles 1 s else s
  { s1 with ran := s1.ran ++ act.map (fun j => 3 + j.val) }

/-- A cluster at its issue point, past its gap. -/
def issuePoint (c : Fin 4) (s : State) : Host.Outcome State Fault Refusal :=
  match fetchReeve c s with
  | .other s' => .next (endRun s')
  | .word w =>
    let act := clusters.filter (fun j => (clus s j).active)
    if w / 2 ^ 31 % 2 = 0 ∨ act = [c] then
      (match runReeve c w s with
       | .next s' => .next (endRun s')
       | x => x)
    else
      let ws := act.filterMap (fun j => (bundleWord j s).map (fun v => (j, v)))
      if ws.length < act.length then .next (endRun (holdWith .waiting .none { s with cur := c }))
      else
        match runBundle ws (bundleCycle c act s) with
        | .next s' => .next (endRun s')
        | x => x

/-- One cycle of a cluster: a CSLOAD that it has issued goes on first, in a frozen cell too (R105, R247). -/
def clusterTurn (c : Fin 4) (s0 : State) : Host.Outcome State Fault Refusal :=
  let s := { s0 with cur := c, held := false, trapped := false, gSnap := none }
  let k := clus s c
  if k.csl.isSome && cellAwake s then .next (cslStep c s)
  else if !cellRuns s || !k.active then .next s
  else if k.gap ≠ 0 then .next (mapClus c (fun k => { k with gap := k.gap - 1, seg := k.seg.tick }) s)
  else if c = 0 ∧ trapReady s = true then .next (deliverTrap s)
  else if mayIssue c s then issuePoint c s
  else .next s

end Sys2Proof.Machine
end

