-- ==== Sys2Proof/Machine/RunWord.lean ====
section
/-! DEFINITION. The meaning of a vector, a matrix and a micro-op word by its opcode: the same meanings that exec calls, for words
as the sequencers read them (spec/03_streams.md R56, R65 to R68; spec/17_control_store.md R329, R331). -/

namespace Sys2Proof.Machine

open Sys2Proof

/-- A vector word with an opcode that has no instruction leaves the state: the decoder never gives one. -/
def runVec (op sub : Nat) (f : VWord) (s : State) : Host.Outcome State Fault Refusal :=
  match op with
  | 0x00 => execVnop f s
  | 0x01 => execVhalt f s
  | 0x02 => execVbr f s
  | 0x03 => execVbrz f s
  | 0x04 => execVcall f s
  | 0x05 => execVret f s
  | 0x06 => execVloop f s
  | 0x07 => if sub = 1 then execVlexitI f s else execVlexitD f s
  | 0x08 => execVwait f s
  | 0x09 => execVsig f s
  | 0x0A => execVrdv f s
  | 0x0B => if sub = 1 then execVsegClose f s else execVsegOpen f s
  | 0x0C => execVtrap f s
  | 0x0D => execVppt f s
  | 0x0E => execVqalign f s
  | 0x0F => execVfence f s
  | 0x10 => execXadd f s
  | 0x11 => execXsub f s
  | 0x12 => execXmul f s
  | 0x13 => execXshl f s
  | 0x14 => execXshra f s
  | 0x15 => execXand f s
  | 0x16 => execXior f s
  | 0x17 => if sub = 1 then execXlimmShift f s else execXlimm f s
  | 0x18 => execXget f s
  | 0x19 => execXput f s
  | 0x1A => execXfsr f s
  | 0x1B => execXtsr f s
  | 0x1C => execXcmp f s
  | 0x20 => execVadd f s
  | 0x21 => execVsub f s
  | 0x22 => execVmul f s
  | 0x23 => execVfma f s
  | 0x24 => execVfms f s
  | 0x25 => execVfnma f s
  | 0x26 => execVmin f s
  | 0x27 => execVmax f s
  | 0x28 => execVabs f s
  | 0x29 => execVneg f s
  | 0x2A => execVcpys f s
  | 0x2B => execVcmpeq f s
  | 0x2C => execVcmplt f s
  | 0x2D => execVcmple f s
  | 0x2E => execVcmpne f s
  | 0x2F => execVcmpun f s
  | 0x30 => execVsel f s
  | 0x31 => execVrnd f s
  | 0x32 => execVcvt f s
  | 0x33 => execVdot f s
  | 0x34 => execVscale f s
  | 0x35 => execVexpo f s
  | 0x36 => execVclamp f s
  | 0x37 => execVdiv f s
  | 0x38 => execVsqrt f s
  | 0x40 => execViadd f s
  | 0x41 => execVisub f s
  | 0x42 => execVimul f s
  | 0x43 => execVimad f s
  | 0x44 => execVand f s
  | 0x45 => execVior f s
  | 0x46 => execVxor f s
  | 0x47 => execVshl f s
  | 0x48 => execVshr f s
  | 0x49 => execVshra f s
  | 0x4A => execVpopc f s
  | 0x4B => execVclz f s
  | 0x4C => execViabs f s
  | 0x4D => execVadds f s
  | 0x4E => execVsubs f s
  | 0x4F => execVbsel f s
  | 0x50 => execVexp2F f s
  | 0x51 => execVexp2R f s
  | 0x52 => execVlog2F f s
  | 0x53 => execVlog2R f s
  | 0x54 => execVrcpF f s
  | 0x55 => execVrcpR f s
  | 0x56 => execVrsqF f s
  | 0x57 => execVrsqR f s
  | 0x58 => execVsinpiF f s
  | 0x59 => execVsinpiR f s
  | 0x5A => execVcospiF f s
  | 0x5B => execVcospiR f s
  | 0x5C => execVtanhF f s
  | 0x5D => execVtanhR f s
  | 0x5E => execVsigmF f s
  | 0x5F => execVsigmR f s
  | 0x60 => execVmov f s
  | 0x61 => execVbcast f s
  | 0x62 => execVperm f s
  | 0x63 => execVrot f s
  | 0x64 => execVsum f s
  | 0x65 => execVmaxr f s
  | 0x66 => execVamax f s
  | 0x67 => execVamrd f s
  | 0x68 => execVscan f s
  | 0x69 => execVcomp f s
  | 0x6A => execVrng f s
  | 0x6B => execVnoise f s
  | 0x70 => execMpush f s
  | 0x71 => execMinv f s
  | 0x72 => execMpop f s
  | 0x73 => execMand f s
  | 0x74 => execMrd f s
  | 0x75 => execMset f s
  | 0x78 => execVld f s
  | 0x79 => execVst f s
  | 0x7A => execVldg f s
  | 0x7B => execVstg f s
  | 0x7C => execVgath f s
  | 0x7D => execVscat f s
  | 0x7E => execPortcfg f s
  | 0x7F => execPortrst f s
  | _ => if 0xF0 ≤ op ∧ op < 0x100 then execCxn (BitVec.ofNat 4 (op - 0xF0)) f s else .next s

/-- A matrix word. -/
def runMat (op sub : Nat) (f : MWord) (s : State) : Host.Outcome State Fault Refusal :=
  match op with
  | 0x00 => execMnop f s
  | 0x01 => execMhalt f s
  | 0x02 => execMbr f s
  | 0x03 => execMloop f s
  | 0x04 => execMwait f s
  | 0x05 => execMsig f s
  | 0x06 => execMrdv f s
  | 0x07 => if sub = 1 then execMsegClose f s else execMsegOpen f s
  | 0x10 => execMloadw f s
  | 0x11 => if sub = 1 then execMstepCol f s else if sub = 2 then execMstepOuter f s else if sub = 3 then execMstepSamp f s else execMstepRow f s
  | 0x12 => execMouter f s
  | 0x13 => execMdrain f s
  | 0x14 => execMscld f s
  | 0x15 => execMzero f s
  | 0x1B => execMswap f s
  | 0x16 => execMnset f s
  | 0x17 => execMnest f s
  | 0x18 => execMnorm f s
  | 0x19 => execMalias f s
  | 0x1A => execMsamp f s
  | 0x1C => execMstat f s
  | _ => .next s

/-- A micro-op word. -/
def runUop (code : Nat) (f : UWord) (s : State) : Host.Outcome State Fault Refusal :=
  match code with
  | 0x00 => execUnop f s
  | 0x01 => execUadd f s
  | 0x02 => execUsub f s
  | 0x03 => execUmul f s
  | 0x04 => execUfma f s
  | 0x05 => execUfms f s
  | 0x06 => execUfnma f s
  | 0x07 => execUmin f s
  | 0x08 => execUmax f s
  | 0x09 => execUabs f s
  | 0x0A => execUneg f s
  | 0x0B => execUcpys f s
  | 0x0C => execUcmp f s
  | 0x0D => execUsel f s
  | 0x0E => execUrnd f s
  | 0x0F => execUcvt f s
  | 0x10 => execUdot f s
  | 0x11 => execUscale f s
  | 0x12 => execUexpo f s
  | 0x13 => execUclamp f s
  | 0x14 => execUiadd f s
  | 0x15 => execUisub f s
  | 0x16 => execUimul f s
  | 0x17 => execUimad f s
  | 0x18 => execUand f s
  | 0x19 => execUior f s
  | 0x1A => execUxor f s
  | 0x1B => execUshl f s
  | 0x1C => execUshr f s
  | 0x1D => execUshra f s
  | 0x1E => execUpopc f s
  | 0x1F => execUclz f s
  | 0x20 => execUiabs f s
  | 0x21 => execUadds f s
  | 0x22 => execUsubs f s
  | 0x23 => execUbsel f s
  | 0x24 => execUrot f s
  | 0x25 => execUbcast f s
  | 0x26 => execUperm f s
  | 0x27 => execUsum f s
  | 0x28 => execUmaxr f s
  | 0x29 => execUloop f s
  | 0x2A => execUlend f s
  | 0x2B => execUskip f s
  | 0x2C => execUmpush f s
  | 0x2D => execUmpop f s
  | 0x2E => execUminv f s
  | 0x30 => execUexp2F f s
  | 0x31 => execUexp2R f s
  | 0x32 => execUlog2F f s
  | 0x33 => execUlog2R f s
  | 0x34 => execUrcpF f s
  | 0x35 => execUrcpR f s
  | 0x36 => execUrsqF f s
  | 0x37 => execUrsqR f s
  | 0x38 => execUsinpiF f s
  | 0x39 => execUsinpiR f s
  | 0x3A => execUcospiF f s
  | 0x3B => execUcospiR f s
  | 0x3C => execUtanhF f s
  | 0x3D => execUtanhR f s
  | 0x3E => execUsigmF f s
  | 0x3F => execUsigmR f s
  | _ => .next s

end Sys2Proof.Machine
end

