-- ==== Sys2Proof/Machine/Turn.lean ====
section
/-! DEFINITION. One cycle of the vector sequencer, of the matrix sequencer and of the custom unit, and the visibility steps of the
stores in the queues (spec/03_streams.md R47, R48; spec/06_vector_flow.md R147, R158; spec/07_matrix.md R182, R184;
spec/08_latency.md R188, R191; spec/10_engines.md R231, R246; spec/11_loops.md R256, R261; spec/15_ordering.md R297 to R301;
spec/17_control_store.md R330, R333, R344). -/

namespace Sys2Proof.Machine

open Sys2Proof

/-- Marks that a run sets are taken away. -/
def settled (o : Host.Outcome State Fault Refusal) : Host.Outcome State Fault Refusal :=
  match o with
  | .next s => .next (endRun s)
  | x => x

/-! ### The vector sequencer -/

/-- A cycle passes for the results in flight and for the parked stores. -/
def vecPass (s : State) : State :=
  retryParked (if s.vec.adv then mapVec (fun v => { v with adv := false }) (tickFlights s) else s)

/-- The next turn begins with a cycle for the results in flight. -/
def vecIdle (s : State) : State := mapVec (fun v => { v with adv := true }) s

/-- Whether every result, push and store that a VHALT waits for has landed (R147, R339). -/
def haltDrained (s : State) : Bool :=
  s.vec.flights.isEmpty && s.vec.loads.isEmpty && s.vec.parked.isEmpty && !s.vec.cu.running && portsDrained s

/-- The cycle of a sequencer whose VHALT has issued: once drained it is halted, or goes on with a latched resume token (R231). -/
def haltTurn (s : State) : State :=
  match stoppedPort s with
  | some (c, v) => vTrap c v (mapVec (fun k => { k with halting := false }) s)
  | none =>
    if haltDrained s then
      goOn (s.vec.pc + 12) (mapVec (fun v =>
        { v with halting := false, token := false, running := v.token, stat := if v.token then .issuing else .halted, wait := .none }) s)
    else vecIdle s

/-- The stream goes on after a stop: where a loop had drained a pass begins, and anywhere else issue goes on at the PC (R256, R295). -/
def vecResume (s : State) : State :=
  let s1 := mapVec (fun v => { v with halted := false, drained := false }) s
  match innermost s1 with
  | some l => if s.vec.drained then beginPass false (setInner { l with drain := false } s1) else s1
  | none => s1

/-- Whether a stop request is taken at this word boundary: outside loops, repeated words and regions; a trap of the other member of a pair
stops this one at the same word (R191, R256, R265). -/
def vecStop (s : State) : Bool :=
  streamStop s && s.vec.loops.isEmpty &&
    (s.cell.partnerTrap || (decide (s.vec.repj = 0) && !(s.vec.inreg && (wordX s).getD true)))

/-- A pre-emption voids the segment that is open; a partner stop does not (R263). -/
def vecVoid (s : State) : State := if stopAsked s then mapVec (fun v => { v with seg := v.seg.void }) s else s

/-- The sequencer stops at this point. -/
def vecHalt (s : State) : State := vecVoid (mapVec (fun v => { v with halted := true }) s)

/-- A stopped sequencer: while it stands at a word of a region the pipeline holds (R188, R265). -/
def vecStopped (s : State) : State :=
  if s.cell.partnerTrap && s.vec.inreg && standsX s then vecVoid s else vecIdle (vecVoid s)

/-- The fetch of the next word waits: whether the cycle counts for the results in flight is known once the word is, since it may be a
member of a region (R188). A parked fetch does not delay a pre-emption, wherever the word stands (R295). -/
def vecFetchWait (s : State) : State :=
  let parked := parkedOn s 36
  let s1 := mapVec (fun v => { v with adv := false, owed := v.owed + 1, stat := if parked then .parked else .waiting, wait := .none }) s
  if parked && streamStop s then vecHalt (payOwed (standsX s1) s1) else s1

/-- The word at the vector PC is fetched and issues (R47, R48, R69). -/
def vecIssue (s : State) : Host.Outcome State Fault Refusal :=
  let pc := s.vec.pc
  if pc.toNat % 4 ≠ 0 then .next (vecTrap 4 cMisfetch 0 pc (pc.setWidth 64) 0 (payOwed false s))
  else
    match fetchBytes 36 false pc 12 s with
    | .deny _ s' => .next (vecTrap 4 cFetch 0 pc (pc.setWidth 64) 0 (payOwed false s'))
    | .wait s' => .next (vecFetchWait s')
    | .ok bs _ _ =>
      let s1 : State := { payOwed (tb (leNat bs) 84) s with word := leNat bs, held := false }
      match vecView (leNat bs) with
      | some (op, sub, f) => settled (runVec op sub f s1)
      | none => .next (vIllegal s1)

/-- Whether c0 will not take the trap of the stream before a pre-emption that is asked for: it is halted, or runs in supervisor mode, and
nothing else is awaited (R191). -/
def trapLater (s : State) : Bool :=
  let k := clus s 0
  stopAsked s && !s.vec.delivered && s.vec.loads.isEmpty && (!s.vec.cu.running || s.vec.cu.stopped) && (!k.active || k.sup)

/-- One cycle of the sequencer while a trap of it waits for c0 or for its return: accesses that were issued complete. Where a stop request
comes before c0 can take the trap, the results in flight land before the task is saved (R191, R195). -/
def trappedTurn (s : State) : State :=
  let s1 := retryParked s
  if trapLater s then tickFlights s1 else s1

/-- One cycle of the vector sequencer. A late fault is taken before the next word issues: what is left of the idle cycles of W counts
for the captured latencies (R195). -/
def vectorTurn (s : State) : Host.Outcome State Fault Refusal :=
  if !cellRuns s then .next s
  else if s.vec.trap.isSome then .next (trappedTurn s)
  else
    let s1 := vecPass s
    match s1.vec.heldFault with
    | some d =>
      .next (vecTrap d.eng d.code d.info s1.vec.pc d.tval s1.vec.gap (mapVec (fun v => { v with heldFault := none, halting := false }) s1))
    | none =>
      if s1.vec.halting then .next (haltTurn s1)
      else if !s1.vec.running then .next (vecIdle s1)
      else if s1.vec.halted then .next (if streamStop s1 then vecStopped s1 else vecIdle (vecResume s1))
      else if s1.vec.gap ≠ 0 then .next (vecIdle (mapVec (fun v => { v with gap := v.gap - 1, seg := v.seg.tick }) s1))
      else if vecStop s1 then .next (vecStopped (vecHalt (payOwed (standsX s1) s1)))
      else if rollDue s1 && ((innermost s1).map (·.stop) == some s1.vec.pc) then .next (vecIdle (goOn s1.vec.pc s1))
      else vecIssue s1

/-! ### The matrix sequencer -/

/-- A pre-emption voids the matrix segment that is open; a partner stop does not (R263). -/
def matVoid (s : State) : State := if stopAsked s then mapMat (fun m => { m with seg := m.seg.void }) s else s

/-- The stop of matrix issue: a word that has not begun issues again later, a nest stops between its steps, and other work completes
first. A wait on a ring ends: the waiting word issues again on resumption (R184, R246, log 119). -/
def matStop (s : State) : State :=
  let stop (s : State) : State := matVoid (mapMat (fun m => { m with halted := true }) s)
  match s.mat.work with
  | none => stop s
  | some w =>
    if ringWait s w then stop (ringStop w s)
    else if w.op = 0x17 ∧ (!w.begun ∨ w.popping) then stop s
    else if !w.begun then stop (mapMat (fun m => { m with work := none, pc := w.pc }) s)
    else matStep s

/-- The word at the matrix PC is fetched and issues (R47, R48, R69). -/
def matIssue (s : State) : Host.Outcome State Fault Refusal :=
  let pc := s.mat.pc
  if pc.toNat % 8 ≠ 0 then .next (matFault cMisfetch (pc.setWidth 64) s)
  else
    match fetchBytes 37 false pc 24 s with
    | .deny _ s' => .next (matFault cFetch (pc.setWidth 64) s')
    | .wait s' => .next (mapMat (fun m => { m with stat := if parkedOn s' 37 then .parked else .waiting, wait := .none }) s')
    | .ok bs _ _ =>
      let s1 : State := { s with word := leNat bs, held := false }
      match matView (leNat bs) with
      | some (op, sub, f) => settled (runMat op sub f s1)
      | none => .next (matFault cMatFmt 0 s1)

/-- One cycle of the matrix sequencer: a piece of the work of the word that has issued, or the next word. A freeze lets the word that
has issued complete (R247). -/
def matrixTurn (s : State) : Host.Outcome State Fault Refusal :=
  if s.cell.frozen.isSome && s.mat.work.isSome && cellAwake s then .next (matStep s)
  else if !cellRuns s ∨ (!s.mat.running ∧ s.mat.work.isNone) then .next s
  else if streamStop s then .next (if s.mat.halted then matVoid s else matStop s)
  else if s.mat.halted then .next (mapMat (fun m => { m with halted := false }) s)
  else if s.mat.work.isSome then .next (matStep s)
  else matIssue s

/-! ### The custom unit -/

/-- One cycle of the custom unit, which runs on while the cell is frozen (R344). -/
def customTurn (s : State) : Host.Outcome State Fault Refusal :=
  if !s.cell.bound || s.cell.gated || s.cell.waking || !s.vec.cu.running || s.vec.cu.stopped then .next s
  else
    let s1 := if s.vec.cu.adv then tickCustom s else s
    let c := s1.vec.cu
    if !c.running then .next s1
    else if c.ending then .next (uWait s1)
    else if c.upc < c.entry ∨ c.entry + c.len ≤ c.upc then .next (uIllegal s1)
    else
      match uopView (sget 0 s1.cell.cs (2048 * (uImage s1).1 + c.upc)).toNat with
      | some (code, f) => settled (runUop code f s1)
      | none => .next (uIllegal s1)

/-! ### Visibility (R297, R299 to R301) -/

/-- Whether two stores write a common byte. -/
def StoreEnt.overlaps (a b : StoreEnt) : Bool := a.cells.any (fun c => b.cells.any (fun d => decide (c.1 = d.1)))

/-- Whether an entry may become visible before an earlier one of its queue: entries of one word, and write-combining entries with
no barrier between them (R299, R301). -/
def mayPass (earlier e : StoreEnt) : Bool :=
  !earlier.overlaps e && (decide (earlier.grp = e.grp) || (earlier.wc && e.wc && decide (earlier.bar = e.bar)))

/-- Whether an entry of a store queue waits for something other than the entries before it: a device access for earlier device
loads, a vector store for earlier stores and pushes that have not entered the queue, an STF for every store that it follows (R88, R158, R217, R300,
R301). -/
def storeWaits (q : Nat) (e : StoreEnt) (s : State) : Bool :=
  let loads := if q < 4 then e.dev && (clus s (Fin.ofNat 4 q)).loads.any (fun l => l.dev && decide (l.seq < e.seq))
    else e.dev && s.vec.loads.any (fun l => decide (l.seq < e.seq) && loadDevice l s)
  let before := decide (q = 4) && queuedBefore e.seq s
  let flag := e.stf && (s.cell.cellStores.any (counts q) ||
    s.dev.kept.any (fun p => decide (p.id.q = q) && decide (p.id.dev = s.dev.fdevid.toNat) && decide (p.kind ≠ 7)))
  loads || before || flag

/-- The entries of a store queue. -/
def queueOf (q : Nat) (s : State) : List StoreEnt := if q < 4 then (clus s (Fin.ofNat 4 q)).stores else if q = 4 then s.vec.stores else []

/-- Takes entry `k` out of a store queue. -/
def dropStore (q k : Nat) (s : State) : State :=
  if q < 4 then mapClus (Fin.ofNat 4 q) (fun c => { c with stores := c.stores.eraseIdx k }) s
  else mapVec (fun v => { v with stores := v.stores.eraseIdx k }) s

/-- Whether the capture of a page holds a store: it is neither visible nor performed (R404). -/
def heldStore (e : StoreEnt) (s : State) : Bool := e.cells.any (fun c => captureHolds s c.1)

/-- Entry `k` of a store queue becomes visible at cell scope; a host-form store is performed at its home in the same instant, after
the stores of its queue before it are visible at every scope (R297, R299). -/
def storeCell (q k : Nat) (s : State) : State :=
  match (queueOf q s)[k]? with
  | none => s
  | some e =>
    let behind := hostStore e && s.cell.cellStores.any (fun x => decide (x.q = q) && !mayPass x e)
    if !((queueOf q s).take k).all (fun x => mayPass x e) || storeWaits q e s || behind then s
    else if heldStore e s then claimPages (e.cells.map (·.1)) s
    else if hostStore e then taskWrite e.cells (dropStore q k s)
    else mapCell (fun c => { c with cellStores := c.cellStores ++ [e] }) (dropStore q k s)

/-- Whether an earlier store that is visible at no wider scope than a limit keeps an entry from the next step (R297, R299). -/
def keptBack (earlier : List StoreEnt) (e : StoreEnt) : Bool :=
  earlier.any (fun x => decide (x.vis ≤ e.vis) && (x.overlaps e || (decide (x.q = e.q) && !mayPass x e)))

/-- Entry `k` of the stores visible at cell scope becomes visible at the next wider scope, quad and then die, as a store to DRAM
does; a capture that holds the write holds its visibility (R297, R404). -/
def storeWide (k : Nat) (s : State) : State :=
  match s.cell.cellStores[k]? with
  | none => s
  | some e =>
    if 2 ≤ e.vis ∨ e.cells.any (fun c => isSpad c.1) ∨ keptBack (s.cell.cellStores.take k) e then s
    else if heldStore e s then claimPages (e.cells.map (·.1)) s
    else mapCell (fun c => { c with cellStores := c.cellStores.set k { e with vis := e.vis + 1 } }) s

/-- A store that its word spreads over a whole DRAM sector is home: with the last of the word's stores to the sector, its marks go
(R397). -/
def closeSectors (e : StoreEnt) (s : State) : State :=
  let left (sec : Nat) (x : StoreEnt) : Bool :=
    decide (x.q = e.q) && decide (x.grp = e.grp) && x.cells.any (fun c => decide (c.1 / 32 = sec))
  (e.whole.filter (fun sec => e.cells.any (fun c => decide (c.1 / 32 = sec)) && !(s.cell.cellStores ++ queueOf e.q s).any (left sec))).foldl
    (fun x sec => markBytes (32 * sec) 32 false x) s

/-- Entry `k` of the stores visible at cell scope is performed at its home. -/
def storeHome (k : Nat) (s : State) : State :=
  match s.cell.cellStores[k]? with
  | none => s
  | some e =>
    let earlier := s.cell.cellStores.take k
    if earlier.any (fun x => x.overlaps e || (decide (x.q = e.q) && !mayPass x e)) then s
    else if heldStore e s then claimPages (e.cells.map (·.1)) s
    else closeSectors e (taskWrite e.cells (mapCell (fun c => { c with cellStores := c.cellStores.eraseIdx k }) s))

/-! ### Turns (R17, R22) -/

/-- A turn. An agenda entry that names an instruction of a stream is no event, and changes nothing. -/
def takeTurn (t : Turn) (s : State) : Host.Outcome State Fault Refusal :=
  match t with
  | .cluster c => clusterTurn c s
  | .vector => vectorTurn s
  | .matrix => matrixTurn s
  | .custom => customTurn s
  | .storeCell q k => .next (storeCell q k s)
  | .storeWide k => .next (storeWide k s)
  | .storeHome k => .next (storeHome k s)
  | .port p => .next (pump p.val s)
  | .routes => .next (routesCopied s)
  | .partner b => .next (partnerTurn b s)
  | .resizeBar n => .next (resizeBar n s)
  | .rebuild ctx => .next (endContext ctx s)
  | .event i => if isEvent i then exec i s else .next s

/-! ### Placing one instruction where the next step fetches it -/

/-- The leaf that maps a page to the page of local DRAM of its own number, for every access. -/
def openLeaf (vpn : Nat) : BitVec 64 := BitVec.ofNat 64 (15 + vpn % 0xC00000 * 65536)

/-- The pages of `n` bytes at an address are translated. -/
def mapFetch (eng : Nat) (sup : Bool) (pc : BitVec 48) (n : Nat) (s : State) : State :=
  (pagePieces (pc.setWidth 64) n).foldl (fun x p =>
    match xl eng sup .fetch p.1 x with
    | .ok _ _ => x
    | _ =>
      let vpn := p.1.toNat / 65536
      mapCell (fun k => { k with
        tlb := { ctx := k.task.ctx, big := false, vpn, leaf := openLeaf vpn } ::
          k.tlb.filter (fun e => !(decide (e.ctx = k.task.ctx) && e.covers vpn)) }) x) s

/-- The bytes of a word stand where the engine fetches them. -/
def putFetch (eng : Nat) (sup : Bool) (pc : BitVec 48) (bs : List Byte) (s : State) : State :=
  ((pagePieces (pc.setWidth 64) bs.length).foldl (fun (p : State × List Byte) q =>
    (match xl eng sup .fetch q.1 p.1 with
     | .ok loc _ => homePut loc (p.2.take q.2) p.1
     | _ => p.1, p.2.drop q.2)) (mapFetch eng sup pc bs.length s, bs)).1

/-- A task is bound to the cell, which runs. -/
def openCell (s : State) : State :=
  mapCell (fun k => { k with
    bound := true, frozen := none, gated := false, waking := false, stopped := false, halting := false, pReq := false, partner := false, partnerTrap := false }) s

end Sys2Proof.Machine
end

