-- ==== Sys2Proof/Machine/Step.lean ====
section
/-! DEFINITION. One step of the machine: the next entry of the agenda takes its turn; with no entry left, a free choice does
(spec/00_scope.md R5, R6; spec/01_device.md R17, R22). -/

namespace Sys2Proof.Machine

open Sys2Proof

/-- The turn that a step takes, and what is left of the agenda. -/
def nextSlot (s : State) : Slot × State :=
  match s.agenda with
  | x :: r => (x, { s with agenda := r })
  | [] => (Config.pick s.freeCtr, { s with freeCtr := s.freeCtr + 1 })

/-- The place of an engine's turn in a cycle: the vector sequencer, the matrix sequencer, the custom unit, and then the clusters in
rising number, so that of two engines that write one register in one cycle the one that the spec prefers writes last
(R78, R152, R234, log 10). -/
def turnPlace : Turn → Option Nat
  | .vector => some 0
  | .matrix => some 1
  | .custom => some 2
  | .cluster c => some (3 + c.val)
  | _ => none

/-- A step begins: its cycles pass, and one more where the engine's place in the running cycle is past. -/
def beginTurn (s : State) : Turn × State :=
  let p := nextSlot s
  let s1 := passCycles p.1.cycles p.2
  match turnPlace p.1.turn with
  | none => (p.1.turn, s1)
  | some r =>
    let s2 := if s1.ran.any (fun q => decide (r ≤ q)) then passCycles 1 s1 else s1
    (p.1.turn, { s2 with ran := s2.ran.filter (· ≠ r) ++ [r] })

/-- One step. -/
def step (s : State) : Host.Outcome State Fault Refusal :=
  let p := beginTurn s
  takeTurn p.1 p.2

/-- The next step runs the word of `nbits` bits given by `w`: of cluster 0, of the vector sequencer, of the matrix sequencer, or of the
custom unit, whose words stand in the control store (log 8). -/
def State.withFetchWord (s : State) (nbits w : Nat) : State :=
  let s1 := openCell s
  let go (t : Turn) (x : State) : State := { x with agenda := { turn := t, cycles := 0 } :: x.agenda }
  if nbits ≤ 32 then
    let s2 := mapClus 0 (fun k => { k with active := true, gap := 0, csl := none }) { s1 with startedNow := [] }
    go (.cluster 0) (putFetch 32 (clus s2 0).sup (clus s2 0).pc (wordBytes 4 w) s2)
  else if nbits = 64 then
    let s2 := mapCell (fun k => { k with cs := sset 0 k.cs 0 (BitVec.ofNat 64 w), csTag := vset k.csTag 0 (some (k.task.ctx, 0, 2048)) }) s1
    go .custom (mapCu (fun _ => { Custom.zero with running := true, len := 2048, enable := BitVec.allOnes 64 }) s2)
  else if nbits ≤ 96 then
    let s2 := mapVec (fun v => { v with running := true, trap := none, heldFault := none, halted := false, halting := false, gap := 0, adv := false }) s1
    go .vector (putFetch 36 false s2.vec.pc (wordBytes 12 w) s2)
  else
    let s2 := mapMat (fun m => { m with running := true, halted := false, work := none, kept := none }) s1
    go .matrix (putFetch 37 false s2.mat.pc (wordBytes 24 w) s2)

end Sys2Proof.Machine
end

