-- ==== Sys2Proof/Safety.lean ====
section
/-! DEFINITION. The terms in which the statements speak of runs: which instructions are events, when a word of a stream is
ready to take its own effect, what a register holds once the results under way have landed, and the frames that say what a
word leaves unchanged. -/

namespace Sys2Proof.Machine

open Sys2Proof

/-! ### Reeve words -/

/-- Nothing holds a Reeve word that reads `reads` and writes `dest`, and no register that it reads is poisoned (R76, R89,
R92). -/
def Ready (reads dest : List (BitVec 5)) (s : State) : Prop :=
  loadPending (clus s s.cur) (reads ++ dest) = false ∧ fixedPending (clus s s.cur) (reads ++ dest) = false ∧
    ((clus s s.cur).realign = false ∨ queuesEmpty (clus s s.cur) = true) ∧
    ∀ r ∈ reads, regPoison s s.cur r = false

/-- The results under way of a cluster have landed, in the order in which the words issued (R77). -/
def landRegs (c : Fin 4) (s : State) : State :=
  (clus s c).pend.foldl (fun st p => writeReg c p.reg p.val p.mark st) { s with gSnap := none }

/-- The value and the poison mark of a register as a cluster sees it once its results under way have landed. -/
def regLater (s : State) (c : Fin 4) (r : BitVec 5) : Word × Bool :=
  (readReg (landRegs c s) c r, regPoison (landRegs c s) c r)

/-- Clears what a word may change in its own cluster beside its registers: the program counter, the gap and what waits say. -/
def Cluster.still (k : Cluster) : Cluster :=
  { k with pc := 0, gap := 0, stat := .halted, wait := .none, greq := [], gHeld := none, rdvArmed := false, realign := false, seg := Seg.closed,
           s := Vector.replicate 23 0, sPoison := Vector.replicate 23 false, pend := [] }

/-- The frame of a Reeve word that writes registers alone: the vector sequencer, the matrix engine, the other clusters, memory and
all else of the device, the trap registers and the mode, the queues, and everything the cell shares but the g registers are
unchanged; of the launches only the note that c0 has issued a word may change (R321). -/
def RegisterFrame (s t : State) : Prop :=
  t.vec = s.vec ∧ t.mat = s.mat ∧ (∀ c, c ≠ s.cur → clus t c = clus s c) ∧
    (clus t s.cur).still = (clus s s.cur).still ∧
    { t.cell with g := s.cell.g, gPoison := s.cell.gPoison } = s.cell ∧
    { t.dev with launches := s.dev.launches } = s.dev ∧
    t.dev.launches.map (fun l => { l with started := false }) = s.dev.launches.map (fun l => { l with started := false }) ∧
    t.cur = s.cur ∧ t.held = s.held ∧ t.trapped = s.trapped ∧ t.now = s.now ∧ t.startedNow = s.startedNow ∧ t.ran = s.ran ∧
    t.agenda = s.agenda ∧ t.freeCtr = s.freeCtr

/-- The word has issued: the program counter stands at the next word and the gap of W follows (R47, R54). -/
def Issued (w : BitVec 2) (s t : State) : Prop :=
  (clus t s.cur).pc = (clus s s.cur).pc + 4 ∧ (clus t s.cur).gap = w.toNat

/-- Register `d` is to hold `v` unmarked, unless it is s0, which stays zero (R51); every other register of every cluster is
unchanged, and its mark. -/
def Writes (d : BitVec 5) (v : Word) (s t : State) : Prop :=
  regLater t s.cur d = (if d = 0 then 0 else v, false) ∧ ∀ c r, r ≠ d → regLater t c r = regLater s c r

/-- A Reeve word has completed that writes `v` to register `d` and nothing else. -/
def Wrote (w : BitVec 2) (d : BitVec 5) (v : Word) (s t : State) : Prop :=
  Issued w s t ∧ Writes d v s t ∧ RegisterFrame s t

/-- The result is there for words that issue `lat` cycles after its own: an s register's of one cycle is written at once, since no word
can read it earlier; every other is under way with `lat` cycles left (R51, R77). -/
def DueIn (lat : Nat) (d : BitVec 5) (v : Word) (s t : State) : Prop :=
  d = 0 ∨
    (if lat = 1 ∧ d.toNat < 24 then (clus t s.cur).pend = (clus s s.cur).pend ∧ readReg t s.cur d = v
    else (clus t s.cur).pend = (clus s s.cur).pend ++ [{ reg := d, val := v, mark := false, left := lat }])

/-- `n` cycles pass for the results of a cluster (R77). -/
def ticksOf (c : Fin 4) : Nat → State → State
  | 0, s => s
  | n + 1, s => ticksOf c n (tickCluster c s)

/-- A Reeve word has completed that writes no register. -/
def Passed (w : BitVec 2) (s t : State) : Prop :=
  Issued w s t ∧ (∀ c r, regLater t c r = regLater s c r) ∧ RegisterFrame s t

/-- An instruction whose one effect is a register's new value, computed from registers (R79 to R82): its latency, its W, its
destination, the registers that it reads, and the value as the rules give it. -/
structure AluRow where
  lat : Nat
  w : BitVec 2
  d : BitVec 5
  reads : List (BitVec 5)
  val : (BitVec 5 → Word) → Word

/-- The number of leading zero bits, from the place of the highest set bit. -/
def leadingZeros (a : Word) : Nat := if a = 0 then 64 else 63 - a.toNat.log2

/-- The number of set bits. -/
def setBits (a : Word) : Nat := ((List.range 64).filter (fun i => a.getLsbD i)).length

/-- The rules' own account of the scalar arithmetic, in integers (R79 to R82; latencies R77). -/
def aluRow : Instr → Option AluRow
  | .add _ w d a b => some ⟨1, w, d, [a, b], fun r => BitVec.ofInt 64 ((r a).toInt + (r b).toInt)⟩
  | .sub _ w d a b => some ⟨1, w, d, [a, b], fun r => BitVec.ofInt 64 ((r a).toInt - (r b).toInt)⟩
  | .and _ w d a b => some ⟨1, w, d, [a, b], fun r => r a &&& r b⟩
  | .or _ w d a b => some ⟨1, w, d, [a, b], fun r => r a ||| r b⟩
  | .xor _ w d a b => some ⟨1, w, d, [a, b], fun r => r a ^^^ r b⟩
  | .andn _ w d a b => some ⟨1, w, d, [a, b], fun r => r a &&& ~~~ r b⟩
  | .shl _ w d a b => some ⟨1, w, d, [a, b], fun r => BitVec.ofNat 64 ((r a).toNat * 2 ^ ((r b).toNat % 64))⟩
  | .shrl _ w d a b => some ⟨1, w, d, [a, b], fun r => BitVec.ofNat 64 ((r a).toNat / 2 ^ ((r b).toNat % 64))⟩
  | .shra _ w d a b => some ⟨1, w, d, [a, b], fun r => BitVec.ofInt 64 ((r a).toInt / 2 ^ ((r b).toNat % 64))⟩
  | .rotl _ w d a b => some ⟨1, w, d, [a, b], fun r =>
      BitVec.ofNat 64 ((r a).toNat * 2 ^ ((r b).toNat % 64)) ||| BitVec.ofNat 64 ((r a).toNat / 2 ^ (64 - (r b).toNat % 64))⟩
  | .min _ w d a b => some ⟨1, w, d, [a, b], fun r => if (r a).toInt ≤ (r b).toInt then r a else r b⟩
  | .max _ w d a b => some ⟨1, w, d, [a, b], fun r => if (r a).toInt ≤ (r b).toInt then r b else r a⟩
  | .minn _ w d a b => some ⟨1, w, d, [a, b], fun r => if (r a).toNat ≤ (r b).toNat then r a else r b⟩
  | .maxn _ w d a b => some ⟨1, w, d, [a, b], fun r => if (r a).toNat ≤ (r b).toNat then r b else r a⟩
  | .cmpeq _ w d a b => some ⟨1, w, d, [a, b], fun r => if r a = r b then 1 else 0⟩
  | .cmpne _ w d a b => some ⟨1, w, d, [a, b], fun r => if r a = r b then 0 else 1⟩
  | .cmplt _ w d a b => some ⟨1, w, d, [a, b], fun r => if (r a).toInt < (r b).toInt then 1 else 0⟩
  | .cmpltn _ w d a b => some ⟨1, w, d, [a, b], fun r => if (r a).toNat < (r b).toNat then 1 else 0⟩
  | .clz _ w d a => some ⟨1, w, d, [a], fun r => BitVec.ofNat 64 (leadingZeros (r a))⟩
  | .popc _ w d a => some ⟨1, w, d, [a], fun r => BitVec.ofNat 64 (setBits (r a))⟩
  | .sel _ w d a b => some ⟨1, w, d, [a, b, d], fun r => if r a ≠ 0 then r b else r d⟩
  | .mul _ w d a b => some ⟨3, w, d, [a, b], fun r => BitVec.ofInt 64 ((r a).toInt * (r b).toInt)⟩
  | .mulh _ w d a b => some ⟨3, w, d, [a, b], fun r => BitVec.ofInt 64 ((r a).toInt * (r b).toInt / 2 ^ 64)⟩
  | .mulhn _ w d a b => some ⟨3, w, d, [a, b], fun r => BitVec.ofNat 64 ((r a).toNat * (r b).toNat / 2 ^ 64)⟩
  | .div _ w d a b => some ⟨34, w, d, [a, b], fun r => if (r b).toInt = 0 then -1 else BitVec.ofInt 64 ((r a).toInt.tdiv (r b).toInt)⟩
  | .divn _ w d a b => some ⟨34, w, d, [a, b], fun r => if (r b).toNat = 0 then -1 else BitVec.ofNat 64 ((r a).toNat / (r b).toNat)⟩
  | .rem _ w d a b => some ⟨34, w, d, [a, b], fun r =>
      if (r b).toInt = 0 then r a else BitVec.ofInt 64 ((r a).toInt - (r a).toInt.tdiv (r b).toInt * (r b).toInt)⟩
  | .remn _ w d a b => some ⟨34, w, d, [a, b], fun r => if (r b).toNat = 0 then r a else BitVec.ofNat 64 ((r a).toNat % (r b).toNat)⟩
  | .addi _ w d a i => some ⟨1, w, d, [a], fun r => BitVec.ofInt 64 ((r a).toInt + i.toInt)⟩
  | .andi _ w d a i => some ⟨1, w, d, [a], fun r => r a &&& BitVec.ofInt 64 i.toInt⟩
  | .ori _ w d a i => some ⟨1, w, d, [a], fun r => r a ||| BitVec.ofInt 64 i.toInt⟩
  | .xori _ w d a i => some ⟨1, w, d, [a], fun r => r a ^^^ BitVec.ofInt 64 i.toInt⟩
  | .cmpeqi _ w d a i => some ⟨1, w, d, [a], fun r => if (r a).toInt = i.toInt then 1 else 0⟩
  | .cmplti _ w d a i => some ⟨1, w, d, [a], fun r => if (r a).toInt < i.toInt then 1 else 0⟩
  | .shli _ w d a i => some ⟨1, w, d, [a], fun r => BitVec.ofNat 64 ((r a).toNat * 2 ^ i.toNat)⟩
  | .shrli _ w d a i => some ⟨1, w, d, [a], fun r => BitVec.ofNat 64 ((r a).toNat / 2 ^ i.toNat)⟩
  | .shrai _ w d a i => some ⟨1, w, d, [a], fun r => BitVec.ofInt 64 ((r a).toInt / 2 ^ i.toNat)⟩
  | .limm _ w d i => some ⟨1, w, d, [], fun _ => BitVec.ofInt 64 i.toInt⟩
  | .limms _ w d i => some ⟨1, w, d, [d], fun r => BitVec.ofNat 64 ((r d).toNat * 2 ^ 18 + i.toNat)⟩
  | _ => none

/-- A word whose effect, beside one register's new value, falls on what the cell and the device share: its W, its destination
(s0 for a word that has none), the registers that it reads, the value, and the effect. -/
structure ActRow where
  w : BitVec 2
  d : BitVec 5
  reads : List (BitVec 5)
  v : Word
  act : State → State

/-- The location of the sync word that an address names, when it may be accessed. -/
def syncLoc (k : Acc) (a : Word) (s : State) : Option Nat :=
  match syncAt k a s with
  | .ok loc => some loc
  | _ => none

/-- A start of the vector sequencer, where one is asked for, and then of the matrix sequencer (R226). -/
def startBoth (v m : Option (BitVec 48)) (s : State) : State :=
  let s1 := match v with
    | some pc => startVector pc s
    | none => s
  match m with
  | some pc => startMatrix pc s1
  | none => s1

/-- FORK: busy when a named sequencer runs; otherwise, once the cluster's stores are visible at cell scope, the start (R226). -/
def forkRow (w : BitVec 2) (d : BitVec 5) (reads : List (BitVec 5)) (v m : Option (BitVec 48)) (s : State) : Option ActRow :=
  if (v.isSome ∧ s.vec.running = true) ∨ (m.isSome ∧ s.mat.running = true) then some ⟨w, d, reads, 1, id⟩
  else if storesOut (clus s s.cur).stores then some ⟨w, d, reads, 0, startBoth v m⟩
  else none

/-- The empty ring that RINGSET configures: base, tile size and capacity (R210). -/
def newRing (a b : Word) : Ring :=
  { cfg := true, base := a.toNat, size := (b.toNat % 256 + 1) * 256, cap := b.toNat / 256 % 64 + 1, head := 0, tail := 0,
    count := 0 }

/-- RINGADV (R211). -/
def ringRow (produce : Bool) (w : BitVec 2) (d a : BitVec 5) (r : BitVec 4) (s : State) : Option ActRow :=
  let ring := vget s.cell.rings r.toNat Ring.zero
  let k := (readReg s s.cur a).toNat
  if produce ∧ storesOut (clus s s.cur).stores = false then none
  else if ring.cfg = false ∨ 64 < k then some ⟨w, d, [a], BitVec.allOnes 64, id⟩
  else if produce then
    (if ring.count + k ≤ ring.cap then some ⟨w, d, [a], BitVec.ofNat 64 (ring.count + k), ringProduce r.toNat k⟩
     else some ⟨w, d, [a], BitVec.allOnes 64, id⟩)
  else if k ≤ ring.count then some ⟨w, d, [a], BitVec.ofNat 64 (ring.count - k), ringConsume r.toNat k⟩
  else some ⟨w, d, [a], BitVec.allOnes 64, id⟩

/-- SWINIT (R235). -/
def swinitRow (z : Bool) (w : BitVec 2) (d a b : BitVec 5) (s : State) : Option ActRow :=
  (syncLoc .write (readReg s s.cur a) s).map (fun loc =>
    let g := (syncRead s loc).gen
    ⟨w, d, [a, b], BitVec.ofNat 64 g, syncInit loc ((readReg s s.cur b).toNat % 2 ^ 32) z d⟩)

/-- SWADD at a scope, once the cluster's earlier stores are visible there, on a sync word that no SWINIT of its cycle names
(R234, R235). -/
def swaddRow (scope : Nat) (w : BitVec 2) (d a b : BitVec 5) (s : State) : Option ActRow :=
  if storesOut (clus s s.cur).stores ∧ visibleAt scope s.cur.val s then
    (syncLoc .write (readReg s s.cur a) s).bind (fun loc =>
      let n := (readReg s s.cur b).toNat % 2 ^ 32
      if s.cell.swNow.any (fun i => decide (i.loc = loc)) then none
      else some ⟨w, d, [a, b], BitVec.ofNat 64 (syncRead (syncArrive loc n s) loc).gen, syncArrive loc n⟩)
  else none

/-- A write of a special register in a mode that may (R83, R84): `reads` are the source and, for CLUSTERGO, s1. -/
def mtsrRow (w : BitVec 2) (a : BitVec 5) (n : Nat) (s : State) : Option ActRow :=
  let k := clus s s.cur
  let v := readReg s s.cur a
  if srTrap n k.sup ≠ none then none
  else if n = 0x007 then
    (if k.active ∧ s.startedNow.any (fun p => decide (p.1 = s.cur.val)) = false then some ⟨w, 0, [a, 1], 0, clusterGo s.cur (v.setWidth 4)⟩ else none)
  else if n < 0x400 then some ⟨w, 0, [a], 0, srWrite s.cur n v⟩
  else if k.sup = false then some ⟨w, 0, [a], 0, id⟩
  else if n = 0x400 ∧ logBusy s then none
  else some ⟨w, 0, [a], 0, logRegWrite n v⟩

/-- A fence of a scope whose conditions are met (R93, R94, R301, R305). -/
def fenceRow (scope : Nat) (w : BitVec 2) (s : State) : Option ActRow :=
  if fenceMet scope s.cur s then some ⟨w, 0, [], 0, passFence scope⟩ else none

/-- What each word of this kind does in a state in which it need not wait and does not trap (R83, R93, R94, R97, R99, R104, R207,
R210, R211, R222 to R226, R232 to R236, R334, R355, R379, R403, R408). -/
def actRow (i : Instr) (s : State) : Option ActRow :=
  let r := readReg s s.cur
  let c := s.cur.val
  let ctx := s.cell.task.ctx
  match i with
  | .nop _ w => some ⟨w, 0, [], 0, id⟩
  | .ppt _ w d => some ⟨w, d, [], if s.cell.pReq then 1 else 0, id⟩
  | .wfe _ w => if (clus s s.cur).wake then some ⟨w, 0, [], 0, mapClus s.cur (fun k => { k with wake := false })⟩ else none
  | .mfsr _ w d n =>
    if srTrap n.toNat (clus s s.cur).sup ≠ none then none
    else if n.toNat = 0x007 ∨ n.toNat = 0x403 then some ⟨w, d, [], srRead s.cur n.toNat s, acquire c⟩
    else some ⟨w, d, [], srRead s.cur n.toNat s, id⟩
  | .mtsr _ w a n => mtsrRow w a n.toNat s
  | .qalign _ w => fenceRow 0 w s
  | .fenceCell _ w => fenceRow 0 w s
  | .fenceQuad _ w => fenceRow 1 w s
  | .fenceDie _ w => fenceRow 2 w s
  | .fenceDev _ w => fenceRow 3 w s
  | .fenceSys _ w => fenceRow 4 w s
  | .fenceMs _ w => fenceRow 5 w s
  | .mark _ w m k => if m = 0 then none else some ⟨w, 0, [], 0, placeMark m k⟩
  | .rdvArm _ w m i k => some ⟨w, 0, [], 0, armRdv m i k⟩
  | .rdvWait _ w i => if rdvFired s i then some ⟨w, 0, [], 0, fun s => observeRdv i.toNat (acquire c s)⟩ else none
  | .rdvAw _ w m i k =>
    if (clus s s.cur).rdvArmed then
      (if rdvFired s i then some ⟨w, 0, [], 0, fun s => observeRdv i.toNat (acquire c s)⟩ else none)
    else none
  | .fork _ w d a b => forkRow w d [a, b] (some ((r a).setWidth 48)) (some ((r b).setWidth 48)) s
  | .forkV _ w d a => forkRow w d [a] (some ((r a).setWidth 48)) none s
  | .forkM _ w d b => forkRow w d [b] none (some ((r b).setWidth 48)) s
  | .forkE _ w d => forkRow w d [] (some s.cell.task.vecPc) (some s.cell.task.matPc) s
  | .forkEV _ w d => forkRow w d [] (some s.cell.task.vecPc) none s
  | .forkEM _ w d => forkRow w d [] none (some s.cell.task.matPc) s
  | .evsetZero _ w d => some ⟨w, d, [], 0, zeroBoard⟩
  | .evsetClear _ w d => some ⟨w, d, [], 0, configBoard (zeros 384)⟩
  | .evsetCount _ w d a => some ⟨w, d, [a], (vget s.cell.sluice.counts ((r a).toNat % 16) 0).setWidth 64, id⟩
  | .swinit _ w d a b => swinitRow false w d a b s
  | .swinitZ _ w d a b => swinitRow true w d a b s
  | .swait _ w d a b =>
    (syncLoc .read (r a) s).bind (fun loc =>
      let x := syncRead s loc
      if syncMet x (r b).toNat then
        some ⟨w, d, [a, b], BitVec.ofNat 64 (x.flags * 2 ^ 32 + x.gen), fun s => observeSync loc (r b).toNat (acquire c s)⟩
      else none)
  | .swaddCell _ w d a b => swaddRow 0 w d a b s
  | .swaddQuad _ w d a b => swaddRow 1 w d a b s
  | .tlook _ w d a =>
    some (match tagHit s (r a) with
      | some slot => ⟨w, d, [a], BitVec.ofNat 64 slot, tagTouch slot⟩
      | none => ⟨w, d, [a], BitVec.ofNat 64 (tagVictim s (r a) * 2 ^ 16 + 0xFFFF), id⟩)
  | .tset _ w d a b =>
    some (if 1024 ≤ (r a).toNat then ⟨w, d, [a, b], 1, id⟩
      else if (r a).toNat / 8 ≠ tagSet (r b) then ⟨w, d, [a, b], 2, id⟩
      else ⟨w, d, [a, b], 0, tagInstall (r a).toNat (r b)⟩)
  | .tinvSlot _ w d a =>
    some (if 1024 ≤ (r a).toNat then ⟨w, d, [a], BitVec.allOnes 64, id⟩
      else ⟨w, d, [a], if (tagKey s (r a).toNat).isSome then 1 else 0, tagClear (r a).toNat⟩)
  | .tinvKey _ w d a =>
    some (match tagHit s (r a) with
      | some slot => ⟨w, d, [a], BitVec.ofNat 64 slot, tagClear slot⟩
      | none => ⟨w, d, [a], 0xFFFF, id⟩)
  | .tinvAll _ w d => some ⟨w, d, [], BitVec.ofNat 64 s.cell.tags.length, mapCell (fun k => { k with tags := [] })⟩
  | .ringset _ w d a b m =>
    let st := ringsetStatus s (r a) (r b) m.toNat
    some (if st ≠ 0 then ⟨w, d, [a, b], BitVec.ofNat 64 st, id⟩
      else ⟨w, d, [a, b], 0, fun s =>
        mapMat (fun x => { x with rd := vset x.rd m.toNat 0, wr := vset x.wr m.toNat 0 })
          (mapCell (fun k => { k with rings := vset k.rings m.toNat (newRing (r a) (r b)) }) s)⟩)
  | .ringadvP _ w d a m => ringRow true w d a m s
  | .ringadvC _ w d a m => ringRow false w d a m s
  | .csbind _ w d a b n =>
    some (match customEntry (r a) (r b) with
      | none => ⟨w, d, [a, b], BitVec.allOnes 64, id⟩
      | some e => ⟨w, d, [a, b], vget s.cell.cst n.toNat 0, writeCustom n.toNat e⟩)
  | .csbindU _ w d n => some ⟨w, d, [], vget s.cell.cst n.toNat 0, writeCustom n.toNat 0⟩
  | .csbindR _ w d n => some ⟨w, d, [], vget s.cell.cst n.toNat 0, id⟩
  | .cgrpD _ w d g =>
    some (if groupBusy s g.toNat then ⟨w, d, [], 3, id⟩
      else ⟨w, d, [], 0, mapCtx ctx (fun x =>
        { x with groups := vset x.groups g.toNat Group.zero, fanout := if x.fanout = some g.toNat then none else x.fanout })⟩)
  | .cgrpQ _ w d g => some ⟨w, d, [], groupWord (groupOf s g.toNat), id⟩
  | .cgrpL _ w d g =>
    some (if (groupOf s g.toNat).defined then ⟨w, d, [], 0, mapCtx ctx (fun x => { x with fanout := some g.toNat })⟩
      else ⟨w, d, [], BitVec.allOnes 64, id⟩)
  | .logappA _ w d a =>
    some (if appliedOk (logOf s ctx) (r a) then
        ⟨w, d, [a], r a, fun s => updateCapiv ctx (mapLog ctx (fun l => { l with applied := (r a).toNat }) s)⟩
      else ⟨w, d, [a], BitVec.allOnes 64, id⟩)
  | .captS _ w d =>
    some (if !capPlaced s ctx then ⟨w, d, [], 1, id⟩ else if (capOf s ctx).act then ⟨w, d, [], 2, id⟩
      else if mendsOpen s then ⟨w, d, [], 3, id⟩ else ⟨w, d, [], 0, startGeneration ctx⟩)
  | .captW _ w d a =>
    let place : Option (Option Nat) :=
      if a = 0 then some none else if 2 ^ 23 ≤ (r a).toNat then none else (syncLoc .write (r a) s).map some
    place.map (fun sync =>
      if !capPlaced s ctx then ⟨w, d, [a], 1, id⟩ else if !(capOf s ctx).act then ⟨w, d, [a], 5, id⟩
      else if (capOf s ctx).sweep.isSome then ⟨w, d, [a], 6, id⟩
      else ⟨w, d, [a], 0, mapCap ctx (fun x => { x with sweep := some sync, bad := [] })⟩)
  | .digest _ w d a l =>
    some (if digestCount (capRange s ctx).2 l.toNat ≤ (r a).toNat then ⟨w, d, [a], 0, id⟩
      else ⟨w, d, [a], digestNode s ctx l.toNat (r a).toNat, keepDigest ctx l.toNat (r a).toNat⟩)
  | .digestN _ w d l => some ⟨w, d, [], BitVec.ofNat 64 (digestCount (capRange s ctx).2 l.toNat), id⟩
  | _ => none

/-! ### Words that read a block of memory -/

/-- What reading the pieces of a block (location, length, memory type) leaves: the stores that it read count as the cluster's own, and
after a strongly ordered page the queues realign (R300, R301). -/
def seePieces (ps : List (Nat × Nat × Nat)) (s : State) : State :=
  let s1 := ps.foldl (fun x p => markSeen s.cur.val p.1 p.2.1 x) s
  if ps.any (fun p => decide (p.2.2 = 3)) then alignAfter true s1 else s1

/-- The bytes of a block that a word of the running cluster reads at an effective address of a local form, and what the reading leaves,
when none of its loads is unfinished, the block is accessible, no byte of it is poisoned, and the order of its pages asks for no wait
(R89, R298 to R301). -/
def blockAt (s : State) (ea : Word) (n : Nat) : Option (List Byte × (State → State)) :=
  if (clus s s.cur).loads.isEmpty = false then none
  else
    match spaceOf ea, readBlock s.cur.val (clus s s.cur).sup ea n s with
    | .glob _ _, _ => none
    | _, .ok bs false ps =>
      if (ps.any (fun p => decide (2 ≤ p.2.2)) && !deviceClear s) ||
        (ps.any (fun p => decide (p.2.2 = 3)) && !queuesEmpty (clus s s.cur)) then none
      else some (bs, seePieces ps)
    | _, _ => none

/-- The same row after blocks have been read. -/
def ActRow.after (x : ActRow) (see : State → State) : ActRow := { x with act := fun s => x.act (see s) }

/-- An admitted command answers its admission number; one that is not admitted answers its code with bit 63 set (R237, R357,
R381). -/
def admitRow (w : BitVec 2) (d a : BitVec 5) (code : Nat) (number : Nat) (act : State → State) : ActRow :=
  if code ≠ 0 then ⟨w, d, [a], BitVec.ofNat 64 (2 ^ 63 + code), id⟩ else ⟨w, d, [a], BitVec.ofNat 64 number, act⟩

/-- A word of the collective port (R357, R380). -/
def collRow (kind : Nat) (w : BitVec 2) (d a : BitVec 5) (s : State) : Option ActRow :=
  let ea := readReg s s.cur a
  if 16 ≤ s.cell.colls.length then none
  else if ea.toNat % 64 ≠ 0 then some (admitRow w d a 4 0 id)
  else (blockAt s ea 64).map (fun b => (admitRow w d a (collCode kind b.1 s) s.cell.collCtr (admitColl kind b.1)).after b.2)

/-- What each word that reads a block does, in a state in which it need not wait, the block can be read, and it does not trap
(R105, R232, R237, R327, R328, R355, R357, R378, R380, R381). -/
def blockRow (i : Instr) (s : State) : Option ActRow :=
  let r := readReg s s.cur
  let ctx := s.cell.task.ctx
  match i with
  | .job _ w d a =>
    if 64 ≤ s.cell.jobs.length then none
    else if (r a).toNat % 64 ≠ 0 then some (admitRow w d a 4 0 id)
    else
      (blockAt s (r a) 256).bind (fun card =>
        if cardCode card.1 ≠ 0 then some ((admitRow w d a (cardCode card.1) 0 id).after card.2)
        else if cardFlag card.1 4 = false then some ((admitRow w d a 0 s.cell.jobCtr (admitJob card.1 [])).after card.2)
        else (blockAt s (BitVec.ofNat 64 (leAt card.1 56 8)) 256).map (fun ext =>
          (admitRow w d a (if cardExtents card.1 ext.1 then 3 else 0) s.cell.jobCtr (admitJob card.1 ext.1)).after
            (fun s => ext.2 (card.2 s))))
  | .cldred _ w d a => collRow 0 w d a s
  | .crot _ w d a => collRow 1 w d a s
  | .cpair _ w d a => collRow 2 w d a s
  | .logpull _ w d a => collRow 3 w d a s
  | .msupd _ w d a =>
    if 16 ≤ s.cell.mends.length then none
    else if (r a).toNat % 64 ≠ 0 then some (admitRow w d a 4 0 id)
    else (blockAt s (r a) 64).map (fun c => (admitRow w d a (mendCode c.1 (logOf s ctx)) s.cell.mendCtr (admitMend c.1)).after c.2)
  | .logapp _ w d a =>
    if (r a).toNat % 32 ≠ 0 then none
    else
      match spaceOf (r a) with
      | .virt _ | .spad _ => (blockAt s (r a) 32).bind (fun e =>
        let p := placeEntry ctx e.1 (e.2 s)
        if entryHeld ctx e.1 (e.2 s) then none
        else some ⟨w, d, [a], BitVec.ofNat 64 (p.1 + (logOf p.2 ctx).done * 2 ^ 24), fun s => (placeEntry ctx e.1 (e.2 s)).2⟩)
      | _ => none
  | .evsetLoad _ w d a =>
    if (r a).toNat % 64 ≠ 0 then some ⟨w, d, [a], 2, id⟩
    else (blockAt s (r a) 384).map (fun bs =>
      ActRow.after (if boardBad bs.1 then ⟨w, d, [a], 1, id⟩ else ⟨w, d, [a], 0, loadBoard bs.1⟩) bs.2)
  | .cgrp _ w d a g =>
    if (r a).toNat % 64 ≠ 0 then none
    else
      (blockAt s (r a) 8).bind (fun hd =>
        let n := leAt hd.1 0 2
        (blockAt s (r a + 8) (2 * n)).map (fun ids =>
          let ms := (List.range n).map (fun k => leAt ids.1 (2 * k) 2)
          let me := s.dev.fdevid.toNat
          ActRow.after
            (if n = 0 ∨ 1024 < n ∨ zeroAt hd.1 2 6 = false ∨ ms.any (fun m => decide (16384 ≤ m)) then ⟨w, d, [a], 1, id⟩
             else if me ∉ ms ∨ ms.eraseDups.length < n then ⟨w, d, [a], 2, id⟩
             else if groupBusy s g.toNat then ⟨w, d, [a], 3, id⟩
             else ⟨w, d, [a], 0, setGroup g.toNat
               { defined := true, members := ms, rank := ms.idxOf me, calls := 0, hash := crc32c (hd.1 ++ ids.1) }⟩)
            (fun s => ids.2 (hd.2 s))))
  | .csload _ w d a b =>
    if (clus s s.cur).sup = false then none
    else if (r a).toNat % 64 ≠ 0 ∨ 2 ^ 48 ≤ (r a).toNat ∨ 4 ≤ (r b).toNat then some ⟨w, d, [a, b], 1, id⟩
    else none
  | _ => none

/-- What a CSLOAD awaits once its image has been read, in supervisor mode, and its bank is free: the verifier looks at one word a cycle, and
the status is written 4 cycles later; and what the reading leaves (R327, R328). -/
def csloadRow (i : Instr) (s : State) : Option (BitVec 2 × BitVec 5 × BitVec 5 × CsWait × (State → State)) :=
  let r := readReg s s.cur
  match i with
  | .csload _ w d a b =>
    if (clus s s.cur).sup = false ∨ (r a).toNat % 64 ≠ 0 ∨ 2 ^ 48 ≤ (r a).toNat ∨ 4 ≤ (r b).toNat ∨ bankInUse s (r b).toNat then none
    else
      (blockAt s (r a) 64).bind (fun h =>
        let n := leAt h.1 2 2
        (if n = 0 then some ([], id) else blockAt s (r a + 64) (8 * n)).map (fun bs =>
          let words := (List.range n).map (fun i => leAt bs.1 (8 * i) 8)
          let x (words : Option (List Nat)) (status : Nat) : CsWait :=
            { bank := (r b).toNat, ver := leAt h.1 0 2, words, status, dest := d, count := n, left := some (n + 4) }
          (w, a, b, (if headerBad h.1 then x none 2
            else match verify words with
              | some (code, i) => x none (code + i * 2 ^ 16)
              | none => x (some words) 0), fun s => bs.2 (h.2 s))))
  | _ => none

/-- Every cluster, but for what its pending CSLOAD, its gap and its waits say, and the vector and matrix sequencers are as they were. -/
def OtherWork (c : Fin 4) (s t : State) : Prop :=
  t.vec = s.vec ∧ t.mat = s.mat ∧ t.dev.mem = s.dev.mem ∧ ∀ n, n ≠ c → clus t n = clus s n

/-! ### Memory words -/

/-- A load or a store: its size, whether a load extends the sign, whether a store is the ordered flag, its W, the register loaded or
stored, the address register and the offset (R85, R88). -/
structure MemRow where
  size : Nat
  sext : Bool
  stf : Bool
  w : BitVec 2
  r : BitVec 5
  a : BitVec 5
  o : BitVec 13

/-- The loads of R85. -/
def loadRow : Instr → Option MemRow
  | .ldb _ w d a i => some ⟨1, false, false, w, d, a, i⟩
  | .ldh _ w d a i => some ⟨2, false, false, w, d, a, i⟩
  | .ldw _ w d a i => some ⟨4, false, false, w, d, a, i⟩
  | .ldd _ w d a i => some ⟨8, false, false, w, d, a, i⟩
  | .ldws _ w d a i => some ⟨4, true, false, w, d, a, i⟩
  | _ => none

/-- The stores of R85 and R88. -/
def storeRow : Instr → Option MemRow
  | .stb _ w v a o => some ⟨1, false, false, w, v, a, o⟩
  | .sth _ w v a o => some ⟨2, false, false, w, v, a, o⟩
  | .stw _ w v a o => some ⟨4, false, false, w, v, a, o⟩
  | .std _ w v a o => some ⟨8, false, false, w, v, a, o⟩
  | .stf _ w v a o => some ⟨8, false, true, w, v, a, o⟩
  | _ => none

/-- The effective address: a + sign-extended offset, modulo 2^64 (R85). -/
def MemRow.addr (x : MemRow) (s : State) : Word := BitVec.ofInt 64 ((readReg s s.cur x.a).toInt + x.o.toInt)

/-- The frame of a word that puts an entry into a queue of its cluster: RegisterFrame, but for the cluster's queues, the numbers of
their entries and the registers' writes. -/
def QueueFrame (s t : State) : Prop :=
  t.vec = s.vec ∧ t.mat = s.mat ∧ (∀ c, c ≠ s.cur → clus t c = clus s c) ∧
    { (clus t s.cur).still with loads := [], stores := [], seqCtr := 0, bar := 0 } =
      { (clus s s.cur).still with loads := [], stores := [], seqCtr := 0, bar := 0 } ∧
    t.cell = s.cell ∧ { t.dev with launches := s.dev.launches } = s.dev ∧
    t.dev.launches.map (fun l => { l with started := false }) = s.dev.launches.map (fun l => { l with started := false }) ∧
    t.cur = s.cur ∧ t.held = s.held ∧ t.trapped = s.trapped ∧ t.now = s.now ∧ t.startedNow = s.startedNow ∧ t.ran = s.ran ∧
    t.agenda = s.agenda ∧ t.freeCtr = s.freeCtr

/-- A read-modify-write: its new value from the old value and the operand, in `n` bits; CAS also sees the expected value (R90,
R91). -/
structure RmwRow where
  new : {n : Nat} → (old b ex : BitVec n) → BitVec n
  w : BitVec 2
  d : BitVec 5
  a : BitVec 5
  b : BitVec 5
  cas : Bool
  z : Bool

/-- The atomics of R90 and R91. -/
def rmwRow : Instr → Option RmwRow
  | .amoAdd _ w d a b z => some ⟨fun old b _ => old + b, w, d, a, b, false, z⟩
  | .amoAnd _ w d a b z => some ⟨fun old b _ => old &&& b, w, d, a, b, false, z⟩
  | .amoOr _ w d a b z => some ⟨fun old b _ => old ||| b, w, d, a, b, false, z⟩
  | .amoXor _ w d a b z => some ⟨fun old b _ => old ^^^ b, w, d, a, b, false, z⟩
  | .amoMin _ w d a b z => some ⟨fun old b _ => if old.toInt ≤ b.toInt then old else b, w, d, a, b, false, z⟩
  | .amoMax _ w d a b z => some ⟨fun old b _ => if old.toInt ≤ b.toInt then b else old, w, d, a, b, false, z⟩
  | .amoMinn _ w d a b z => some ⟨fun old b _ => if old.toNat ≤ b.toNat then old else b, w, d, a, b, false, z⟩
  | .amoMaxn _ w d a b z => some ⟨fun old b _ => if old.toNat ≤ b.toNat then b else old, w, d, a, b, false, z⟩
  | .amoSwap _ w d a b z => some ⟨fun _ b _ => b, w, d, a, b, false, z⟩
  | .cas _ w d a b z => some ⟨fun old b ex => if old = ex then b else old, w, d, a, b, true, z⟩
  | _ => none

/-- The value that a read-modify-write of `n` bits leaves at its location. -/
def RmwRow.result (x : RmwRow) (n : Nat) (s : State) (loc : Nat) : Nat :=
  (x.new (BitVec.ofNat n (homeNat s loc (n / 8))) ((readReg s s.cur x.b).setWidth n) ((readReg s s.cur x.d).setWidth n)).toNat

/-! ### Control flow -/

/-- A branch: its W, the registers that it reads, where the program counter goes, the register that it writes with its value
(s0 for none), and what reading the entry of a table leaves (R95, R96). -/
structure BranchRow where
  w : BitVec 2
  reads : List (BitVec 5)
  target : BitVec 48
  d : BitVec 5
  v : Word
  see : State → State

/-- `n` words from a program counter (R47). -/
def wordsFrom (pc : BitVec 48) (n : Int) : BitVec 48 := BitVec.ofInt 48 (pc.toInt + 4 * n)

/-- The branches in a state in which they do not trap: JR with a target that is a multiple of 4 below 2^48, JTAB likewise and with an
aligned table (R95, R96). -/
def branchRow (i : Instr) (s : State) : Option BranchRow :=
  let r := readReg s s.cur
  let pc := (clus s s.cur).pc
  match i with
  | .br _ w o => some ⟨w, [], wordsFrom pc o.toInt, 0, 0, id⟩
  | .beqz _ w a o => some ⟨w, [a], if r a = 0 then wordsFrom pc o.toInt else wordsFrom pc 1, 0, 0, id⟩
  | .bnez _ w a o => some ⟨w, [a], if r a = 0 then wordsFrom pc 1 else wordsFrom pc o.toInt, 0, 0, id⟩
  | .bltz _ w a o => some ⟨w, [a], if (r a).toInt < 0 then wordsFrom pc o.toInt else wordsFrom pc 1, 0, 0, id⟩
  | .bgez _ w a o => some ⟨w, [a], if (r a).toInt < 0 then wordsFrom pc 1 else wordsFrom pc o.toInt, 0, 0, id⟩
  | .call _ w o => some ⟨w, [], wordsFrom pc o.toInt, 23, (wordsFrom pc 1).setWidth 64, id⟩
  | .jr _ w a => if (r a).toNat % 4 = 0 ∧ (r a).toNat < 2 ^ 48 then some ⟨w, [a], (r a).setWidth 48, 0, 0, id⟩ else none
  | .jtab _ w d a n =>
    if n.toNat < (r a).toNat then some ⟨w, [d, a], wordsFrom pc 1, 0, 0, id⟩
    else if (r d).toNat % 4 ≠ 0 then none
    else
      (blockAt s (r d + 4 * r a) 4).bind (fun bs =>
        let t := r d + (BitVec.ofNat 32 (leNat bs.1)).signExtend 64
        if t.toNat % 4 = 0 ∧ t.toNat < 2 ^ 48 then some ⟨w, [d, a], t.setWidth 48, 0, 0, bs.2⟩ else none)
  | _ => none

/-! ### Traps -/

/-- Cluster c has taken a trap from user mode: the trap registers hold cause, address and value, the mode is supervisor, the
program counter is at the handler, and no register, no byte of memory and nothing of the vector and matrix sequencers has changed
(R106, R108). -/
def TrapTaken (c : Fin 4) (code info : Nat) (tpc : BitVec 48) (tval : Word) (s t : State) : Prop :=
  (clus t c).tcause = BitVec.ofNat 64 (info * 2 ^ 16 + c.val * 2 ^ 12 + code) ∧ (clus t c).tpc = tpc ∧ (clus t c).tval = tval ∧
    (clus t c).sup = true ∧ (clus t c).pc = BitVec.ofNat 48 (s.cell.tvb.toNat / 2 ^ 6 % 2 ^ 42 * 2 ^ 6) ∧ t.trapped = true ∧
    (∀ e, e ≠ c → clus t e = clus s e) ∧ (clus t c).s = (clus s c).s ∧ (clus t c).sPoison = (clus s c).sPoison ∧
    (clus t c).pend = (clus s c).pend ∧ (clus t c).loads = (clus s c).loads ∧ (clus t c).stores = (clus s c).stores ∧
    t.cell = s.cell ∧ t.vec = s.vec ∧ t.mat = s.mat ∧ t.dev.mem = s.dev.mem

/-! ### Vector words -/

/-- Nothing that every vector word passes first holds the word or traps: its region has room, the checking scoreboard finds no x register
that it reads stale, no realignment is due, and no checkpoint is pending (R189, R193, R259, R301). -/
def VecReady (f : VWord) (s : State) : Prop :=
  (s.vec.repj = 0 → f.x = true → s.vec.rcount < 64) ∧ xStale [f.a, f.b] f s = none ∧ (s.vec.realign = false ∨ vecQueuesEmpty s = true) ∧ s.vec.ckWait = false

/-- The opcode and the fields of a computing word (R117, R133). -/
def laneOp : Instr → Option (Nat × VWord)
  | .vadd f => some (0x20, f)
  | .vsub f => some (0x21, f)
  | .vmul f => some (0x22, f)
  | .vfma f => some (0x23, f)
  | .vfms f => some (0x24, f)
  | .vfnma f => some (0x25, f)
  | .vmin f => some (0x26, f)
  | .vmax f => some (0x27, f)
  | .vabs f => some (0x28, f)
  | .vneg f => some (0x29, f)
  | .vcpys f => some (0x2A, f)
  | .vcmpeq f => some (0x2B, f)
  | .vcmplt f => some (0x2C, f)
  | .vcmple f => some (0x2D, f)
  | .vcmpne f => some (0x2E, f)
  | .vcmpun f => some (0x2F, f)
  | .vsel f => some (0x30, f)
  | .vrnd f => some (0x31, f)
  | .vcvt f => some (0x32, f)
  | .vdot f => some (0x33, f)
  | .vscale f => some (0x34, f)
  | .vexpo f => some (0x35, f)
  | .vclamp f => some (0x36, f)
  | .vdiv f => some (0x37, f)
  | .vsqrt f => some (0x38, f)
  | .viadd f => some (0x40, f)
  | .visub f => some (0x41, f)
  | .vimul f => some (0x42, f)
  | .vimad f => some (0x43, f)
  | .vand f => some (0x44, f)
  | .vior f => some (0x45, f)
  | .vxor f => some (0x46, f)
  | .vshl f => some (0x47, f)
  | .vshr f => some (0x48, f)
  | .vshra f => some (0x49, f)
  | .vpopc f => some (0x4A, f)
  | .vclz f => some (0x4B, f)
  | .viabs f => some (0x4C, f)
  | .vadds f => some (0x4D, f)
  | .vsubs f => some (0x4E, f)
  | .vbsel f => some (0x4F, f)
  | .vexp2F f => some (0x50, f)
  | .vexp2R f => some (0x51, f)
  | .vlog2F f => some (0x52, f)
  | .vlog2R f => some (0x53, f)
  | .vrcpF f => some (0x54, f)
  | .vrcpR f => some (0x55, f)
  | .vrsqF f => some (0x56, f)
  | .vrsqR f => some (0x57, f)
  | .vsinpiF f => some (0x58, f)
  | .vsinpiR f => some (0x59, f)
  | .vcospiF f => some (0x5A, f)
  | .vcospiR f => some (0x5B, f)
  | .vtanhF f => some (0x5C, f)
  | .vtanhR f => some (0x5D, f)
  | .vsigmF f => some (0x5E, f)
  | .vsigmR f => some (0x5F, f)
  | .vmov f => some (0x60, f)
  | .vbcast f => some (0x61, f)
  | .vperm f => some (0x62, f)
  | .vrot f => some (0x63, f)
  | .vsum f => some (0x64, f)
  | .vmaxr f => some (0x65, f)
  | .vamax f => some (0x66, f)
  | .vscan f => some (0x68, f)
  | .vcomp f => some (0x69, f)
  | .vrng f => some (0x6A, f)
  | .vnoise f => some (0x6B, f)
  | _ => none

/-- The lanes that an operand gives when what the word reads is fixed: a tile's elements, the head entry of a read port, an x register's two
halves; nothing for a field that the word does not read (R110, R114, R151). -/
def lanesNow (reads : Bool) (o : Operand) (odd : Nat) (s : State) : List Lane :=
  if reads then
    match o with
    | .tile _ _ _ _ _ _ => (operandKeys o s.vec.repj (rotBase s) odd).map (fun k => sget 0 s.vec.tile k)
    | .port p => (headEntry p.toNat s).1
    | .xreg n => scalarLanes (vget s.vec.x n.toNat 0)
    | _ => []
  else []

/-- The marks that go with them. -/
def marksNow (reads : Bool) (o : Operand) (odd : Nat) (s : State) : BitVec 64 :=
  if reads then
    match o with
    | .tile _ _ _ _ _ _ => keyMarks s (operandKeys o s.vec.repj (rotBase s) odd)
    | .port p => (headEntry p.toNat s).2
    | _ => 0
  else 0

/-- The result that a computing word puts on its way when what it reads is fixed: its captured operands, its enabled lanes, its
latency, and the marks of its result (R112, R115, R196). -/
def laneFlight (op : Nat) (f : VWord) (s : State) : Flight :=
  let a := lanesNow (usesA op) f.a 0 s
  let b := if a40Source op f then (operandKeys f.a s.vec.repj (rotBase s) 1).map (fun k => sget 0 s.vec.tile k) else lanesNow (usesB op) f.b 0 s
  let mb := if a40Source op f then keyMarks s (operandKeys f.a s.vec.repj (rotBase s) 1) else marksNow (usesB op) f.b 0 s
  let fl : Flight :=
    { Flight.zero with
      op, f, rep := s.vec.repj, left := (latencyOf op f.t.toNat).getD 1, en := enableOf f s, a, b, d := lanesNow (readsD op) f.d 0 s,
      rb := rotBase s, mtop := maskTop s, key := seedOf op b s, iss := s.cell.cycle.toNat }
  { fl with pois := vpoison (flightIn fl) (marksNow (usesA op) f.a 0 s) mb (marksNow (readsD op) f.d 0 s) (readsD op) }

/-- What a word reads is fixed: the word is one of a region, or no result is in flight (R187, R193). -/
def ReadsFixed (f : VWord) (s : State) : Prop := f.x = true ∨ (s.vec.flights = [] ∧ s.vec.stale = [])

/-- A computing word takes its own effect: it is ready, a lane is enabled, no load and no custom sequence is to write what it
touches, its ports answer, what it reads is fixed, and a push is allowed and carries no enabled poisoned lane (R57, R114, R157,
R187, R258, R260). -/
def LaneReady (op : Nat) (f : VWord) (s : State) : Prop :=
  VecReady f s ∧ enableOf f s ≠ 0 ∧ ReadsFixed f s ∧
    sbBusy (srcKeys (usesA op) f.a 0 s ++ srcKeys (a40Source op f) f.a 1 s ++ srcKeys (usesB op) f.b 0 s ++ destKeys op f s)
      (readPorts f ++ portOf f.d) s = false ∧
    (∀ n ∈ readPorts f, popAns f.x n s = .ok) ∧ (∀ n ∈ portOf f.d, pushAns n s = .ok) ∧
    (portOf f.d ≠ [] → rollBad f s = false ∧ heldFull f s = false ∧ (laneFlight op f s).pois &&& enableOf f s = 0)

/-- The two-operand value of an x-register word, from A and B (R151). -/
def xRow : Instr → Option (VWord × (Word → Word → Word))
  | .xadd f => some (f, fun a b => BitVec.ofInt 64 (a.toInt + b.toInt))
  | .xsub f => some (f, fun a b => BitVec.ofInt 64 (a.toInt - b.toInt))
  | .xmul f => some (f, fun a b => BitVec.ofInt 64 (a.toInt * b.toInt))
  | .xshl f => some (f, fun a b => BitVec.ofNat 64 (a.toNat * 2 ^ (b.toNat % 64)))
  | .xshra f => some (f, fun a b => BitVec.ofInt 64 (a.toInt / 2 ^ (b.toNat % 64)))
  | .xand f => some (f, fun a b => a &&& b)
  | .xior f => some (f, fun a b => a ||| b)
  | .xlimm f => some (f, fun _ b => b)
  | .xlimmShift f => some (f, fun a _ => BitVec.ofNat 64 (a.toNat * 2 ^ 21 + immNat f.b))
  | .xcmp f => some (f, fun a b =>
      if (if f.t = 0 then a = b else if f.t = 1 then a ≠ b else if f.t = 2 then a.toInt < b.toInt else a.toNat < b.toNat) then 1
      else 0)
  | _ => none

/-- Operand B of an x-register word: an x register, as a word with X = `x` reads it, or a sign-extended immediate (R151, R187). -/
def xOrImm (x : Bool) (o : Operand) (s : State) : Word :=
  match o with
  | .imm v => v.signExtend 64
  | o => xOf x o s

/-- The vector PC, the idle cycles and the counters after a word that is not the last of its repeats, or that is, outside every
loop (R47, R54, R58, R189). -/
def VecIssued (f : VWord) (s t : State) : Prop :=
  if s.vec.repj < f.rep.toNat then t.vec.repj = s.vec.repj + 1 ∧ t.vec.pc = s.vec.pc
  else t.vec.repj = 0 ∧ t.vec.pc = s.vec.pc + 12 ∧ t.vec.gap = f.w.toNat

/-- Where a test of a word that reads a lane condition finds it: the mask of the lanes that are not zero (R145). -/
def condNow (f : VWord) (s : State) : BitVec 64 :=
  maskOf (fun l => decide (laneAt (operandLanes 0 f.a (lanesNow true f.a 0 s) (maskTop s)) l ≠ 0))

/-- A word that takes a lane condition, one lane, an amax register or a port's block is not held by what every such word passes, and
what it reads is fixed (R57, R114, R145, R187, R258). -/
def PickReady (f : VWord) (s : State) : Prop :=
  VecReady f s ∧ predOn f s = true ∧ rollBad f s = false ∧ ReadsFixed f s ∧
    ∀ n ∈ portOf f.a, popAns f.x n s = .ok

/-- A taken branch: out of every loop whose body it leaves (R254, R255). -/
def branchState (f : VWord) (s : State) : Option State := (leaveLoops (vTarget f s) 4 s).map (vJump f (vTarget f s))

/-- The loop that VLOOP opens (R251, R252). -/
def openLoop (f : VWord) (s : State) : Loop :=
  let a := loopArgs f s
  { start := s.vec.pc + 12, lc := a.n, iter := 0, st := a.st, r := a.r, drain := false, retry := false, sp := 0, rb := 0, ec := 0,
    len := BitVec.ofNat 16 a.len, carry := a.carry, n := a.n, rj := 0, roll := none, owner := wordIter s f.stg }

/-- A closing segment agrees with its expected values, and in a redundant pair with the other member, in the state before the word and
in the one after it (R263, R264). -/
def closesWell (g : Seg) (s t : State) : Bool :=
  decide (g.mismatch = none) && (!s.cell.task.pair || g.voided ||
    (decide (Config.freeWord s.freeCtr = g.value) && decide (Config.freeWord t.freeCtr = g.value)))

/-- A closing segment of a redundant pair takes the other member's values. -/
def afterPair (g : Seg) (t : State) : State := if t.cell.task.pair && !g.voided then { t with freeCtr := t.freeCtr + 1 } else t

/-- The control words of the vector stream, the accesses to special registers and the mask-stack words, in a state in which they
neither wait nor trap: the state that each leaves (R145 to R150, R152, R251 to R255, R262). -/
def vecRow (i : Instr) (s : State) : Option (VWord × State) :=
  let v := s.vec
  match i with
  | .vnop f => some (f, vAdvance f s)
  | .vppt f => some (f, vAdvance f s)
  | .vbr f => (branchState f s).map (fun t => (f, t))
  | .vbrz f => if maskTop s = 0 then (branchState f s).map (fun t => (f, t)) else some (f, vAdvance f s)
  | .vcall f =>
    if v.ret.length < 8 then some (f, vJump f (vTarget f s) { s with vec := { v with ret := (v.pc + 12) :: v.ret } }) else none
  | .vret f =>
    match v.ret with
    | [] => none
    | a :: r => some (f, vThrough f a { s with vec := { v with ret := r } })
  | .vhalt f =>
    if stoppedPort s = none ∧ v.parked = [] then
      some (f, let t := vIssueFed true f s; { t with vec := { t.vec with halting := true, inreg := false, rcount := 0 } })
    else none
  | .vloop f =>
    if loopBad (loopArgs f s) s then none
    else if xStale [f.d] f s ≠ none then none
    else if (loopArgs f s).n = 0 then some (f, vThrough f (v.pc + 12 + 12 * BitVec.ofNat 48 (loopArgs f s).len) s)
    else
      some (f, let t := vIssueFed true f s
        beginPass true { t with vec := { t.vec with loops := t.vec.loops ++ [openLoop f s], gap := f.w.toNat } })
  | .vlexitD f =>
    (innermost s).map (fun l => (f, if exitTaken f s then vAdvance f (setInner { l with lc := 0 } s) else vAdvance f s))
  | .vlexitI f =>
    (innermost s).bind (fun l =>
      if l.r then none else some (f, if exitTaken f s then vThrough f l.stop (popLoop s) else vAdvance f s))
  | .vwait f =>
    let a := (xOf f.x f.a s).toNat
    let b := (xOrImm f.x f.b s).toNat
    if 2 ^ 23 ≤ a ∨ spaOk s ownPos a .read false = false ∨ a % 16 ≠ 0 then none
    else if ((syncRead s (locSpad ownPos a)).gen + 2 ^ 32 - b % 2 ^ 32) % 2 ^ 32 < 2 ^ 31 then
      some (f, vAdvance f (observeSync (locSpad ownPos a) b (acquire 4 s)))
    else none
  | .vsig f =>
    if stoppedPort s = none ∧ vecSettled s = true then
      some (f, vAdvance f (pulse 4 (BitVec.ofNat 8 (immNat f.b)).toNat (retireMarker 3 (BitVec.ofNat 8 (immNat f.b)) s)))
    else none
  | .vrdv f =>
    if rdvFired s (BitVec.ofNat 3 (immNat f.b)) then some (f, vAdvance f (observeRdv (BitVec.ofNat 3 (immNat f.b)).toNat (acquire 4 s)))
    else none
  | .vqalign f => if stoppedPort s = none ∧ vFenceMet 0 false s = true then some (f, vAdvance f (vPassFence 0 s)) else none
  | .vfence f =>
    if stoppedPort s = none ∧ vFenceMet (immNat f.b) true s = true then some (f, vAdvance f (vPassFence (immNat f.b) s)) else none
  | .vtrap f =>
    some (f, let t := goOn (v.pc + 12) (vIssueFed true f s); vecTrap 4 0x08 (immNat f.b) t.vec.pc 0 (1 + f.w.toNat) t)
  | .vsegOpen f =>
    if v.seg.opened then none
    else some (f, let t := vIssueFed true f s; vNext f { t with vec := { t.vec with seg := Seg.start (xOf f.x f.a s) } })
  | .vsegClose f =>
    if v.seg.opened = false then none
    else
      let t := vIssueFed false f s
      let u := vNext f { t with vec := { t.vec with seg := Seg.closed } }
      if closesWell t.vec.seg s u then some (f, afterPair t.vec.seg u) else none
  | .xfsr f =>
    let n := immNat f.b
    match f.d with
    | .xreg r =>
      if srTrap n false ≠ none ∨ n = 0x008 then none
      else some (f, vAdvance f (if n = 0x007 ∨ n = 0x403 then acquire 4 (putX r (srRead 0 n s) s) else putX r (srRead 0 n s) s))
    | _ => none
  | .xtsr f => if srExists (immNat f.d) then some (f, vAdvance f (srWrite 0 (immNat f.d) (xOf f.x f.a s) s)) else none
  | .minv f =>
    match v.mask with
    | [] => none
    | m :: r => some (f, vAdvance f { s with vec := { v with mask := ((r.head?).getD (BitVec.allOnes 64) &&& ~~~ m) :: r } })
  | .mpop f =>
    match v.mask with
    | [] => none
    | _ :: r => some (f, vAdvance f { s with vec := { v with mask := r } })
  | .mrd f =>
    match f.d with
    | .xreg n =>
      some (f, vAdvance f (putX n (if immNat f.a = 0 then maskTop s else BitVec.ofNat 64 v.mask.length) s))
    | _ => none
  | .mset f =>
    if immNat f.b = 1 then
      (if v.mask.length < 16 then some (f, vAdvance f { s with vec := { v with mask := xOf f.x f.a s :: v.mask } }) else none)
    else some (f, vAdvance f { s with vec := { v with mask := xOf f.x f.a s :: v.mask.tail } })
  | _ => none

/-- The words that take a lane condition, one lane of a tile, an amax register or a port's block, when what they read is fixed: the
state that each leaves (R143, R145, R151, R214). -/
def pickRow (i : Instr) (s : State) : Option (VWord × State) :=
  let v := s.vec
  let one (f : VWord) : Nat := (xOrImm f.x f.b s).toNat % 64
  let key (f : VWord) (o : Operand) : List Nat := (((operandKeys o 0 (rotBase s) 0)[one f]?).map (fun k => [k])).getD []
  match i with
  | .mpush f =>
    if v.repj = 0 ∧ v.mask.length < 16 ∧ sbBusy (operandKeys f.a 0 (rotBase s) 0) (portOf f.a) s = false ∧
        marksNow true f.a 0 s = 0 then
      some (f, vAdvance f (popPorts (portOf f.a) { s with vec := { v with mask := (maskTop s &&& condNow f s) :: v.mask } }))
    else none
  | .mand f =>
    if v.repj = 0 ∧ v.mask ≠ [] ∧ sbBusy (operandKeys f.a 0 (rotBase s) 0) (portOf f.a) s = false ∧
        marksNow true f.a 0 s = 0 then
      some (f, vAdvance f (popPorts (portOf f.a) { s with vec := { v with mask := (maskTop s &&& condNow f s) :: v.mask.tail } }))
    else none
  | .xget f =>
    match f.d with
    | .xreg n =>
      if v.repj = 0 ∧ sbBusy (key f f.a) (portOf f.a) s = false ∧ enabled (marksNow true f.a 0 s) (one f) = false then
        some (f, vAdvance f (putX n ((laneAt (lanesNow true f.a 0 s) (one f)).setWidth 64) (popPorts (portOf f.a) s)))
      else none
    | _ => none
  | .xput f =>
    if v.repj = 0 ∧ sbBusy (key f f.d) [] s = false ∧ portOf f.d = [] then
      some (f, vAdvance f { s with vec := { v with flights := v.flights ++
        [{ Flight.zero with
           op := 0x19, f, left := 3, en := BitVec.allOnes 64, a := xCapture f.x f.a s, b := xCapture f.x f.b s, rb := rotBase s,
           mtop := maskTop s, iss := s.cell.cycle.toNat }] } })
    else none
  | .vamrd f =>
    let n := immNat f.a % 8
    if enableOf f s ≠ 0 ∧ portOf f.d = [] ∧ readPorts f = [] ∧ sbBusy (destKeys 0x67 f s) [] s = false ∧ (immNat f.a / 8 % 2 = 1 → matDrains s n = false) then
      let floor := vget v.amFloor n 0
      let am := if f.x then vget v.am n 0 else amaxLeast (vget v.am n 0) floor
      let u : State :=
        if immNat f.a / 16 % 2 = 1 then { s with vec := { v with am := v.am.setIfInBounds n 0, amFloor := v.amFloor.setIfInBounds n 0 } }
        else { s with vec := { v with amFloor := v.amFloor.setIfInBounds n (amaxLeast am floor) } }
      let fl : Flight :=
        { Flight.zero with
          op := 0x67, f, rep := v.repj, left := 3, en := enableOf f s, a := [am, 0] ++ List.replicate 62 0, rb := rotBase s,
          mtop := maskTop s, iss := s.cell.cycle.toNat }
      some (f, vAdvance f { u with vec := { u.vec with flights := u.vec.flights ++
        [{ fl with pois := vpoison (flightIn fl) 0 0 0 false }] } })
    else none
  | .portcfg f =>
    let a := (xOf f.x f.a s).toNat
    let n := portNum f.d
    let p := vget v.ports n Port.zero
    let loc := locSpad ownPos a
    if (cuPorts s).contains n ∨ (6 ≤ n ∧ (p.stop ≠ none ∨ p.entries ≠ [] ∨ pushesTo n s ≠ 0)) ∨ 2 ^ 23 < a + 32 ∨
        spaOk s ownPos a .read false = false ∨ a % 32 ≠ 0 ∨ v.loads.any (fun e => !isGlobalLoad e) = true ∨
        poisoned s loc 32 = true then none
    else
      some (f, vAdvance f (mapPort n (fun _ =>
        { cfg := true, block := (List.range 32).map (fun k => vecByte s (loc + k)), flags := BitVec.ofNat 8 (immNat f.b), entries := [],
          pos := 0, taken := 0, stop := none, num := v.seqCtr })
        (forgetPort n (markSeen 4 loc 32 { s with vec := { v with seqCtr := v.seqCtr + 1 } }))))
  | .portrst f =>
    let n := portNum f.d
    let p := vget v.ports n Port.zero
    if (cuPorts s).contains n ∨ (6 ≤ n ∧ (p.stop ≠ none ∨ p.entries ≠ [] ∨ pushesTo n s ≠ 0)) then none
    else
      some (f, vAdvance f (mapPort n (fun q =>
        if immNat f.b % 2 = 1 then Port.zero else { q with entries := [], pos := 0, taken := 0, stop := none, num := v.seqCtr })
        (forgetPort n { s with vec := { v with seqCtr := v.seqCtr + 1 } })))
  | _ => none

/-- A local load, linear or indexed, no lane of which is denied: one that is not translated parks, and issue goes on (R153 to R158,
R301). -/
def localLoadState (op : Nat) (f : VWord) (s : State) : Option State :=
  let gath := decide (op = 0x7C)
  let idx := indexLanes f (lanesNow gath f.b 0 s) s
  let en := enableOf f s
  let ea := repeatEa op f s
  let e := loadEntry op f en ea.1 ea.2 idx s
  let queued (e : VLoad) (u : State) : State := vAdvance f (popPorts (readPorts f) (queueLoad e u))
  match chainTargets e.page (vecEng e.iss) ea.2 op f.t.toNat .read ea.1 idx en (setLanes en) s with
  | .ok (ls, w, _, u) =>
    if anyStrong ls && !vecQueuesEmpty s then none
    else if !f.x && s.cell.dbgChk.getLsbD 1 && (pendingHit (ls.flatMap (·.locs)) s).isSome then none
    else some (alignQueues (anyStrong ls) (queued { e with snap := earlySnap (ls.flatMap (·.locs)) s, dev := w || anyDevice ls } u))
  | .wait u => some (queued { e with dev := true } u)
  | .trap _ _ _ _ => none

/-- The store that a local store word captures: 6 cycles later it lands (R157, R196, R202). -/
def storeFlight (op : Nat) (f : VWord) (s : State) : Flight :=
  { Flight.zero with
    op, f, rep := s.vec.repj, left := 6, store := true, en := enableOf f s, ea := (repeatEa op f s).1, chain := (repeatEa op f s).2,
    a := scalarLanes (xOf f.x f.a s), b := lanesNow (decide (op = 0x7D)) f.b 0 s, d := (operandKeys f.d s.vec.repj (rotBase s) 0).map (fun k => sget 0 s.vec.tile k),
    rb := rotBase s, mtop := maskTop s, key := vget s.cell.ps 7 0, page := snapOf s, iss := s.cell.cycle.toNat }

/-- A captured store is on its way, and its words in the scratchpad are pending where the checking scoreboard asks for it
(R194, R258). -/
def storeSent (op : Nat) (f : VWord) (fl : Flight) (s : State) : State :=
  let t := launch f none fl s
  let u := if t.cell.dbgChk.getLsbD 1 then { t with vec := { t.vec with pendWords := (spadWords fl.cells).foldl addSet t.vec.pendWords } } else t
  vAdvance f (popPorts (if op = 0x7D then portOf f.b else []) u)

/-- A local store, linear or indexed, no lane of which is denied: one that is not translated parks when it lands (R153 to R158,
R301). -/
def localStoreState (op : Nat) (f : VWord) (s : State) : Option State :=
  let en := enableOf f s
  let fl := storeFlight op f s
  match chainTargets fl.page (vecEng fl.iss) fl.chain op f.t.toNat .write fl.ea (indexLanes f fl.b s) en (setLanes en) s with
  | .ok (ls, w, _, u) =>
    if anyStrong ls && !vecQueuesEmpty s then none
    else if w then some (storeSent op f fl u)
    else
      match eaOf (vecEng fl.iss) op f.t.toNat .write s fl.chain fl.ea with
      | .ok a =>
        some (alignQueues (anyStrong ls) (storeSent op f
          { fl with ea := a, chain := 0, cells := storeCells s fl.key f.t.toNat fl.d ls, mt := lanesType ls } u))
      | _ => none
  | .wait u => some (storeSent op f fl u)
  | .trap _ _ _ _ => none

/-- The memory words of the vector stream and the custom opcodes, in a state in which they neither wait nor trap and what they
read is fixed: the state that each leaves (R153 to R158, R336, R337). -/
def memoryRow (i : Instr) (s : State) : Option (VWord × State) :=
  let v := s.vec
  let kd (f : VWord) : List Nat := operandKeys f.d v.repj (rotBase s) 0
  let quiet (f : VWord) (b push : Bool) : Bool :=
    !sbBusy (srcKeys b f.b 0 s ++ kd f) ((if b then portOf f.b else []) ++ (if push then portOf f.d else [])) s
  match i with
  | .vld f => if quiet f false true then (localLoadState 0x78 f s).map (fun t => (f, t)) else none
  | .vgath f => if quiet f true true then (localLoadState 0x7C f s).map (fun t => (f, t)) else none
  | .vst f =>
    if quiet f false false && !rollBad f s && !heldFull f s && decide (keyMarks s (kd f) &&& enableOf f s = 0) then
      (localStoreState 0x79 f s).map (fun t => (f, t))
    else none
  | .vscat f =>
    if quiet f true false && !rollBad f s && !heldFull f s && decide (keyMarks s (kd f) &&& enableOf f s = 0) then
      (localStoreState 0x7D f s).map (fun t => (f, t))
    else none
  | .vldg f =>
    if !quiet f false true then none
    else
      (let ea := globalEa f s
       match spaceOf ea.1 with
       | .glob dev va => (sendPacket 5 dev 4 f.t.toNat false va [] (enableOf f s) ea.2).map (fun p =>
         (f, vAdvance f (keepGlobal f ea.1 p.1 (queueLoad
           { loadEntry 0x7A f (enableOf f s) ea.1 0 [] s with
             greq := some { id := p.1, kind := 4, size := f.t.toNat, va, answer := none } } p.2))))
       | _ => none)
  | .vstg f =>
    if !quiet f false false || (rollLoop s).isSome || decide (keyMarks s (kd f) &&& enableOf f s ≠ 0) then none
    else
      (let ea := globalEa f s
       match spaceOf ea.1 with
       | .glob dev va =>
         (sendPacket 4 dev 5 f.t.toNat false va (enabledBytes (enableOf f s) ((kd f).map (fun k => sget 0 v.tile k))) (enableOf f s)
           ea.2).map (fun p => (f, vAdvance f (keepGlobal f ea.1 p.1 p.2)))
       | _ => none)
  | .cxn n f =>
    (cxEntry s n.toNat).bind (fun c =>
      (imageOf s c.ver).bind (fun p =>
        if p.2 < c.entry + c.len ∨ v.cu.running = true ∨ (portOf f.d ≠ [] ∧ (rollBad f s = true ∨ heldFull f s = true)) ∨
            sbBusy (operandKeys f.a 0 (rotBase s) 0 ++ operandKeys f.b 0 (rotBase s) 0 ++ operandKeys f.d 0 (rotBase s) 0) [] s then none
        else some (f, cxStart n f (enableOf f s) c p s)))
  | _ => none

/-- A memory word of the vector stream or a custom opcode is not held by what every such word passes: it is ready, a lane is enabled,
what it reads is fixed, its ports answer, and a push is allowed (R57, R114, R258). -/
def MemoryReady (gath : Bool) (f : VWord) (s : State) : Prop :=
  VecReady f s ∧ enableOf f s ≠ 0 ∧ ReadsFixed f s ∧
    (gath = true → ∀ n ∈ portOf f.b, popAns f.x n s = .ok) ∧
    (∀ n ∈ portOf f.d, pushAns n s = .ok ∧ rollBad f s = false ∧ heldFull f s = false)

/-! ### Matrix words -/

/-- The work word of the matrix stream that an instruction is: its opcode and fields (R66). -/
def workRow : Instr → Option (Nat × MWord)
  | .mloadw f => some (0x10, f)
  | .mstepRow f => some (0x11, f)
  | .mstepCol f => some (0x11, f)
  | .mstepOuter f => some (0x11, f)
  | .mstepSamp f => some (0x11, f)
  | .mouter f => some (0x12, f)
  | .mdrain f => some (0x13, f)
  | .mscld f => some (0x14, f)
  | .mzero f => some (0x15, f)
  | .mnset f => some (0x16, f)
  | .mnest f => some (0x17, f)
  | .mnorm f => some (0x18, f)
  | .malias f => some (0x19, f)
  | .msamp f => some (0x1A, f)
  | .mswap f => some (0x1B, f)
  | .mstat f => some (0x1C, f)
  | _ => none

/-- The matrix stream can take a word with work: no earlier work is left, none that a stop interrupted is kept, and the cell is not frozen
(R167, R184, R185). -/
def MatFree (s : State) : Prop := s.mat.work = none ∧ s.mat.kept = none ∧ s.cell.frozen = none

/-- The machine at the start of the work of a word: the word has issued, and a nest has taken its pending table (R167, R246). -/
def atWork (op : Nat) (f : MWord) (s : State) : State :=
  let u : State := { s with mat := { s.mat with pc := s.mat.pc + 24, work := some (workOf op f s) } }
  if op = 0x17 then nestBegin (workOf op f s) u else u

/-- The work of a word passes the checks that are made at its start (R170, R171, R173, R175, R177, R179, R245, R246, R270, R273, R276,
R277). -/
def WorkPasses (op : Nat) (f : MWord) (s : State) : Prop := beginFault (atWork op f s) (workOf op f s) = none

/-- The work of a word as it stands when its checks are made: the pages that fix its formats are read, MNORM has found its K, and
MNSET, which is its table's load, is done (R161, R185, R186, R245, R270). -/
def begunWork (op : Nat) (f : MWord) (s : State) : Option MWork :=
  let u := atWork op f s
  let w := workOf op f s
  let b : MWork := { withPages u w with begun := true }
  if op = 0x16 then none
  else if op = 0x13 then some { b with nDiv := s.cell.sampN }
  else if op = 0x18 then some { b with pops := (normStart u w).toOption.getD 0 }
  else some b

/-- `n` further pieces of the work of the matrix engine, each a MATRIX_WORD_START (R167). -/
def Works : Nat → State → State → Prop
  | 0, s, t => t = s
  | n + 1, s, t => ∃ u, exec .matrixWordStart s = .next u ∧ Works n u t

/-- What a word of the matrix stream leaves as it was when it issues: the accumulators, the planes, the scales, the ring offsets and all
other engines, and memory. -/
def MatQuiet (s t : State) : Prop :=
  t.mat.acc = s.mat.acc ∧ t.mat.accP = s.mat.accP ∧ t.mat.active = s.mat.active ∧ t.mat.shadow = s.mat.shadow ∧
    t.mat.scale = s.mat.scale ∧ t.mat.rd = s.mat.rd ∧ t.mat.wr = s.mat.wr ∧ t.mat.unfinished = s.mat.unfinished ∧ t.vec = s.vec ∧
    t.cl = s.cl ∧ t.dev = s.dev

/-- The control words of the matrix stream in a state in which they neither wait nor fault: the state that each leaves, with its
issue counted in an open segment (R182, R183, R225, R231, R236, R262). -/
def matRow (i : Instr) (s : State) : Option State :=
  let m := s.mat
  let seg (feed : Bool) : Seg :=
    if m.seg.opened then
      { m.seg with count := m.seg.count + 1, crc := if feed then crc32Feed m.seg.crc (leBytes 24 s.word) else m.seg.crc }
    else m.seg
  let at_ (pc : BitVec 48) : State := { s with mat := { m with pc, stat := .issuing, wait := .none, seg := seg true } }
  let dst (f : MWord) : BitVec 48 := m.pc + 24 * f.aux.signExtend 48
  let on : State := at_ (m.pc + 24)
  match i with
  | .mnop _ => some on
  | .mbr f => some (at_ (dst f))
  | .mhalt _ =>
    if m.unfinished ≠ [] then none
    else
      some (if m.token then { on with mat := { on.mat with token := false } }
        else { on with mat := { on.mat with running := false, stat := .halted } })
  | .mloop f =>
    match m.loops with
    | (pc, n + 1) :: r =>
      if pc = m.pc then some { at_ (dst f) with mat := { (at_ (dst f)).mat with loops := (pc, n) :: r } }
      else if 4 ≤ m.loops.length then none
      else if f.cnt = 0 then some on
      else some { at_ (dst f) with mat := { (at_ (dst f)).mat with loops := (m.pc, f.cnt.toNat - 1) :: m.loops } }
    | (pc, 0) :: r =>
      if pc = m.pc then some { on with mat := { on.mat with loops := r } }
      else if 4 ≤ m.loops.length then none
      else if f.cnt = 0 then some on
      else some { at_ (dst f) with mat := { (at_ (dst f)).mat with loops := (m.pc, f.cnt.toNat - 1) :: m.loops } }
    | [] => if f.cnt = 0 then some on else some { at_ (dst f) with mat := { (at_ (dst f)).mat with loops := [(m.pc, f.cnt.toNat - 1)] } }
  | .mwait f =>
    match auxAt f.aux with
    | .addr a =>
      if regionFault s .read a 16 = none ∧
          ((syncRead s (locSpad ownPos a)).gen + 2 ^ 32 - f.tor.toNat) % 2 ^ 32 < 2 ^ 31 then
        some (observeSync (locSpad ownPos a) f.tor.toNat on)
      else none
    | _ => none
  | .msig f => if m.unfinished = [] then some (pulse 5 (f.aux.toNat % 256) (retireMarker 4 (f.aux.setWidth 8) on)) else none
  | .mrdv f => if rdvFired s (f.aux.setWidth 3) then some (observeRdv (f.aux.toNat % 8) on) else none
  | .msegOpen f => if m.seg.opened then none else some { on with mat := { on.mat with seg := Seg.start (f.toc ++ f.tor) } }
  | .msegClose _ =>
    let t : State := { on with mat := { on.mat with seg := Seg.closed } }
    if m.seg.opened && closesWell (seg false) s t then some (afterPair (seg false) t) else none
  | _ => none

/-! ### Micro-ops -/

/-- A computing micro-op: its code, the opcode of its counterpart, how many sources it reads, and its fields (R331). -/
def uopRow : Instr → Option (Nat × Nat × Nat × UWord)
  | .uadd f => some (0x01, 0x20, 2, f)
  | .usub f => some (0x02, 0x21, 2, f)
  | .umul f => some (0x03, 0x22, 2, f)
  | .ufma f => some (0x04, 0x23, 3, f)
  | .ufms f => some (0x05, 0x24, 3, f)
  | .ufnma f => some (0x06, 0x25, 3, f)
  | .umin f => some (0x07, 0x26, 2, f)
  | .umax f => some (0x08, 0x27, 2, f)
  | .uabs f => some (0x09, 0x28, 1, f)
  | .uneg f => some (0x0A, 0x29, 1, f)
  | .ucpys f => some (0x0B, 0x2A, 2, f)
  | .ucmp f => some (0x0C, 0x2B + f.imm.toNat % 8, 2, f)
  | .usel f => some (0x0D, 0x30, 2, f)
  | .urnd f => some (0x0E, 0x31, 1, f)
  | .ucvt f => some (0x0F, 0x32, 1, f)
  | .udot f => some (0x10, 0x33, 3, f)
  | .uscale f => some (0x11, 0x34, 2, f)
  | .uexpo f => some (0x12, 0x35, 1, f)
  | .uclamp f => some (0x13, 0x36, 3, f)
  | .uiadd f => some (0x14, 0x40, 2, f)
  | .uisub f => some (0x15, 0x41, 2, f)
  | .uimul f => some (0x16, 0x42, 2, f)
  | .uimad f => some (0x17, 0x43, 3, f)
  | .uand f => some (0x18, 0x44, 2, f)
  | .uior f => some (0x19, 0x45, 2, f)
  | .uxor f => some (0x1A, 0x46, 2, f)
  | .ushl f => some (0x1B, 0x47, 2, f)
  | .ushr f => some (0x1C, 0x48, 2, f)
  | .ushra f => some (0x1D, 0x49, 2, f)
  | .upopc f => some (0x1E, 0x4A, 1, f)
  | .uclz f => some (0x1F, 0x4B, 1, f)
  | .uiabs f => some (0x20, 0x4C, 1, f)
  | .uadds f => some (0x21, 0x4D, 2, f)
  | .usubs f => some (0x22, 0x4E, 2, f)
  | .ubsel f => some (0x23, 0x4F, 3, f)
  | .urot f => some (0x24, 0x63, 1, f)
  | .ubcast f => some (0x25, 0x61, 1, f)
  | .uperm f => some (0x26, 0x62, 2, f)
  | .usum f => some (0x27, 0x64, 1, f)
  | .umaxr f => some (0x28, 0x65, 1, f)
  | .uexp2F f => some (0x30, 0x50, 1, f)
  | .uexp2R f => some (0x31, 0x51, 1, f)
  | .ulog2F f => some (0x32, 0x52, 1, f)
  | .ulog2R f => some (0x33, 0x53, 1, f)
  | .urcpF f => some (0x34, 0x54, 1, f)
  | .urcpR f => some (0x35, 0x55, 1, f)
  | .ursqF f => some (0x36, 0x56, 1, f)
  | .ursqR f => some (0x37, 0x57, 1, f)
  | .usinpiF f => some (0x38, 0x58, 1, f)
  | .usinpiR f => some (0x39, 0x59, 1, f)
  | .ucospiF f => some (0x3A, 0x5A, 1, f)
  | .ucospiR f => some (0x3B, 0x5B, 1, f)
  | .utanhF f => some (0x3C, 0x5C, 1, f)
  | .utanhR f => some (0x3D, 0x5D, 1, f)
  | .usigmF f => some (0x3E, 0x5E, 1, f)
  | .usigmR f => some (0x3F, 0x5F, 1, f)
  | _ => none

/-- An invocation runs, has a micro-op to execute, and keeps the limit of 65,536 (R340). -/
def UopReady (s : State) : Prop :=
  s.vec.cu.running = true ∧ s.vec.cu.stopped = false ∧ s.vec.cu.ending = false ∧ s.vec.cu.count < 65536

/-- The sources of a micro-op can be read: no write port is a source, each has landed, and each read port has an entry (R330, R338). -/
def SourcesReady (ns : List Nat) (s : State) : Prop :=
  (8 ∈ ns → portOf s.vec.cu.f.d = []) ∧ uLanded ns s = true ∧ ∀ n ∈ uPorts ns s.vec.cu, popAns true n s = .ok

/-- The unit after a micro-op: one more is counted, the next stands at `upc`, and the invocation ends after its END word (R333,
R340). -/
def Custom.after (c : Custom) (f : UWord) (upc : Nat) : Custom := { c with count := c.count + 1, upc, ending := f.fin, adv := true }

/-- What a computing micro-op computes: what its counterpart does, on the sources read, with the micro-mask top for the mask top and the
enables (R330 to R332). -/
def uopIn (code op n : Nat) (f : UWord) (s : State) : VIn :=
  let t := f.ut.toNat
  let src := if code = 0x0F then f.imm.toNat % 16 else t
  let at_ (k m ty : Nat) : List Lane := if k < n then (uSource ty m s).lanes else List.replicate 64 0
  { op, t, src, rep := 0, fa := Operand.unused,
    fb := if code = 0x0F then .imm (BitVec.ofNat 21 (f.imm.toNat / 16 % 16))
      else if code = 0x0E ∨ code = 0x24 ∨ code = 0x25 then .imm (BitVec.ofNat 21 f.imm.toNat) else Operand.unused,
    a := at_ 0 f.s1.toNat t, b := at_ 1 f.s2.toNat (if code = 0x11 ∨ code = 0x26 then 3 else t), d := at_ 2 f.s3.toNat t,
    mtop := s.vec.cu.top, en := s.vec.cu.top, key := 0 }

/-- The marks of the sources of a computing micro-op. -/
def uopMarks (n k m ty : Nat) (s : State) : BitVec 64 := if k < n then (uSource ty m s).marks else 0

/-- The result that a computing micro-op puts on its way (R332, R338). -/
def uopFlight (code op n : Nat) (f : UWord) (s : State) : UFlight :=
  let i := uopIn code op n f s
  let r := vcompute i
  { code, f, left := (latencyOf op f.ut.toNat).getD 1, en := s.vec.cu.top &&& r.wr,
    pois := vpoison i (uopMarks n 0 f.s1.toNat i.t s) (uopMarks n 1 f.s2.toNat (if code = 0x11 ∨ code = 0x26 then 3 else i.t) s)
      (uopMarks n 2 f.s3.toNat i.t s) (decide (n = 3)), res := r.lo }

/-- The control micro-ops in a state in which they neither wait nor trap: the unit that each leaves (R333). -/
def uopControl (i : Instr) (s : State) : Option State :=
  let c := s.vec.cu
  let go (c2 : Custom) (f : UWord) (upc : Nat) : State := { s with vec := { s.vec with cu := c2.after f upc } }
  match i with
  | .unop f => some (go c f (c.upc + 1))
  | .uloop f =>
    let n := if f.s1 = 11 then f.imm.toNat else Nat.min (vget c.xs (f.s1.toNat - 16) 0).toNat 65535
    let len := 32 * f.s2.toNat + f.s3.toNat
    if n = 0 then some (go c f (c.upc + len + 2)) else some (go { c with loops := c.loops ++ [(c.upc + 1, n - 1)] } f (c.upc + 1))
  | .ulend f =>
    match c.loops.getLast? with
    | some (start, n) =>
      if 0 < n then some (go { c with loops := c.loops.dropLast ++ [(start, n - 1)] } f start)
      else some (go { c with loops := c.loops.dropLast } f (c.upc + 1))
    | none => none
  | .uskip f =>
    if f.imm.getLsbD 8 = false ∨ c.top = 0 then some (go c f (c.upc + 1 + f.imm.toNat % 256)) else some (go c f (c.upc + 1))
  | .umpop f => if c.masks = [] then none else some (go { c with masks := c.masks.dropLast } f (c.upc + 1))
  | .uminv f =>
    if c.masks = [] then none
    else some (go { c with masks := c.masks.dropLast ++ [(c.masks.dropLast.getLast?).getD c.enable &&& ~~~ c.top] } f (c.upc + 1))
  | _ => none

/-! ### Events

For each event, where it can come about, what the state after it holds. -/

/-- The results in flight one cycle later. -/
def older (l : List Flight) : List Flight := l.map (fun g => { g with left := g.left - 1 })

/-- A computed result has landed: its enabled lanes stand in the tile that D names, with their marks, or its value in the x register,
or its vector in the port that it pushes (R112, R114, R115, R151). Stores, VAMAX, XPUT, and a push that finds no room, are not of this
shape. -/
def landed (fl : Flight) (s : State) : Option State :=
  if isStoreOp fl.op ∨ fl.op = 0x66 ∨ fl.op = 0x19 then none
  else
    match fl.f.d with
    | .xreg n =>
      if writesX fl.op then
        some { s with vec := { s.vec with
          x := vset s.vec.x n.toNat (xcompute fl.op (vecSub fl.op fl.f) fl.f.t.toNat fl.f.b fl.a fl.b) } }
      else none
    | .tile _ _ _ _ _ _ =>
      if writesX fl.op then none
      else
        (let r := vcompute (flightIn fl)
         let s1 := writeKeys (operandKeys fl.f.d fl.rep fl.rb 0) r.lo (fl.en &&& r.wr) fl.pois s
         some (match r.hi with
           | some hi => writeKeys (operandKeys fl.f.d fl.rep fl.rb 1) hi (fl.en &&& r.wr) fl.pois s1
           | none => s1))
    | .port p =>
      (let q := vget s.vec.ports p.toNat Port.zero
       let r := vcompute (flightIn fl)
       if writesX fl.op ∨ fl.src.isSome ∨ 8 ≤ q.entries.length then none
       else some { s with vec := { s.vec with
         seqCtr := s.vec.seqCtr + 1,
         ports := vset s.vec.ports p.toNat { q with
           entries := q.entries ++ [{ lanes := r.lo, pois := fl.pois, fill := fl.en &&& r.wr, pending := none, seq := fl.num, grp := s.vec.seqCtr }],
           taken := q.taken + 1 } } })
    | _ => none

/-- The bytes of a store stand in the vector store queue (R157, R299). -/
def Queued (cells : List Host.Cell) (t : State) : Prop := ∀ c ∈ cells, ∃ e ∈ t.vec.stores, e.q = 4 ∧ c ∈ e.cells

/-- The events of the engines of the cell (R77, R78, R87, R99, R107, R112, R225, R227 to R231, R236, R322). -/
def engineEvent (i : Instr) (s : State) : Option (State → Prop) :=
  let b := s.cell.sluice
  let took (p : BitVec 32 → Bool) : Option (List (BitVec 32)) := (b.outs.find? p).map b.outs.erase
  match i with
  | .clustergoWrite c mask =>
    if cellRuns s ∧ (clus s c).active then
      some (fun t => (∀ n : Fin 4, if n ≠ 0 ∧ mask.getLsbD n.val = true ∧
            ((clus s n).active = false ∨ ∃ p ∈ s.startedNow, p.1 = n.val ∧ p.2 < c.val) then
          (clus t n).active = true ∧ (clus t n).sup = false ∧ (clus t n).pc = (readReg s c 1).setWidth 48 ∧
            (clus t n).s = Vector.replicate 23 0 ∧ (n.val, c.val) ∈ t.startedNow
        else clus t n = clus s n) ∧ t.dev = s.dev ∧ t.vec = s.vec ∧ t.mat = s.mat)
    else none
  | .preemptYield =>
    if s.cell.bound then
      some (fun t => t.cell = { s.cell with pReq := true } ∧ t.cl = s.cl ∧ t.vec = s.vec ∧ t.mat = s.mat ∧ t.dev.mem = s.dev.mem ∧
        ∀ l ∈ s.dev.launches, l.bound = true → l.q = s.cell.task.q → l.num = s.cell.task.num → { l with req := true } ∈ t.dev.launches)
    else none
  | .preemptHoldExpiry =>
    if s.cell.pReq ∧ s.cell.pHold then some (fun t => t = { s with cell := { s.cell with pExpired := true } }) else none
  | .trapDelivery =>
    s.vec.trap.bind (fun d =>
      if deliveryDue s ∧ (d.keep ∨ frameOk s) then
        some (fun t => t.vec.delivered = true ∧ (clus t 0).sup = true ∧ (clus t 0).tpc = d.tpc ∧ (clus t 0).tval = d.tval ∧
          (clus t 0).tcpc = (clus s 0).pc ∧ (clus t 0).tcause.toNat % 256 = d.code % 256 ∧
          (clus t 0).tcause.toNat / 2 ^ 12 % 16 = d.eng % 16 ∧ (clus t 0).tcause.getLsbD 8 = (clus s 0).sup ∧
          (clus t 0).pc = BitVec.ofNat 48 (s.cell.tvb.toNat / 2 ^ 6 % 2 ^ 42 * 2 ^ 6) ∧ (∀ n : Fin 4, n ≠ 0 → clus t n = clus s n) ∧
          t.vec.trap = s.vec.trap ∧ t.mat = s.mat)
      else none)
  | .wfeWake c =>
    if (clus s c).stat ≠ .waiting ∨ (clus s c).wait ≠ .wfe then
      some (fun t => (clus t c) = { clus s c with wake := true } ∧ (∀ n, n ≠ c → clus t n = clus s n) ∧ t.cell = s.cell ∧ t.vec = s.vec ∧
        t.mat = s.mat ∧ t.dev = s.dev)
    else none
  | .reeveResultLand c =>
    if s.cell.gated = false ∧ ∃ p ∈ (clus s c).pend, 0 < p.left then
      some (fun t => (∀ n, (clus t n).pend =
            ((clus s n).pend.map (fun p => { p with left := p.left - 1 })).filter (fun p => decide (p.left ≠ 0))) ∧
        (∀ p, (clus s c).pend = [p] → p.left = 1 → (∀ n, n ≠ c → (clus s n).pend = []) → s.gSnap = none →
          readReg t c p.reg = if p.reg = 0 then 0 else p.val) ∧
        (∀ n, (clus t n).pc = (clus s n).pc) ∧ t.cell.cycle = s.cell.cycle + 1 ∧ t.vec = s.vec ∧ t.mat = s.mat ∧ t.dev = (fireRdvs s).dev)
    else none
  | .matrixWordComplete =>
    match s.mat.unfinished with
    | [] => some (fun t => t = s)
    | _ :: r => some (fun t => t = { s with mat := { s.mat with unfinished := r } })
  | .rdvWaitRelease e =>
    let u := s
    if 5 < e then some (fun t => t = u)
    else if e = 5 ∧ matWaits .rendezvous u then
      (matWordAt u).bind (fun w => (matView w).bind (fun v =>
        if v.1 = 0x06 ∧ rdvFired u (v.2.2.aux.setWidth 3) = true then
          some (fun t => t.mat.pc = s.mat.pc + 24 ∧ t.mat.stat = .issuing ∧ t.cl = u.cl ∧ t.cell = u.cell ∧
            t.dev = (observeRdv (v.2.2.aux.toNat % 8) u).dev)
        else none))
    else if e = 4 ∧ vecWaits .rendezvous u then
      (vecWordAt u).bind (fun w => (vecView w).bind (fun v =>
        if v.1 = 0x0A ∧ predOn v.2.2 u = true ∧ rdvFired u (BitVec.ofNat 3 (immNat v.2.2.b)) = true ∧ u.vec.loops = [] ∧
            v.2.2.rep = 0 ∧ u.vec.repj = 0 then
          some (fun t => VecReady v.2.2 u → t.vec.pc = s.vec.pc + 12 ∧ t.vec.stat = .issuing ∧ t.cl = u.cl ∧
            t.dev = (observeRdv (immNat v.2.2.b % 8) u).dev)
        else none))
    else none
  | .syncWaitRelease e =>
    if 5 < e then some (fun t => t = s)
    else if e = 5 ∧ matWaits .sync s then
      (matWordAt s).bind (fun w => (matView w).bind (fun v =>
        match auxAt v.2.2.aux with
        | .addr a =>
          if v.1 = 0x04 ∧ regionFault s .read a 16 = none ∧
              ((syncRead s (locSpad ownPos a)).gen + 2 ^ 32 - v.2.2.tor.toNat) % 2 ^ 32 < 2 ^ 31 then
            some (fun t => t.mat.pc = s.mat.pc + 24 ∧ t.mat.stat = .issuing ∧ t.cl = s.cl ∧ t.cell = s.cell ∧
              t.dev = (observeSync (locSpad ownPos a) v.2.2.tor.toNat s).dev)
          else none
        | _ => none))
    else none
  | .sluicePulse =>
    match b.pulses with
    | [] => none
    | p :: r =>
      some (fun t => t.cell.sluice.pulses = r ∧ t.cell.sluice.outs = b.outs ∧
        (∀ k, k < 16 → vget t.cell.sluice.counts k 0 =
          if (vget b.cnt k 0).getLsbD 7 = true ∧ srcMatches (vget b.src ((vget b.cnt k 0).toNat % 32) 0) p.1 p.2 = true ∧
              vget b.counts k 0 ≠ BitVec.allOnes 32 then vget b.counts k 0 + 1 else vget b.counts k 0) ∧
        { t with cell := s.cell } = s)
  | .sluiceTermFire k =>
    (termCounters b k.val).map (fun _ t =>
      t.cell.sluice.outs = b.outs ++ ((List.range 8).filter (fun n => (termCounters b n).isSome)).filterMap (fun n =>
        let o := (vget b.terms n { masks := Vector.replicate 4 0, out := 0 }).out
        if o.toNat % 16 = 0 then none else some o) ∧
      t.cell.sluice.pulses = b.pulses ∧ { t with cell := s.cell } = s)
  | .sluiceVectorResume =>
    (took (fun o => decide (o.toNat % 16 = 1))).map (fun r t =>
      t.cell = { s.cell with sluice := { b with outs := r } } ∧ t.vec.running = true ∧ t.vec.pc = s.vec.pc ∧
        (s.vec.running = true → t.vec = { s.vec with token := true }) ∧ t.cl = s.cl ∧ t.mat = s.mat ∧ t.dev = s.dev)
  | .sluiceMatrixResume =>
    (took (fun o => decide (o.toNat % 16 = 2))).map (fun r t =>
      t.cell = { s.cell with sluice := { b with outs := r } } ∧ t.mat.running = true ∧ t.mat.pc = s.mat.pc ∧
        (s.mat.running = true → t.mat = { s.mat with token := true }) ∧ t.cl = s.cl ∧ t.vec = s.vec ∧ t.dev = s.dev)
  | .sluiceJobRelease l =>
    (took (fun o => decide (o.toNat % 16 = 3) && decide (o.toNat / 256 % 8 = l.val))).map (fun r t =>
      t.cell.sluice.outs = r ∧ t.cl = s.cl ∧ t.vec = s.vec ∧ t.mat = s.mat ∧ t.dev = s.dev ∧
        (match s.cell.jobs.find? (fun j => !j.released && decide (byteAt j.card 4 / 16 % 8 = l.val)) with
         | some j => t.cell.jobs = s.cell.jobs.map (fun x => if x.adm = j.adm then { x with released := true } else x) ∧
             t.cell.sluice.tokens = b.tokens
         | none => t.cell.jobs = s.cell.jobs ∧ vget t.cell.sluice.tokens l.val 0 = Nat.min (vget b.tokens l.val 0 + 1) 255))
  | .sluiceCollRelease =>
    (took (fun o => decide (o.toNat % 16 = 4))).map (fun r t =>
      t.cell.sluice.outs = r ∧ t.cl = s.cl ∧ t.vec = s.vec ∧ t.mat = s.mat ∧ t.dev = s.dev ∧
        (match s.cell.colls.find? (fun c => !c.released) with
         | some c => t.cell.colls = s.cell.colls.map (fun x => if x.adm = c.adm then { x with released := true } else x) ∧
             t.cell.mends = s.cell.mends ∧ t.cell.sluice.collTokens = b.collTokens
         | none => t.cell.colls = s.cell.colls ∧ ((∀ m ∈ s.cell.mends, m.released = true) →
             t.cell.sluice.collTokens = Nat.min (b.collTokens + 1) 255)))
  | .sluiceWake mask =>
    (took (fun o => decide (o.toNat % 16 = 5) && decide (o.toNat / 65536 % 16 = mask.toNat))).map (fun r t =>
      t.cell = { s.cell with sluice := { b with outs := r } } ∧
        (∀ c : Fin 4, clus t c = if mask.getLsbD c.val then { clus s c with wake := true } else clus s c) ∧ t.vec = s.vec ∧
        t.mat = s.mat ∧ t.dev = s.dev)
  | .vectorResultLand =>
    if s.vec.adv ∧ s.cell.frozen = none then
      some (fun t =>
        ((∀ fl ∈ s.vec.flights, 1 < fl.left) → t = { s with vec := { s.vec with adv := false, flights := older s.vec.flights } }) ∧
        (∀ fl r u, s.vec.flights = fl :: r → fl.left = 1 → fl.valid = true → (∀ g ∈ r, 1 < g.left) → landed fl s = some u →
          t = { u with vec := { u.vec with adv := false, flights := older r, stale := t.vec.stale, pendWords := t.vec.pendWords } }))
    else none
  | .vectorStoreLand =>
    if s.vec.parked ≠ [] then
      some (fun t => ∀ n fl g u, s.vec.parked = [(n, fl)] → resolveStore fl s = .ok (g, u) →
        (g.mt = 3 → strongHeld n u = false) →
        let e := enqueueStore n g u
        t = { e with vec := { e.vec with parked := e.vec.parked.filter (fun q => decide (q.1 ≠ n)) } } ∧ Queued g.cells t)
    else if s.vec.adv ∧ s.cell.frozen = none then
      some (fun t =>
        ((∀ fl ∈ s.vec.flights, 1 < fl.left) → t = { s with vec := { s.vec with adv := false, flights := older s.vec.flights } }) ∧
        (∀ fl r g u, s.vec.flights = fl :: r → fl.left = 1 → fl.valid = true → fl.store = true → isStoreOp fl.op = true → fl.en ≠ 0 →
          (∀ g ∈ r, 1 < g.left) →
          resolveStore { fl with left := 0 } { s with vec := { s.vec with flights := [] } } = .ok (g, u) →
          (g.mt = 3 → strongHeld fl.num u = false) →
          let e := enqueueStore fl.num g u
          t = { e with vec := { e.vec with adv := false, flights := older r, pendWords := t.vec.pendWords } } ∧ Queued g.cells t))
    else none
  | _ => none

/-- What an invalidation request leaves: the register holds the request with GO set, no translation that `hit` names is kept in the
cell or on the die, every other one is, and nothing of the engines changes (R292). -/
def Invalidated (vpn ctx mode : Nat) (hit : TlbEnt → Prop) (s t : State) : Prop :=
  t.dev.tlbInv.toNat = vpn % 2 ^ 32 * 2 ^ 32 + ctx % 2 ^ 16 * 2 ^ 16 + mode * 4 + 1 ∧
    (∀ e, e ∈ t.cell.tlb ↔ e ∈ s.cell.tlb ∧ ¬hit e) ∧ (∀ e, e ∈ t.dev.dieTlb ↔ e ∈ s.dev.dieTlb ∧ ¬hit e) ∧
    t.dev.walks.length = s.dev.walks.length ∧
    t.dev.mem = s.dev.mem ∧ t.cl = s.cl ∧ t.vec = s.vec ∧ t.mat = s.mat

/-- The events that a write of a register starts, or that the firmware starts for the queues. -/
def byRegister : Instr → Bool
  | .ebClr _ | .ebClrcnt _ | .launchArrival _ _ _ _ | .firmwareBind _ _ _ _ | .armedWithdraw _ | .firmwareArm _ _ _ _ | .qsheadWrite _ _ _
  | .syncaddWrite _ _ _ | .lctlKill _ _ _ | .lctlPreempt _ _ _ | .lctlRelease _ _ _ | .preemptRequest _ _ | .pfresRetry _
  | .pfresInvalid _ | .tlbinvPage _ _ | .tlbinvContext _ | .tlbinvAll | .frtload | .flinkdn _ | .keyLoad _ _ | .lkctlSwitch _ => true
  | _ => false

/-- A part that is not in phase 8, in safe mode too, does not act on such an event (R419). -/
abbrev unheard (i : Instr) (s : State) : Prop := byRegister i = true ∧ s.dev.bootReady = false

/-- The events of translation (R290 to R294, R20). -/
def translationEvent (i : Instr) (s : State) : Option (State → Prop) :=
  let d := s.dev
  if unheard i s then some (fun t => t = s)
  else match i with
  | .walkComplete k =>
    (d.walks.take walkSlots)[k]?.bind (fun w =>
      if w.stale then some (fun t => t = { s with dev := { d with walks := d.walks.set k { w with stale := false } } })
      else
        match walkOf s w.ctx w.va with
        | .leaf big e =>
          if !w.want.any (wantOk e (if w.ctx = s.cell.task.ctx then s.cell.task.hostAcc else tb (byteAt (ctxRecord s w.ctx) 58) 1)) then
            some (fun t => t.cell.tlb = s.cell.tlb ∧ t.dev = { d with walks := d.walks.eraseIdx k } ∧
              (w.ctx = s.cell.task.ctx → ∀ e ∈ w.joined, (e, w.vpn) ∈ t.cell.invalid) ∧ t.cl = s.cl ∧ t.vec = s.vec ∧ t.mat = s.mat)
          else
          some (fun t => { ctx := w.ctx, big, vpn := w.vpn, leaf := e } ∈ t.cell.tlb ∧ t.cell.tlb.length ≤ Nat.max 256 s.cell.tlb.length ∧
            { ctx := w.ctx, big, vpn := w.vpn, leaf := e } ∈ t.dev.dieTlb ∧ t.dev.dieTlb.length ≤ Nat.max 16384 d.dieTlb.length ∧
            t.dev = { d with walks := d.walks.eraseIdx k, dieTlb := t.dev.dieTlb } ∧ t.cl = s.cl ∧ t.vec = s.vec ∧ t.mat = s.mat)
        | .invalid level =>
          if d.faults.any (fun f => decide (f.walk.ctx = w.ctx) && decide (f.walk.vpn = w.vpn)) then
            some (fun t => t.dev.walks = d.walks.eraseIdx k ∧ t.dev.faults.length = d.faults.length ∧
              (∀ f ∈ t.dev.faults, f.walk.ctx = w.ctx → f.walk.vpn = w.vpn → ∀ e ∈ w.joined, e ∈ f.walk.joined) ∧ t.dev.mem = d.mem ∧
              t.cell = s.cell ∧ t.cl = s.cl ∧ t.vec = s.vec ∧ t.mat = s.mat)
          else
            some (fun t => t.dev.walks = d.walks.eraseIdx k ∧ (∃ f ∈ t.dev.faults, f.walk = w ∧ f.level = level) ∧
              t.dev.faults.length = d.faults.length + 1 ∧ t.cell = s.cell ∧ t.cl = s.cl ∧ t.vec = s.vec ∧ t.mat = s.mat)
        | .malformed => none)
  | .faultQueueRoom =>
    if d.pfqTail + 1 = d.pfqHead then none
    else
      (d.faults.find? (fun f => !f.written)).map (fun f t =>
        let a := 2 ^ 62 + (d.pfqBase.toNat % 2 ^ 62 + 32 * d.pfqTail.toNat)
        t.dev.pfqTail = d.pfqTail + 1 ∧
        (memWf d.mem = true → (∀ n b, (faultBytes f)[n]? = some b → memGet t.dev.mem (a + n) = b) ∧
          (∀ l, l < a ∨ a + 32 ≤ l → memGet t.dev.mem l = memGet d.mem l)) ∧ t.cell = s.cell ∧ t.cl = s.cl ∧ t.vec = s.vec ∧ t.mat = s.mat)
  | .pfresRetry id =>
    (d.faults.find? (fun f => decide (f.id = id) && f.written)).map (fun f t =>
      t.dev.faults = d.faults.filter (fun g => decide (g.id ≠ id)) ∧
        (let same (w : Walk) : Bool := decide (w.ctx = f.walk.ctx) && decide (w.vpn = f.walk.vpn)
         t.dev.walks = (if f.walk.joined = [] then d.walks
           else if d.walks.any same then d.walks.map (fun w => if same w then w.join f.walk else w)
           else if 1152 ≤ d.walks.length then d.walks else d.walks ++ [{ f.walk with stale := false }])) ∧ t.dev.mem = d.mem ∧
        t.cell = s.cell ∧ t.cl = s.cl ∧ t.vec = s.vec ∧ t.mat = s.mat)
  | .pfresInvalid id =>
    (d.faults.find? (fun f => decide (f.id = id) && f.written)).map (fun f t =>
      t.dev.faults = d.faults.filter (fun g => decide (g.id ≠ id)) ∧ t.dev.walks = d.walks ∧ t.dev.mem = d.mem ∧
        (f.walk.ctx = s.cell.task.ctx → ∀ e ∈ f.walk.joined, (e, f.walk.vpn) ∈ t.cell.invalid) ∧ t.cl = s.cl ∧ t.vec = s.vec ∧
        t.mat = s.mat)
  | .tlbinvPage ctx vpn =>
    if d.tlbInv.getLsbD 0 then none
    else
      some (Invalidated vpn ctx 0 (fun e => e.ctx = ctx % 2 ^ 16 ∧
        (if e.big then e.vpn / 32 = vpn % 2 ^ 32 / 32 else e.vpn = vpn % 2 ^ 32)) s)
  | .tlbinvContext ⟨ctx, vpn⟩ => if d.tlbInv.getLsbD 0 then none else some (Invalidated vpn ctx 1 (fun e => e.ctx = ctx % 2 ^ 16) s)
  | .tlbinvAll => if d.tlbInv.getLsbD 0 then none else some (fun t => ∃ vpn ctx, Invalidated vpn ctx 2 (fun _ => True) s t)
  | .tlbinvComplete =>
    if translatedDone s then
      some (fun t => t.dev.tlbInv.getLsbD 0 = false ∧ (∀ n, 0 < n → t.dev.tlbInv.getLsbD n = d.tlbInv.getLsbD n) ∧ t.dev.mem = d.mem ∧
        t.cell = s.cell ∧ t.cl = s.cl ∧ t.vec = s.vec ∧ t.mat = s.mat)
    else none
  | .contextDeparture ctx =>
    if ctxInUse ctx s then none
    else
      some (fun t => t.dev.ctxs = d.ctxs.filter (fun c => decide (c.id ≠ ctx)) ∧ (∀ w ∈ t.dev.walks, w.ctx ≠ ctx) ∧
        (∀ e ∈ t.cell.tlb, e.ctx ≠ ctx) ∧ (∀ e ∈ t.dev.dieTlb, e.ctx ≠ ctx) ∧ t.dev.mem = d.mem ∧ t.cl = s.cl ∧ t.vec = s.vec ∧ t.mat = s.mat)
  | _ => none

/-- No queue has posted records that the device has not taken. -/
def NothingPosted (s : State) : Prop := ∀ q, q < 64 → (vget s.dev.queues q Queue.zero).head = (vget s.dev.queues q Queue.zero).tail

/-- Nothing of the engines, the cell and memory differs. -/
def CellKept (s t : State) : Prop := t.cell = s.cell ∧ t.cl = s.cl ∧ t.vec = s.vec ∧ t.mat = s.mat ∧ t.dev.mem = s.dev.mem

/-- A task has just been bound to the cell: c0 starts in user mode at the entry of its launch, everything else of the task's engines is
at its initial value, and what the context keeps is loaded (R13, R14, R316). -/
def TaskStarts (l : Launch) (t : State) : Prop :=
  t.cell.bound = true ∧ (clus t 0).active = true ∧ (clus t 0).sup = false ∧ (clus t 0).pc = BitVec.ofNat 48 (leAt l.bytes 0 6) ∧
    (clus t 0).s = Vector.replicate 23 0 ∧ (∀ n : Fin 4, n ≠ 0 → (clus t n).active = false) ∧ t.cell.g = Vector.replicate 8 0 ∧
    t.vec.running = false ∧ t.vec.pc = BitVec.ofNat 48 (leAt l.bytes 6 6) ∧ t.vec.x = Vector.replicate 16 0 ∧ t.vec.tile = [] ∧
    t.vec.mask = [] ∧ t.mat.running = false ∧ t.mat.pc = BitVec.ofNat 48 (leAt l.bytes 12 6) ∧ t.mat.acc = [] ∧ t.cell.jobs = [] ∧
    t.cell.task.ctx = l.ctx ∧ t.cell.ps = (ctxOf t l.ctx).ps ∧ t.cell.fd = (ctxOf t l.ctx).fd ∧
    t.cell.tvb &&& ~~~tvbMask = 0 ∧ t.cell.tframe &&& ~~~tframeMask = 0

/-- The events of dispatch: launches, bindings, ends, launch control and power (R14, R22, R311 to R324). -/
def dispatchEvent (i : Instr) (s : State) : Option (State → Prop) :=
  let d := s.dev
  let queue (x : State) (q : Nat) : Queue := vget x.dev.queues q Queue.zero
  if unheard i s then some (fun t => t = s)
  else match i with
  | .launchArrival fn q tail slots =>
    let k := queue s q
    if queueReach s fn q = false then none
    else if k.ctl.getLsbD 0 = false ∨ 16 < (BitVec.ofNat 16 tail - k.head).toNat then
      some (fun t => (queue t q).ovf = true ∧ (queue t q).head = k.head ∧ (queue t q).tail = k.tail ∧ t.dev.launches = d.launches ∧
        CellKept s t)
    else
      match slots with
      | [b] =>
        if k.head = k.tail ∧ k.posters = [] ∧ BitVec.ofNat 16 tail = k.tail + 1 ∧ b.length = 128 ∧ (d.launches.filter (·.waiting)).length < 1024 ∧
            d.armed.all (fun a => decide (a.q ≠ q)) ∧ swf 0 0 d.slots then
          some (fun t => (∃ l, t.dev.launches = d.launches ++ [l] ∧ l.q = q ∧ l.num = k.head.toNat ∧ l.bytes = b ∧ l.bound = false ∧
            l.prio = byteAt b 20 % 8 ∧ l.ending = arrivalFault s l fn) ∧ (queue t q).head = k.head + 1 ∧ CellKept s t)
        else none
      | _ => none
  | .firmwareBind q num gangs cells =>
    (launchOf s q num).bind (fun l =>
      if (l.waiting && isPresented s l) = false then none
      else if l.resumes = false ∧ depFault s l then
        some (fun t => t.dev.launches = d.launches.map (fun x => if x.q = l.q ∧ x.num = l.num then { x with ending := some 7 } else x) ∧
          CellKept s t)
      else if launchReady s l ∧ !traceBad s l ∧ !d.launches.any (fun x => x.waiting && launchReady s x && admitsBefore x l && couldBind s x) ∧
          placementOk l gangs cells ∧ cells.all (cellFree s) ∧ traceAgrees s l gangs cells ∧
          (l.resumes = true → gangs = l.gangs) ∧ d.saved = [] ∧ d.ctxs.all (fun c => !c.cap.act) then
        some (fun t => NothingPosted s → (∃ x ∈ t.dev.launches, x.q = q ∧ x.num = num ∧ x.bound = true ∧ x.cells = cells ∧ x.gangs = gangs) ∧
          (0 ∉ cells → t.cl = s.cl ∧ t.vec = s.vec ∧ t.mat = s.mat) ∧
          (0 ∈ cells → l.resumes = false → TaskStarts l t))
      else none)
  | .armedWithdraw q => some (fun t => t.dev.armed = d.armed.filter (fun a => decide (a.q ≠ q)) ∧ { t with dev := d } = s)
  | .firmwareArm q header gangs cells =>
    let others := d.armed.filter (fun a => decide (a.q ≠ q))
    if q < 64 ∧ header.length = 36 ∧ cells.all (cellFree { s with dev := { d with armed := others } }) then
      some (fun t => t.dev.armed = others ++ [{ q, header, gangs, cells }] ∧ { t with dev := d } = s)
    else none
  | .taskRetire cell =>
    if cell ≠ 0 then
      some (fun t => t.dev.launches = d.launches.map (fun l =>
        if l.bound ∧ l.cells.contains cell = true then { l with retired := addSet l.retired cell } else l) ∧ CellKept s t)
    else if s.cell.bound ∧ ((s.cell.halting ∧ cellRuns s ∧ retireReady s) ∨ (killedHere s ∧ s.cell.jobs = [] ∧ s.cell.mends = [])) then
      some (fun t => t.cell.bound = false ∧ (clus t 0).active = false ∧ t.vec = s.vec ∧ t.mat = s.mat ∧ t.dev.mem = d.mem)
    else none
  | .launchEnd q num =>
    (launchOf s q num).bind (fun l =>
      if mayEnd l s ∧ (l.bytes.getD 25 0).getLsbD 1 = false ∧ l.ending ≠ some 3 ∧ d.status = [] ∧
          ((queue s q).ended - (queue s q).shead).toNat < 256 then
        some (fun t => NothingPosted s → t.dev.launches = d.launches.filter (fun x => decide (x.q ≠ q ∨ x.num ≠ num)) ∧
          (q < 64 → (queue t q).ended = (queue s q).ended + 1) ∧ t.dev.status = [] ∧ t.cell = s.cell ∧ t.cl = s.cl ∧
          (memWf d.mem = true → ∀ n b, (statusBytes l (l.ending.getD 0))[n]? = some b →
            memGet t.dev.mem (2 ^ 62 + ((queue s q).sbase.toNat % 2 ^ 62 + 16 * ((queue s q).ended.toNat % 256)) + n) = b))
      else none)
  | .qsheadWrite fn q v =>
    if queueReach s fn q ∧ d.status.all (fun e => decide (e.q ≠ q)) then
      some (fun t => (queue t q).shead = BitVec.ofNat 16 v ∧ (∀ p, p ≠ q → queue t p = queue s p) ∧ t.dev.status = d.status ∧ CellKept s t)
    else none
  | .syncaddWrite ctx index n =>
    (launchSync s (ctx % 65536) (index % 256)).map (fun loc t =>
      let w := syncRead s loc
      let c := w.arr + n % 2 ^ 32
      memWf d.mem = true → s.cell.swNow.all (fun i => decide (i.loc ≠ loc)) = true →
        (w.tgt = 0 → c < 2 ^ 32 → syncRead t loc = { w with arr := c }) ∧
        (w.tgt = 0 → 2 ^ 32 ≤ c → syncRead t loc = { w with arr := 2 ^ 32 - 1, ovf := true }) ∧
        (w.tgt ≠ 0 → syncRead t loc = { w with arr := c % w.tgt, gen := (w.gen + c / w.tgt) % 2 ^ 32 }) ∧
        (∀ a, a < loc ∨ loc + 16 ≤ a → memGet t.dev.mem a = memGet d.mem a) ∧ t.cl = s.cl ∧ t.vec = s.vec ∧ t.mat = s.mat)
  | .lctlKill fn q num =>
    if queueReach s fn q then
      match launchOf s q num with
      | none => some (fun t => t.dev.lctl.getLsbD 0 = false ∧ t.dev.launches = d.launches ∧ CellKept s t)
      | some l =>
        if l.bound = false ∧ l.ending = none ∧ (savedOf s l).all (fun v => v.cell.colls.isEmpty) then
          some (fun t => t.dev.lctl.getLsbD 0 = false ∧ CellKept s t ∧
            t.dev.launches = d.launches.map (fun x => if x.q = l.q ∧ x.num = l.num then { x with ending := some 1 } else x))
        else if ownLaunch s l ∧ (l.ending.isSome ∨ withdrawable s l = false) then
          some (fun t => t.dev.lctl.getLsbD 0 = false ∧ t.cell.frozen = none ∧ (∀ n : Fin 4, (clus t n).active = false) ∧ t.vec.running = false ∧
            t.mat.running = false ∧ (∀ j ∈ t.cell.jobs, j.started = true ∧ j.wait ≠ 0 ∧ j.stopping = true) ∧ t.cell.colls = [] ∧
            t.cell.mends = [])
        else none
    else none
  | .lctlPreempt fn q num =>
    if queueReach s fn q then
      match launchOf s q num with
      | none => some (fun t => t.dev.launches = d.launches ∧ CellKept s t)
      | some l =>
        if l.bound ∧ withdrawable s l = false then
          some (fun t => t.dev.launches = d.launches.map (fun x => if x.bound ∧ x.q = q ∧ x.num = num then { x with req := true } else x) ∧
            t.cl = s.cl ∧ t.vec = s.vec ∧ t.mat = s.mat ∧ (ownLaunch s l → t.cell = { s.cell with pReq := true }))
        else none
    else none
  | .preemptRequest q num =>
    (launchOf s q num).bind (fun l =>
      if withdrawable s l then
        some (fun t => t.dev.launches = d.launches.map (fun x =>
          if x.q = l.q ∧ x.num = l.num then { x with bound := false, cells := [], req := false, everBound := false } else x) ∧ t.cl = s.cl ∧
          (ownLaunch s l → t.cell.bound = false) ∧ t.dev.mem = d.mem)
      else
        some (fun t => t.dev.launches = d.launches.map (fun x => if x.bound ∧ x.q = q ∧ x.num = num then { x with req := true } else x) ∧
          t.cl = s.cl ∧ t.vec = s.vec ∧ t.mat = s.mat ∧ t.dev.mem = d.mem))
  | .lctlRelease fn q num =>
    if queueReach s fn q then
      if s.cell.frozen = none then some (fun t => t.dev.lctl.getLsbD 0 = false ∧ CellKept s t ∧ t.dev.launches = d.launches)
      else
        (launchOf s q num).bind (fun l =>
          if ownLaunch s l ∧ l.ending = none ∧ s.cell.frozen.any (fun f => !f.lost) ∧ (releaseCell s).1 then
            some (fun t => t.dev.lctl.getLsbD 0 = false ∧ t.cell = (releaseCell s).2.cell ∧ t.vec = (releaseCell s).2.vec ∧
              t.cl = (releaseCell s).2.cl)
          else none)
    else none
  | .preemptSave q num =>
    (launchOf s q num).bind (fun l =>
      if l.bound ∧ l.req ∧ l.ending = none ∧ d.ctxs.all (fun c => !c.cap.act) then
        if ownLaunch s l then
          (if savePoint s then
            some (fun t => t.cell.bound = false ∧ (∃ v ∈ t.dev.saved, v.q = l.q ∧ v.num = l.num ∧ v.cell = s.cell) ∧
              (∀ n : Fin 4, (clus t n).active = false) ∧ t.vec.running = false ∧ t.mat.running = false)
          else none)
        else
          some (fun t => CellKept s t ∧ t.dev.launches = d.launches.map (fun x =>
            if x.q = q ∧ x.num = num then
              { x with bound := false, req := false, everBound := true, aged := 0, preempts := x.preempts + 1, cells := [] }
            else x))
      else none)
  | .quadGate quad =>
    if quad < 128 ∧ (List.range 4).all (fun c => !cellTaken s (4 * quad + c)) ∧ d.wakingQuads.contains quad = false then
      some (fun t => quad ∈ t.dev.gatedQuads ∧ (quad = 0 → t.cell.gated = true) ∧ (quad ≠ 0 → t.cell = s.cell) ∧ t.cl = s.cl ∧
        t.vec = s.vec ∧ t.mat = s.mat ∧ t.dev.mem = d.mem)
    else none
  | .quadWakeComplete quad =>
    if d.wakingQuads.contains quad then
      some (fun t => quad ∉ t.dev.wakingQuads ∧ (quad = 0 → t.cell.waking = false) ∧ (quad ≠ 0 → t.cell = s.cell) ∧ t.cl = s.cl ∧
        t.vec = s.vec ∧ t.mat = s.mat ∧ t.dev.mem = d.mem)
    else none
  | _ => none

/-- The registers of BAR0 that function 0 writes and reads whole: offset and the bits that are kept (R291, R293, R312, R347, R395,
R414). -/
def plainRegister (off : Nat) : Option Word :=
  if off = 0x101008 then some (~~~ 0xFFFF)
  else if off = 0x200008 then some (~~~ 0xFFF)
  else if off = 0x200010 then some 0xFFF
  else if off = 0x300000 then some (~~~ 0x1FFFF)
  else if off = 0x300020 then some 0xF
  else if off = 0x300028 then some 0x3FFF
  else if off = 0x400400 then some 0x7FF
  else if 0x500000 ≤ off ∧ off < 0x500600 ∧ off % 64 = 8 then some (BitVec.allOnes 64)
  else none

/-- What a register of BAR0 reads after function 0 has written it: the plain registers the bits that they keep; TLBINV, while no
request is in progress, and LCTL the fields of a write that starts nothing, under which a GO that is set stays set (R2, R292, R324). -/
def heldValue (off : Nat) (v : Word) (s : State) : Option Word :=
  if off = 0x200000 then (if v.getLsbD 0 || s.dev.tlbInv.getLsbD 0 then none else some (v &&& 0xFFFFFFFFFFFF000C#64))
  else if off = 0x101000 then (if v.getLsbD 0 then none else some ((v &&& 0xFFFFFC0E#64) ||| (s.dev.lctl &&& 1)))
  else (plainRegister off).map (v &&& ·)

/-- The events of starts, of power, of the host's accesses and of registers (R2, R404, R415, R418 to R420). -/
def bootEvent (i : Instr) (s : State) : Option (State → Prop) :=
  let d := s.dev
  let failed (p : Nat) (t : State) : Prop :=
    t.dev.bootReady = false ∧ t.dev.bootPhase.toNat = p - 1 ∧ t.dev.bootFails.toNat = Nat.min 3 (d.bootFails.toNat + 1) ∧
      (t.dev.bootSafe = true ↔ Nat.min 3 (d.bootFails.toNat + 1) = 3) ∧ t.cell.bound = false
  let trained (t : State) : Prop :=
    t.dev.flash = { d.flash with training := t.dev.flash.training } ∧ trainingOk t.dev.flash = true
  let cold (p : Nat) : Option (State → Prop) :=
    if failPhaseOf p s = 0 then
      some (fun t => trained t ∧ t.dev.secret = some (secretOf d.flash.helper) ∧ t.dev.rails = d.flash.volts ∧ t.dev.bar2 = d.bar2 ∧ t.dev.spares = State.reset.dev.spares ∧
         t.dev.bootReady = true ∧ t.dev.bootFails = 0 ∧ t.dev.bootWarm = false ∧ t.cl = State.reset.cl ∧
        t.cell = State.reset.cell ∧ t.vec = State.reset.vec ∧ t.mat = State.reset.mat ∧ (∀ a, a < 2 ^ 62 → memWf d.mem = true → memGet t.dev.mem a = 0) ∧
        t.dev.banks = State.reset.dev.banks ∧ t.dev.launches = [])
    else some (failed (failPhaseOf p s))
  match i with
  | .powerOn p => cold p
  | .bootctlCold p => cold p
  | .bootctlWarm p verifies =>
    if failPhaseOf p s = 0 then
      some (fun t => t.dev.bootReady = true ∧ t.dev.bootWarm = true ∧ t.dev.banks = d.banks ∧ t.dev.esev = d.esev ∧ t.dev.errseq = d.errseq ∧
        t.dev.spares = d.spares ∧ (if verifies && trainingOk d.flash then t.dev.flash = d.flash else trained t) ∧
        t.dev.secret = some (secretOf d.flash.helper) ∧ t.cell.bound = false ∧ t.dev.launches = [])
    else some (failed (failPhaseOf p s))
  | .voltageStep quad up =>
    if quad < 128 ∧ swf 420 0 d.rails then
      some (fun t => sget 420 t.dev.rails quad = (if up then Nat.min 550 (sget 420 d.rails quad + 5) else Nat.max 420 (sget 420 d.rails quad - 5)) ∧
        (∀ p, p ≠ quad → sget 420 t.dev.rails p = sget 420 d.rails p) ∧ { t with dev := d } = s)
    else none
  | .clockStretch => some (fun t => t = s)
  | .hostBar2Access write addr data =>
    if 2 ^ d.bar2 < addr + data.length ∨ 2 ^ d.bar2 ≤ addr then some (fun t => t = s)
    else if 0xC000000000 < addr + data.length ∨ 0xC000000000 ≤ addr then none
    else if d.bootReady = false then some (fun t => t = s)
    else if write then
      if (List.range data.length).all (fun k => !captureHolds s (addr + k)) then
        some (fun t => (memWf d.mem = true → (∀ k b, data[k]? = some b → memGet t.dev.mem (addr + k) = b) ∧
          (∀ a, a < addr ∨ addr + data.length ≤ a → memGet t.dev.mem a = memGet d.mem a)) ∧ t.cell = s.cell ∧ t.cl = s.cl ∧ t.vec = s.vec ∧ t.mat = s.mat)
      else none
    else
      some (fun t => CellKept s t ∧ (∃ m, t.dev.msgs = d.msgs ++ [m] ∧ m.data = (List.range data.length).map (fun k => memGet d.mem (addr + k))))
  | .registerWrite fn off v =>
    if d.bootReady = false then some (fun t => t = s)
    else if fn = 0 then
      (heldValue off v s).map (fun w t => bar0Read t 0 off = w ∧ { t with dev := d } = s ∧ t.dev.mem = d.mem)
    else none
  | _ => none

/-- The elements that arrive at the tile registers and the ports (R157, R215 to R217). -/
def portEvent (i : Instr) (s : State) : Option (State → Prop) :=
  match i with
  | .vectorLoadLaneArrive l =>
    (s.vec.loads.find? (fun e => !isGlobalLoad e)).bind (fun e =>
      if enabled e.left l = true ∧ portStrong e.seq s = false ∧ (portOf e.f.d).isEmpty = true ∧ e.snap = [] ∧ swf 0 0 s.vec.tile = true then
        match loadTargets e l s with
        | .ok ([x], false, _, s1) =>
          if strongLoad e [x] s1 ∨ (2 ≤ x.attr.mt ∧ deviceHeld e.seq s1) then none
          else some (fun t =>
            (∀ k, (operandKeys e.f.d e.rep e.rb 0)[l]? = some k → s1.vec = s.vec →
              sget 0 t.vec.tile k = decodeLane (attrDesc (withSnap e.page s1) x.attr) e.f.t.toNat (vecBytes s1 x.locs) x.half ∧
              ∀ m, m ≠ k → sget 0 t.vec.tile m = sget 0 s.vec.tile m) ∧
            (∀ y ∈ t.vec.loads, y.seq = e.seq → enabled y.left l = false) ∧ t.vec.pc = s1.vec.pc ∧ t.cl = s1.cl ∧ t.mat = s1.mat ∧ t.dev = s1.dev)
        | _ => none
      else none)
  | .portElementFetch n =>
    let p := vget s.vec.ports n.val Port.zero
    if portActs n.val p s = true ∧ n.val < 6 ∧ p.pos < portElems p.block ∧ (p.pos % portPer p.flags ≠ 0 ∨ p.entries.length < 8) then
      match portElement n.val .read s with
      | .ok locs _ attr half =>
        if fetchHeld p attr s then some (fun t => t = s) else
        some (fun t =>
          let q := vget t.vec.ports n.val Port.zero
          let x := portDecode p (attrDesc s attr) (vecBytes s locs) half
          let pl := portPlace p p.pos
          q.pos = p.pos + 1 ∧
            (∃ e, q.entries.getLast? = some e ∧ enabled e.fill pl.1 = true ∧ (pl.1 < e.lanes.length → nb (laneAt e.lanes pl.1).toNat pl.2.1 pl.2.2 = x % 2 ^ pl.2.2)) ∧
            q.entries.length = p.entries.length + (if p.pos % portPer p.flags = 0 ∨ p.entries = [] then 1 else 0) ∧
            (∀ m : Fin 8, m ≠ n → vget t.vec.ports m.val Port.zero = vget s.vec.ports m.val Port.zero) ∧
            t.vec.tile = s.vec.tile ∧ t.vec.x = s.vec.x ∧ t.cl = s.cl ∧ t.mat = s.mat ∧ t.dev = s.dev)
      | _ => none
    else none
  | .portElementWrite n =>
    let p := vget s.vec.ports n.val Port.zero
    if portActs n.val p s = true ∧ 6 ≤ n.val then
      p.entries.head?.bind (fun e =>
        let pl := portPlace p p.pos
        let done (t : State) : Prop :=
          (vget t.vec.ports n.val Port.zero).pos = p.pos + 1 ∧
            (∀ m : Fin 8, m ≠ n → vget t.vec.ports m.val Port.zero = vget s.vec.ports m.val Port.zero) ∧ t.vec.tile = s.vec.tile ∧
            t.cl = s.cl ∧ t.mat = s.mat ∧ t.dev = s.dev ∧ t.cell = s.cell
        if enabled e.fill pl.1 = false ∨ portElems p.block ≤ p.pos then some (fun t => done t ∧ t.vec.stores = s.vec.stores)
        else
          match portElement n.val .write s with
          | .ok locs addr attr half =>
            if attr.mt = 3 ∧ (strongHeld e.seq s ∨ s.vec.stores.any (fun w => w.seq = e.seq) ∨
                s.cell.cellStores.any (fun w => w.q = 4 ∧ w.seq = e.seq)) then some (fun t => t = s)
            else
            let bs := portEncode p (attrDesc s attr) (vget s.cell.ps 7 0) addr half (mergeByte s [] ((locs.head?).getD 0))
              (nb (laneAt e.lanes pl.1).toNat pl.2.1 pl.2.2)
            some (fun t => done t ∧ ∀ c ∈ locs.zip bs, ∃ w ∈ t.vec.stores, w.seq = e.seq ∧ c ∈ w.cells)
          | _ => none)
    else none
  | _ => none

/-- Packets at their source, at a hop and at their destination (R281, R348 to R353). -/
def fabricEvent (i : Instr) (s : State) : Option (State → Prop) :=
  let say (t : State) (vc kind : Nat) (data : List Byte) : Prop :=
    ∃ m, t.dev.msgs = s.dev.msgs ++ [m] ∧ m.vc = vc ∧ m.kind = kind ∧ m.data = data
  let again (q dev epoch path seq : Nat) : Option (State → Prop) :=
    (keptOf s { q, dev, epoch, path, seq }).bind (fun p =>
      if p.spent < budget s then
        some (fun t => say t (packetMsg p).vc (packetMsg p).kind p.data ∧ { p with spent := p.spent + 1 } ∈ t.dev.kept ∧ (∀ x ∈ s.dev.kept, x.id ≠ p.id → x ∈ t.dev.kept) ∧
          t.dev.mem = s.dev.mem ∧ CellKept s t)
      else none)
  match i with
  | .globalResponseReturn q dev epoch path seq ok ⟨data, pois⟩ =>
    (keptOf s { q, dev, epoch, path, seq }).bind (fun p =>
      if p.kind = 7 ∧ ok = false then some (fun t => t.dev.kept = s.dev.kept.filter (fun x => decide (x.id ≠ p.id)) ∧ CellKept s t)
      else if (p.kind = 0 ∨ p.kind = 3) ∧ q < 4 ∧ (∀ g ∈ s.vec.gSent, g.id ≠ p.id) then
        some (fun t => t.dev.kept = s.dev.kept.filter (fun x => decide (x.id ≠ p.id)) ∧ t.dev.mem = s.dev.mem ∧
          (∀ c, clus t c = { clus s c with greq := (clus s c).greq.map (fun g => if g.id = p.id then { g with answer := some { ok, bs := data, pois } } else g) }) ∧
          t.cell = s.cell ∧ t.vec = s.vec ∧ t.mat = s.mat)
      else none)
  | .packetAckReceive q dev epoch path seq bytes =>
    (keptOf s { q, dev, epoch, path, seq }).bind (fun p =>
      if p.cargo = none ∧ isAsked p.kind = false ∧ countAgrees p.id bytes s then
        some (fun t => t.dev.kept = s.dev.kept.filter (fun x => decide (x.id ≠ p.id)) ∧ t.dev.mem = s.dev.mem ∧ t.cl = s.cl ∧ t.cell = s.cell ∧
          t.mat = s.mat ∧
          (let sent := s.vec.gSent.filter (fun g => decide (g.id ≠ p.id))
           (s.vec.gWait ≠ some p.id → t.vec = { s.vec with gSent := sent }) ∧
           (s.vec.gWait = some p.id → t.vec = { s.vec with gSent := sent, gWait := none, eaNext := eaPlus true s.vec.eaNext bytes })))
      else none)
  | .rerouteNotice q dev epoch path seq => again q dev epoch path seq
  | .unreachableNotice q dev epoch path seq => again q dev epoch path seq
  | .busyNotice q dev epoch path seq =>
    (keptOf s { q, dev, epoch, path, seq }).map (fun p t => say t (packetMsg p).vc (packetMsg p).kind p.data ∧ t.dev.kept = s.dev.kept ∧ t.dev.mem = s.dev.mem ∧ CellKept s t)
  | .requestPacketArrive src q ctx epoch path seq sup kind va data _ =>
    let m := markOf s src q epoch path
    if 6 < kind ∨ 8 ≤ path then none
    else if m.has seq = true then
      let k := (m.kept.find? (fun k => decide (k.1 = seq))).getD (seq, Resp.plain true [])
      some (fun t => say t 1 (b2n (!k.2.ok)) k.2.bs ∧ t.dev.mem = s.dev.mem ∧ t.dev.dests = s.dev.dests ∧ CellKept s t)
    else if m.c + 64 ≤ seq then
      some (fun t => say t 6 2 [] ∧ t.dev.mem = s.dev.mem ∧ t.dev.dests = s.dev.dests ∧ CellKept s t)
    else if kind = 0 ∧ s.dev.heldFlags = [] then
      (destLoad ctx sup (va % 2 ^ 48) (leNat data) (if q = 6 then claimRead ctx sup (va % 2 ^ 48) (leNat data) s else s)).map (fun r t =>
        say t 1 0 r.bs ∧ (t.dev.msgs.getLast?.map (·.args)) = some ([q, epoch, path, seq] ++ r.pois) ∧ t.dev.mem = s.dev.mem ∧ (markOf t src q epoch path).has seq = true ∧ CellKept s t)
    else if kind = 1 ∧ s.dev.heldFlags = [] then
      (destCells ctx sup (va % 2 ^ 48) data s).bind (fun cells =>
        if cells.any (fun c => captureHolds s c.1) = true then some (fun t => t = claimPages (cells.map (·.1)) s)
        else
          some (fun t => say t 1 0 [] ∧ t.dev.mem = (homeWrite cells s).dev.mem ∧ (markOf t src q epoch path).has seq = true ∧
            { t.cell with oldCode := s.cell.oldCode } = s.cell ∧ t.cl = s.cl ∧ t.vec = s.vec ∧ t.mat = s.mat))
    else none
  | .packetForward dst tag hops src ⟨q, vc, port⟩ epoch seq =>
    let s1 := match port with
      | some n => readRx n vc s
      | none => s
    let live := liveSet s1 (hopEntry s1 dst)
    if port.any (fun n => (linkAt s n).rx.all (fun r => r.1 ≠ vc)) then some (fun t => t = s)
    else if dst = s.dev.fdevid.toNat then some (fun t => t = s1)
    else if live = [] ∨ 64 ≤ hops then some (fun t => say t 6 1 [] ∧ t.dev.ports = s1.dev.ports ∧ t.dev.mem = s.dev.mem ∧ CellKept s t)
    else
      live[tag % live.length]?.bind (fun p =>
        if p < 24 then
          some (fun t => (∃ f, { dst, tag, hops := hops + 1, src, q, epoch, seq, vc, flit := f } ∈ (linkAt t p).transit) ∧
            (∀ n : Fin 24, n.val ≠ p → linkAt t n.val = linkAt s1 n.val) ∧ t.dev.mem = s.dev.mem ∧ CellKept s t)
        else none)
  | .cancelReceive src q epoch path seq =>
    let m := markOf s src q epoch path
    if path < 8 ∧ m.has seq = false ∧ seq < m.c + 64 ∧ s.dev.heldFlags = [] then
      some (fun t => say t 1 0 [] ∧ t.dev.mem = s.dev.mem ∧ (markOf t src q epoch path).has seq = true ∧ CellKept s t)
    else none
  | .closeReceive src q epoch =>
    some (fun t => say t 1 0 [] ∧ (∀ path, markOf t src q epoch path = { src, q, epoch, path, c := 0, window := [], kept := [] }) ∧
      (∀ h ∈ t.dev.heldFlags, ¬(h.src = src ∧ h.q = q ∧ h.epoch = epoch)) ∧ t.dev.mem = s.dev.mem ∧ CellKept s t)
  | _ => none

/-- Jobs of the copy engine and Menders commands (R241, R242, R383, R385, R388). -/
def jobEvent (i : Instr) (s : State) : Option (State → Prop) :=
  match i with
  | .jobStart adm =>
    (jobOf s adm).bind (fun j =>
      if cellRuns s ∧ stopAsked s = false ∧ j.released ∧ j.deps = [] ∧ earlierOut s j.cluster j.upto then
        some (fun t => t.cell.jobs = s.cell.jobs.map (fun x => if x.adm = adm then { x with started := true } else x) ∧
          { t with cell := { t.cell with jobs := s.cell.jobs } } = s)
      else none)
  | .jobChunkComplete adm =>
    (jobOf s adm).bind (fun j =>
      if s.cell.gated = true ∨ j.started = false ∨ j.complete = true then none
      else if j.wait ≠ 0 then
        if j.puts = [] ∧ j.acks = [] then
          let fin (t : State) : Prop :=
            ∀ x ∈ t.cell.jobs, x.adm = adm →
              j.stopping = false ∧ x.wait = 0 ∧ x.complete = decide (jobElems (cardDims j.card j.ext) ≤ x.done)
          if cardFlag j.card 2 = false then some (fun t => fin t ∧ t.dev.mem = s.dev.mem ∧ t.cl = s.cl ∧ t.vec = s.vec ∧ t.mat = s.mat)
          else
            (jobSync j s).map (fun loc t =>
              fin t ∧ (memWf s.dev.mem = true → s.cell.swNow.all (fun i => decide (i.loc ≠ loc)) = true → syncRead t loc = ((syncRead s loc).arrive j.wait).1) ∧ t.cl = s.cl ∧ t.vec = s.vec ∧ t.mat = s.mat)
        else none
      else if cellAwake s = false ∨ (j.asks = [] ∧ (cellRuns s = false ∨ stopAsked s = true)) then some (fun t => t = s)
      else
        match elems j (cardDims j.card j.ext) 8192 j.done { cells := [], marks := [], pois := false, glob := [], bits := 0, blocked := false }
            (withSnap j.snap s) with
        | .ok (ch, e) u =>
          let s2 := sameSnap s u
          if ch.blocked = false ∧ ch.pois = false ∧ ch.glob = [] ∧ cardFlag j.card 2 = false ∧ s2.cell = s.cell ∧
              ch.cells.any (fun c => overlapsPending s2 c.1 1 || captureHolds s2 c.1) = false then
            some (fun t => t.dev.mem = (homeWrite ch.cells.reverse s2).dev.mem ∧ (∀ x ∈ t.cell.jobs, x.adm = j.adm → x.done = e) ∧
              t.cl = s2.cl ∧ t.vec = s2.vec ∧ t.mat = s2.mat)
          else none
        | _ => none)
  | .jobComplete adm =>
    (jobOf s adm).bind (fun j =>
      let m := byteAt j.card 5 % 16
      let ring := vget s.cell.rings m Ring.zero
      if cellRuns s ∧ j.complete ∧ cardFlag j.card 6 = false ∧ s.cell.qmarks = [] ∧ (cardFlag j.card 3 = true → ring.cfg = true ∧ ring.count < ring.cap) then
        some (fun t =>
          t.cell.jobs = (s.cell.jobs.filter (fun x => decide (x.adm ≠ adm))).map (fun x => { x with deps := x.deps.filter (· ≠ adm) }) ∧
          (∃ p, t.cell.sluice.pulses = s.cell.sluice.pulses ++ p ++ [(1, nb (byteAt j.card 4) 0 3)]) ∧
          (if cardFlag j.card 3 then (vget t.cell.rings m Ring.zero).count = ring.count + 1 ∧
            (vget t.cell.rings m Ring.zero).tail = (ring.tail + 1) % ring.cap else t.cell.rings = s.cell.rings) ∧
          t.dev = s.dev ∧ t.cl = s.cl ∧ t.vec = s.vec ∧ t.mat = s.mat)
      else none)
  | .mendersCmdStart adm =>
    (mendOf s adm).bind (fun m =>
      if cellRuns s ∧ stopAsked s = false ∧ m.released ∧ m.started = false ∧
          (∀ x ∈ s.cell.mends, x.adm < adm → mendsMeet x.card m.card = false) then
        some (fun t => t.cell.mends = s.cell.mends.map (fun x => if x.adm = adm then { x with started := true, settled := x.vote.isSome } else x) ∧
          { t with cell := { t.cell with mends := s.cell.mends } } = s)
      else none)
  | .mendersChunk adm =>
    (mendOf s adm).bind (fun m =>
      let cols := mendCols m.card
      let size := mendSize m.card
      let j := m.pos % cols
      let n := Nat.min 64 (cols - j)
      if cellRuns s ∧ stopAsked s = false ∧ m.started ∧ m.settled = false then
        match mendLocs m (m.pos / cols) n j s with
        | (ls, .ok _ s1) =>
          if ls.flatten.all (fun l => !inSet s1.dev.poison l) = true ∧ ls.flatten.Nodup ∧ memWf s1.dev.mem = true then
            some (fun t =>
              (∀ k l, ls[k]? = some l → leNat (l.map (memGet t.dev.mem)) =
                mendElem m.card (mendSteps s m.card) (m.pos / cols) (j + k) (leNat (l.map (memGet s1.dev.mem))) % 2 ^ (8 * size)) ∧
              (∀ a, a ∉ ls.flatten → memGet t.dev.mem a = memGet s1.dev.mem a) ∧
              (∀ x ∈ t.cell.mends, x.adm = adm → x.pos = m.pos + n ∧ x.settled = decide (mendRows m.card * cols ≤ m.pos + n)) ∧
              t.cl = s1.cl ∧ t.vec = s1.vec ∧ t.mat = s1.mat)
          else none
        | _ => none
      else none)
  | .mendersCmdComplete adm =>
    (mendOf s adm).bind (fun m =>
      let e : Ending :=
        { status := BitVec.ofNat 64 (leAt m.card 56 8), bytes := mendStatus m, syncOn := mendFlag m.card 0 && !killedHere s,
          sync := leAt m.card 48 8, good := true, count := 64, flt := true, always := true }
      if cellRuns s ∧ m.settled ∧ m.cause = none ∧ m.vote = none ∧ m.failed = false ∧ m.skipped = 0 then
        let counted := if e.syncOn then (spadSync e.sync s).bind (fun loc => ((syncRead s loc).counting 64).map (fun g => (loc, g))) else none
        match writeEnding (8 + 64 * (m.adm + 1)) m.sup e s with
        | .ok none s1 =>
          if s1.cell.qmarks = [] then
            some (fun t => t.cell.mends = s1.cell.mends.filter (fun x => decide (x.adm ≠ adm)) ∧
              t.cell.sluice.pulses = s1.cell.sluice.pulses ++ [(3, 0)] ∧ t.dev = (mendDone m counted s1).dev ∧ t.cl = s1.cl ∧ t.vec = s1.vec ∧ t.mat = s1.mat)
          else none
        | _ => none
      else none)
  | _ => none

/-- A message of the collective port comes to the device: one that has come before is answered as it was then, one beyond the window is
refused, one for a context that the device does not have is answered by a fault response; any other is performed, its number counts as
arrived and it is acknowledged (R351, R353, R368). -/
def arrives (p : Inbound) (s : State) (body : Option (State → Prop)) : Option (State → Prop) :=
  let m := markOf s p.src 7 p.epoch p.path
  let answer (t : State) (vc kind : Nat) (data : List Byte) : Prop :=
    ∃ x, t.dev.msgs.getLast? = some x ∧ x.vc = vc ∧ x.kind = kind ∧ x.dst = p.src ∧ x.data = data
  if m.has p.seq then
    (let r := ((m.kept.find? (fun k => decide (k.1 = p.seq))).map (·.2)).getD (Resp.plain true [])
     some (fun t => answer t 1 (b2n (!r.ok)) r.bs ∧ t.dev.dests = s.dev.dests ∧ CellKept s t))
  else if m.c + 64 ≤ p.seq then some (fun t => answer t 6 2 [] ∧ t.dev.dests = s.dev.dests ∧ CellKept s t)
  else if ctxValid s p.ctx = false then
    some (fun t => answer t 1 1 [] ∧ (markOf t p.src 7 p.epoch p.path).has p.seq = true ∧ t.dev.presence = s.dev.presence ∧
      t.dev.collHeld = s.dev.collHeld ∧ CellKept s t)
  else body.map (fun q t => q t ∧ answer t 1 0 [] ∧ (markOf t p.src 7 p.epoch p.path).has p.seq = true)

/-- A message of a call: the call takes it, it waits for a call that has not started here, or it comes too late (R359). -/
def callTakes (p : Inbound) (g call : Nat) (m : CollMsg) (s : State) (body : Coll → Option (State → Prop)) : Option (State → Prop) :=
  arrives p s
    (match callOf s p.ctx g call with
    | some c => body c
    | none =>
      some (fun t => CellKept s t ∧ t.dev.presence = s.dev.presence ∧
        t.dev.collHeld = if collWaits (.call p.ctx g call) s then s.dev.collHeld ++ [{ cmd := .call p.ctx g call, msg := m }] else s.dev.collHeld))

/-- Collectives and the log (R351, R356, R358, R359, R362 to R365, R368, R372, R375, R380). -/
def groupEvent (i : Instr) (s : State) : Option (State → Prop) :=
  -- all but the answer and the marks of the packet stands as it was
  let same (t : State) : Prop := { t with dev := { t.dev with msgs := s.dev.msgs, dests := s.dev.dests } } = s
  let change (adm : Nat) (f : Coll → Coll) (t : State) : Prop :=
    t.cell.colls = s.cell.colls.map (fun x => if x.adm = adm then f x else x) ∧ same { t with cell := { t.cell with colls := s.cell.colls } }
  let each (adm : Nat) (t : State) (p : Coll → Prop) : Prop := ∀ x ∈ t.cell.colls, x.adm = adm → p x
  let rest (t : State) : Prop := t.dev.mem = s.dev.mem ∧ t.cl = s.cl ∧ t.vec = s.vec ∧ t.mat = s.mat
  let idle := decide (s.dev.presence = []) && decide (s.dev.collHeld = [])
  match i with
  | .collCmdStart adm =>
    (collOf s adm).bind (fun c =>
      let g := groupOf s (collGroup c)
      let l := logOf s s.cell.task.ctx
      let kids := (treeOf g.rank g.members.length).2.2
      let ps := absentIn s l (leAt c.blk 8 5) (leAt c.blk 16 5)
      let ring := vget s.cell.rings (byteAt c.blk 2 % 16) Ring.zero
      if collReady c s = false ∨ idle = false then none
      else if (c.kind = 0 ∨ (c.kind = 1 ∧ (tb (byteAt c.blk 1) 2 = true ∨ (ring.cfg = true ∧ ring.size = rotBytes c)))) ∧ kids ≠ [] ∧
          c.settled = false then
        some (fun t => each adm t (fun x => x.started = true ∧ x.call = g.calls + 1 ∧ x.members = g.members ∧ x.rank = g.rank ∧ x.awaiting = kids) ∧
          t.dev.kept.length = s.dev.kept.length + (kids.filter (fun r => decide (r ≠ g.rank))).length ∧
          (groupOf t (collGroup c)).calls = g.calls + 1 ∧ rest t)
      else if c.kind = 2 ∧ l.vote.isSome = true then
        some (fun t => each adm t (fun x => x.started = true ∧ x.failed = true ∧ x.settled = true) ∧ t.dev = s.dev ∧ t.cl = s.cl)
      else if c.kind = 3 then
        some (fun t => each adm t (fun x => x.started = true ∧ x.asked = ps ∧ x.listed = ps ∧ x.settled = ps.isEmpty) ∧
          t.dev.kept.length = s.dev.kept.length + ps.length ∧ rest t)
      else none)
  | .collCmdComplete adm =>
    (collOf s adm).bind (fun c =>
      let still := (c.listed.filter (fun p => (entryOf s (logOf s s.cell.task.ctx) p.1 p.2).isNone)).length
      let e : Ending :=
        { status := BitVec.ofNat 64 (leAt c.blk 56 8), bytes := collStatus c still, syncOn := tb (byteAt c.blk 1) 0,
          sync := leAt c.blk 48 8, good := !c.failed && c.absent.isEmpty, count := collCount c, flt := c.failed }
      if cellRuns s ∧ idle ∧ c.started ∧ c.settled ∧ c.cause = none ∧ sendsOut c s = false then
        match writeEnding (7 + 64 * (c.adm + 1)) c.sup e s with
        | .ok none s1 =>
          let s2 := if c.kind = 3 ∧ c.gone then beginRebuild s.cell.task.ctx s1 else s1
          if s1.cell.qmarks = [] then
            some (fun t => t.cell.colls = s1.cell.colls.filter (fun x => decide (x.adm ≠ c.adm)) ∧
              t.cell.sluice.pulses = s1.cell.sluice.pulses ++ [(2, 0)] ∧ t.dev = (endCall s1.cell.task.ctx c s2).dev ∧ t.cl = s1.cl ∧ t.vec = s1.vec ∧ t.mat = s1.mat)
          else none
        | _ => none
      else none)
  | .presenceRequestReceive p grp call rank kind elems out32 =>
    arrives p s
      (if callOf s p.ctx grp.g call ≠ none then none
      else if collWaits (.call p.ctx grp.g call) s then
        some (fun t => t.dev.presence = s.dev.presence ++ [{ ctx := p.ctx, g := grp.g, hash := grp.hash, call, rank, kind, elems, out32, src := p.src }] ∧ CellKept s t)
      else some (fun t => t.dev.presence = s.dev.presence ∧ t.dev.kept.length = s.dev.kept.length + 1 ∧ CellKept s t))
  | .presenceReportReceive p g call rank absent kind elems out32 =>
    callTakes p g call (.report rank absent kind elems out32) s (fun c =>
      if c.settled = true ∨ c.awaiting.contains rank = false then some same
      else if absent.contains rank = false ∧ presAgrees c kind elems out32 = false then
        some (fun t => each c.adm t (fun x => x.failed = true ∧ x.mismatch = true ∧ x.settled = true) ∧ t.dev.mem = s.dev.mem ∧ t.cl = s.cl)
      else if c.awaiting.filter (· ≠ rank) ≠ [] ∧ (∀ x ∈ s.cell.colls, x.adm = c.adm → x = c) then
        some (change c.adm (fun x => { x with awaiting := x.awaiting.filter (· ≠ rank), absent := absent.foldl addSet x.absent }))
      else none)
  | .collVerdictReceive p g call absent =>
    callTakes p g call (.verdict absent) s (fun c =>
      if c.settled = true ∨ c.verdict = true ∨ 2 ≤ c.kind then some same
      else if absent ≠ [] then some (change c.adm (fun x => { x with absent, settled := true }))
      else none)
  | .collDataChunkReceive p g call rank chunk data =>
    callTakes p g call (.chunk rank chunk data) s (fun c =>
      if c.settled = true ∨ c.kind ≠ 0 ∨ c.got.contains (rank, chunk) = true ∨ redChunks c ≤ chunk then some same
      else if swf 0 0 c.sums = true then
        some (fun t => each c.adm t (fun x => x.got.contains (rank, chunk) = true ∧
          ∀ e v, data[e]? = some v → e < (redSpan c chunk).2 → sget 0 x.sums (2 ^ 24 * rank + (redSpan c chunk).1 + e) = v))
      else none)
  | .collFaultNotice p g call mismatch =>
    callTakes p g call (.fault mismatch) s (fun c =>
      if c.failed then some same else some (change c.adm (fun x => { x with failed := true, mismatch, settled := true, absent := [] })))
  | .crotBlockReceive p grp call b =>
    callTakes p grp.g call (.block grp.hash b.steps b.origin b.data) s (fun c =>
      let next := (c.rank + c.members.length - (c.steps + 1) % c.members.length) % c.members.length
      if c.settled = true then some same
      else if c.kind ≠ 1 ∨ grp.hash ≠ c.hash.toNat ∨ b.steps ≠ rotSteps c ∨ b.data.length ≠ rotBytes c then
        some (fun t => each c.adm t (fun x => x.failed = true ∧ x.mismatch = true ∧ x.settled = true) ∧ t.dev.mem = s.dev.mem ∧ t.cl = s.cl)
      else if (c.verdict = false ∨ stopAsked s = true ∨ (c.got ≠ [] ∧ (rotCredit c (c.steps + 1) s = some false ∨
          blockOf { c with inbox := c.inbox ++ [(b.origin, b.data)] } next = none))) ∧ (∀ x ∈ s.cell.colls, x.adm = c.adm → x = c) then
        some (change c.adm (fun x => { x with inbox := x.inbox ++ [(b.origin, b.data)] }))
      else none)
  | .crotAbortReceive p g call absent =>
    callTakes p g call (.abort absent) s (fun c =>
      if c.settled = true ∨ c.kind ≠ 1 then some same else some (change c.adm (fun x => { x with absent, settled := true })))
  | .logReceive ⟨src, epoch, path, seq, ctx⟩ entry original =>
    let e := fit 32 entry
    let l := logOf s ctx
    let m := markOf s src 7 epoch path
    let said (t : State) (ok : Bool) : Prop :=
      ∃ x, t.dev.msgs = s.dev.msgs ++ [x] ∧ x.vc = 1 ∧ x.kind = b2n (!ok) ∧ x.dst = src ∧ x.data = []
    if m.has seq = true ∨ m.c + 64 ≤ seq ∨ (∃ r ∈ s.dev.receipts, r.src = src ∧ r.epoch = epoch ∧ r.path = path ∧ r.seq = seq) then none
    else if ctxValid s ctx = false ∨ l.live = false then
      some (fun t => said t false ∧ (markOf t src 7 epoch path).has seq = true ∧ CellKept s t)
    else if entCrcOk e = true ∧ entMalformed l e = false ∧ l.applied < entStep e ∧ entStep e ≤ l.applied + l.win ∧
        entryOf s l (entStep e) (entSlot e) = none ∧ entryHeld ctx e s = false ∧ (original = false ∨ (ctxOf s ctx).fanout = none) ∧ memWf s.dev.mem = true then
      some (fun t => said t true ∧ (markOf t src 7 epoch path).has seq = true ∧ homeBytes t (entAt l (entStep e) (entSlot e)) 32 = e ∧
        (∀ a, a < entAt l (entStep e) (entSlot e) ∨ entAt l (entStep e) (entSlot e) + 32 ≤ a → memGet t.dev.mem a = memGet s.dev.mem a) ∧
        t.cell = s.cell ∧ t.cl = s.cl ∧ t.vec = s.vec ∧ t.mat = s.mat)
    else none
  | .logpullRequestReceive ⟨src, epoch, path, seq, ctx⟩ adm step slot =>
    let m := markOf s src 7 epoch path
    let here := ctxValid s ctx && (logOf s ctx).live
    let e := if here then entryOf s (logOf s ctx) step slot else none
    if m.has seq = false ∧ m.c + 64 ≤ seq then
      some (fun t => (∃ x, t.dev.msgs = s.dev.msgs ++ [x] ∧ x.vc = 6 ∧ x.kind = 2 ∧ x.dst = src) ∧ CellKept s t)
    else
      some (fun t => (∃ x, t.dev.msgs = s.dev.msgs ++ [x] ∧ x.vc = 3 ∧ x.kind = 2 ∧ x.dst = src ∧ x.data = e.getD [] ∧
        x.args = [ctx, adm, step, slot, b2n e.isSome, b2n (e.isNone && here && decide (step ≤ (logOf s ctx).applied))]) ∧
        (markOf t src 7 epoch path).has seq = true ∧ CellKept s t)
  | .logpullAnswerReceive ctx adm step slot answer gone =>
    if s.cell.bound = true ∧ s.cell.task.ctx = ctx then
      (collOf s adm).bind (fun c =>
        if c.kind ≠ 3 ∨ c.started = false then none
        else if c.settled = true ∨ c.asked.contains (step, slot) = false then some (fun t => t = s)
        else if answer = none then
          some (fun t => t.cell.colls = s.cell.colls.map (fun x => if x.adm = adm then
              { x with asked := x.asked.erase (step, slot), settled := (x.asked.erase (step, slot)).isEmpty, gone := x.gone || gone }
            else x) ∧
            { t with cell := { t.cell with colls := s.cell.colls }, dev := { t.dev with kept := s.dev.kept } } = s)
        else none)
    else if pullerOf s ctx adm = none then some (fun t => t = s)
    else none
  | .logbaseWrite _ v =>
    let ctx := s.cell.task.ctx
    let o := logOf s ctx
    let l : Log := { o with base := v &&& 0x000000FFFFFFFFE1#64, slots := o.regSlots, win := o.regWin }
    if s.cell.bound = false ∨ logBusy s = true then some (fun t => t = s)
    else if logPlaced s ctx l = false then
      some (fun t => logOf t ctx = { l with live := false, done := 0, applied := 0, vote := none } ∧ CellKept s t)
    else
      some (fun t => (logOf t ctx).base = l.base ∧ (logOf t ctx).slots = l.slots ∧ (logOf t ctx).win = l.win ∧ (logOf t ctx).live = true ∧
        (logOf t ctx).s0 = leAt (ctxRecord s ctx) 80 8 ∧
        (logOf t ctx).applied = leAt (ctxRecord s ctx) 80 8 - 1 ∧ t.cell = s.cell ∧ t.cl = s.cl ∧ t.vec = s.vec ∧ t.mat = s.mat ∧
        ∀ a, (a < l.area ∨ l.area + l.slots * l.win * 32 ≤ a) → memWf s.dev.mem = true → memGet t.dev.mem a = memGet s.dev.mem a)
  | _ => none

/-- What recording an error leaves in the banks (R391, R393, R394). -/
def ErrorNoted (e : Err) (s t : State) : Prop :=
  let act := actionOf s e false
  let b := vget s.dev.banks e.src Bank.zero
  let d := vget t.dev.banks e.src Bank.zero
  let lo := if isCorrected e.cls then 0 else 32
  (act = 0 → d = b) ∧
    (act ≠ 0 → nb d.counts.toNat lo 32 = Nat.min (2 ^ 32 - 1) (nb b.counts.toNat lo 32 + 1) ∧ nb d.counts.toNat (32 - lo) 32 = nb b.counts.toNat (32 - lo) 32) ∧
    (act = 1 → d.r0 = b.r0) ∧
    (2 ≤ act → b.r0.getLsbD 0 = false → d.r0.getLsbD 0 = true ∧ nb d.r0.toNat 24 4 = e.cls % 16 ∧ d.addr = e.addr ∧ d.info = e.info ∧
      d.seq = s.dev.errseq ∧ t.dev.errseq = s.dev.errseq + 1) ∧
    (∀ n, n ≠ e.src → vget t.dev.banks n Bank.zero = vget s.dev.banks n Bank.zero)

/-- Reported errors, scrubbing, banks and page captures (R390 to R406). -/
def errorEvent (i : Instr) (s : State) : Option (State → Prop) :=
  if unheard i s then some (fun t => t = s) else
  let made (cls src addr info cell eng : Nat) : Err :=
    { cls, src, addr := BitVec.ofNat 64 addr, info := BitVec.ofNat 64 info, eng := eng % 16,
      cell := if cell < 512 then some cell else none, ctx := (ctxAt s cell).getD 0 }
  let noted (e : Err) (p : State → Prop) : Option (State → Prop) :=
    if actionOf s e false < 5 ∧ s.now.errs.isEmpty ∧ s.now.banks.isEmpty then some (fun t => ErrorNoted e s t ∧ p t) else none
  match i with
  | .dramReadCorrected addr symbol stack pc cell eng =>
    if addr < dramBytes then noted (made 0 8 addr (dramInfo symbol stack pc) cell eng) (fun t => CellKept s t ∧ t.dev.poison = s.dev.poison)
    else some (fun t => t = s)
  | .dramReadUncorrectable addr symbol stack pc cell eng =>
    if addr < dramBytes then
      noted (made 1 8 addr (dramInfo symbol stack pc) cell eng) (fun t => CellKept s t ∧ ∀ k, k < 32 → poisoned t (addr / 32 * 32 + k) 1 = true)
    else some (fun t => t = s)
  | .dramParityError addr stack pc lane retry cell eng =>
    if addr < dramBytes ∧ retry < 8 ∧ laneCount s stack pc lane < 3 then
      noted (made 2 8 addr (dramInfo lane stack pc) cell eng) (fun t =>
        CellKept s t ∧ laneCount t stack pc lane = laneCount s stack pc lane + 1 ∧ t.dev.spares = s.dev.spares)
    else none
  | .laneCountDecay stack pc lane =>
    some (fun t => laneCount t stack pc lane = laneCount s stack pc lane - 1 ∧
      (∀ p q r, (p, q, r) ≠ (stack, pc, lane) → laneCount t p q r = laneCount s p q r) ∧ { t with dev := { t.dev with lanes := s.dev.lanes } } = s)
  | .sramCorrected kind index =>
    noted (made 4 9 (if kind = 0 then index % 2 ^ 23 else 0) 0 0 (sramEng kind)) (fun t => CellKept s t)
  | .sramUncorrectable kind index =>
    noted (made 5 9 (if kind = 0 then index % 2 ^ 23 else 0) 0 0 (sramEng kind)) (fun t =>
      t.cl = s.cl ∧ t.dev.mem = s.dev.mem ∧
        (kind = 0 → ∀ k, k < 32 → poisoned t (locSpad ownPos (index % 2 ^ 23 / 32 * 32) + k) 1 = true) ∧
        (kind = 1 → inSet t.vec.tileP (index % 32768) = true) ∧ (kind = 2 → inSet t.mat.accP (index % 196608) = true) ∧
        (kind = 4 → inSet t.mat.active.marks (index % 36864) = true) ∧ (kind = 5 → inSet t.mat.shadow.marks (index % 36864) = true) ∧
        (kind = 6 → inSet t.mat.sam.marks (index % 4096) = true) ∧ (kind = 7 → vget t.cell.csTag (index / 2048 % 4) none = none))
  | .scrubRead ⟨addr, stack, pc⟩ symbol found last =>
    let k := stack % 12
    let n := vget s.dev.scrubN k 65536
    let hits := vget s.dev.scrubHits k 0 + b2n (decide (found = .corrected))
    let after (t : State) : Prop :=
      CellKept s t ∧ (if last then
        t.dev.scrubN = vset s.dev.scrubN k (if 16 ≤ hits then Nat.max 1024 (n / 2) else if hits = 0 then Nat.min 1048576 (2 * n) else n) ∧
          t.dev.scrubHits = vset s.dev.scrubHits k 0
      else t.dev.scrubN = s.dev.scrubN ∧ t.dev.scrubHits = vset s.dev.scrubHits k hits)
    if dramBytes ≤ addr then some (fun t => t = s)
    else
      match found with
      | .clean => some after
      | .corrected => noted (made 0 8 addr (dramInfo symbol stack pc) 512 0) after
      | .uncorrectable =>
        noted (made 1 8 addr (dramInfo symbol stack pc) 512 0) (fun t => after t ∧ ∀ b, b < 32 → poisoned t (addr / 32 * 32 + b) 1 = true)
  | .ebClr bank =>
    if (cycleErrs s bank.val).isEmpty = false then none
    else some (fun t => vget t.dev.banks bank.val Bank.zero = { vget s.dev.banks bank.val Bank.zero with r0 := 0, addr := 0, info := 0, pos := 0, seq := 0 } ∧
      (∀ n, n ≠ bank.val → vget t.dev.banks n Bank.zero = vget s.dev.banks n Bank.zero) ∧ CellKept s t)
  | .ebClrcnt bank =>
    some (fun t => vget t.dev.banks bank.val Bank.zero = { vget s.dev.banks bank.val Bank.zero with counts := 0 } ∧
      (∀ n, n ≠ bank.val → vget t.dev.banks n Bank.zero = vget s.dev.banks n Bank.zero) ∧ CellKept s t)
  | .pcieError addr info => noted (made 14 14 addr.toNat info.toNat 512 0) (fun t => CellKept s t)
  | .internalError info => noted (made 15 15 0 info.toNat 512 0) (fun t => CellKept s t)
  | .pageCapture ctx ⟨page, other⟩ =>
    let c := capOf s ctx
    (rangeLeaf s ctx page).bind (fun r =>
      let loc := leafLoc r.2.2 ((capRange s ctx).1 + 65536 * page)
      if r.2.1 = false ∧ c.act = true ∧ page < (capRange s ctx).2 ∧ uncaptured c r.2.2 = true ∧
          c.busy.contains page = false ∧ c.bad.contains page = false ∧ (other = true ∨ c.asked.contains page = true ∨ sweepPage s ctx = some page) then
        some (fun t => (capOf t ctx).busy = c.busy ++ [page] ∧ (capOf t ctx).asked = c.asked.filter (· ≠ page) ∧ (capOf t ctx).poisoned = c.poisoned + poisonSectors s loc ∧
          (nb (capAddr s ctx c.gen.toNat (1 + page)).toNat 62 2 = 0 → memWf s.dev.mem = true →
            homeBytes t (locHost (nb (capAddr s ctx c.gen.toNat (1 + page)).toNat 0 62)) 65536 =
              (List.range 65536).map (fun i => dieByte s (loc + i))) ∧
          t.cell = s.cell ∧ t.cl = s.cl ∧ t.vec = s.vec ∧ t.mat = s.mat)
      else none)
  | .captureComplete ctx page ok =>
    let c := capOf s ctx
    (rangeLeaf s ctx page).bind (fun r =>
      if r.2.1 = false ∧ c.busy.contains page = true ∧ c ≠ (Ctx.fresh ctx).cap ∧ (ok = false ∨ memWf s.dev.mem = true) then
        some (fun t => (capOf t ctx).busy.contains page = false ∧ t.cell = s.cell ∧ t.cl = s.cl ∧ t.vec = s.vec ∧ t.mat = s.mat ∧
          (if ok then (capOf t ctx).pagesDone = c.pagesDone + 1 ∧ homeNat t r.1 8 = (r.2.2 ^^^ 0x800#64).toNat
           else (capOf t ctx).fail = true ∧ (capOf t ctx).bad = c.bad ++ [page] ∧ t.dev.mem = s.dev.mem))
      else none)
  | .sweepEnd ctx =>
    let c := capOf s ctx
    if c.sweep = some none ∧ sweepDone s ctx = true then
      some (fun t => (capOf t ctx).sweep = none ∧ (capOf t ctx).act = (c.act && c.fail) ∧ t.cell = s.cell ∧ t.cl = s.cl ∧ t.vec = s.vec ∧ t.mat = s.mat)
    else none
  | _ => none

/-- Ezwick links, their keys and the route table (R348, R349, R412 to R414). -/
def linkEvent (i : Instr) (s : State) : Option (State → Prop) :=
  if unheard i s then some (fun t => t = s) else
  let others (port : Fin 24) (t : State) : Prop :=
    CellKept s t ∧ ∀ n : Fin 24, n ≠ port → linkAt t n.val = linkAt s n.val
  let sent (t : State) (kind : Nat) (args : List Nat) : Prop :=
    ∃ m, t.dev.msgs = s.dev.msgs ++ [m] ∧ m.vc = 8 ∧ m.kind = kind ∧ m.args = args
  let still (k : LinkPort) : Bool := k.transit.all (fun x => x.flit.isSome) && !(k.switch && k.marker.isNone)
  let settled (k : LinkPort) : Prop :=
    still k = true ∧ k.retry.all (fun r => decide (r.times < 15)) = true ∧ (k.retry.map (·.seq)).Nodup ∧
      (k.enc = false ∨ (k.ctr k.slot).toNat + k.retry.length < k.limit)
  let again (r : SentFlit) : SentFlit := { r with times := r.times + 1 }
  match i with
  | .flitReceive port kind seq ack enc body slot =>
    let k := linkAt s port.val
    if k.up = false then some (fun t => t = s)
    else
      match openFlit k kind seq ack enc body slot with
      | none =>
        some (fun t => others port t ∧ (linkAt t port.val).expect = k.expect ∧ (linkAt t port.val).discarding = true ∧ (linkAt t port.val).rx = k.rx)
      | some plain =>
        if kind = 0 ∨ kind = 2 then
          if seq = k.expect then
            if enc = true ∧ slot ≠ k.rxSlot then
              some (fun t => others port t ∧ (linkAt t port.val).expect = k.expect ∧ (linkAt t port.val).discarding = true ∧
                (linkAt t port.val).rx = k.rx)
            else
              some (fun t => others port t ∧ (linkAt t port.val).expect = (k.expect + 1) % 2 ^ 32 ∧ (linkAt t port.val).discarding = false ∧
                (linkAt t port.val).rxSlot = (if kind = 2 then !k.rxSlot else k.rxSlot) ∧
                (linkAt t port.val).rx = (if kind = 2 then k.rx else k.rx ++ [(body.vc % 8, plain)]))
          else if k.discarding then some (fun t => t = if enc then mapLink port.val (LinkPort.heard slot) s else s)
          else
            some (fun t => others port t ∧ (linkAt t port.val).expect = k.expect ∧ (linkAt t port.val).discarding = true ∧
              (linkAt t port.val).retry = k.retry ∧ sent t 1 [k.expect])
        else none
  | .nakReceive port seq =>
    let k := linkAt s port.val
    let left := k.retry.filter (fun r => !seqBelow r.seq seq)
    if k.up = false then some (fun t => t = s)
    else if settled k then
      some (fun t => others port t ∧ (linkAt t port.val).retry = left.map again ∧ t.dev.msgs.length = s.dev.msgs.length + left.length)
    else none
  | .retryBufferResend port =>
    let k := linkAt s port.val
    let below (r : SentFlit) : Bool := seqBelow r.seq ((k.retry.head?.map (·.seq)).getD 0)
    let n := (k.retry.filter (fun r => !below r)).length
    if k.up = true ∧ 256 ≤ k.retry.length ∧ 256 ≤ k.sinceAck then
      if settled k then
        some (fun t => others port t ∧ (linkAt t port.val).retry = k.retry.map (fun r => if below r then r else again r) ∧
          (linkAt t port.val).sinceAck = n ∧ t.dev.msgs.length = s.dev.msgs.length + n)
      else none
    else some (fun t => t = s)
  | .linkDeath port =>
    if (linkAt s port.val).up then
      some (fun t => others port t ∧ (linkAt t port.val).up = false ∧ (linkAt t port.val).retry = [] ∧ (linkAt t port.val).transit = [] ∧
        (linkAt t port.val).nextSeq = 0 ∧ (linkAt t port.val).expect = 0 ∧ t.dev.linkUp.getLsbD port.val = false)
    else some (fun t => t = s)
  | .linkTrained port =>
    let k := linkAt s port.val
    if k.en = true ∧ s.dev.linkUp.getLsbD port.val = false then
      some (fun t => others port t ∧ (linkAt t port.val).up = true ∧ t.dev.linkUp.getLsbD port.val = true ∧
        (still k = true → linkAt t port.val = { k with up := true }))
    else some (fun t => t = s)
  | .keyMarkerReceive port =>
    let k := linkAt s port.val
    if k.up then
      some (fun t => others port t ∧ (linkAt t port.val).expect = (k.expect + 1) % 2 ^ 32 ∧ (linkAt t port.val).discarding = false ∧
        (linkAt t port.val).rxSlot = (!k.rxSlot) ∧ (linkAt t port.val).rx = k.rx ∧ (linkAt t port.val).retry = k.retry ∧
        sent t 0 [(k.expect + 1) % 2 ^ 32])
    else some (fun t => t = s)
  | .keyLoad port ⟨slot, key⟩ =>
    let k := linkAt s port.val
    if slot = k.slot ∨ k.switch = true then some (fun t => sent t 2 [] ∧ t.dev.ports = s.dev.ports ∧ CellKept s t)
    else
      some (fun t => others port t ∧ (linkAt t port.val).key slot = some key ∧ (linkAt t port.val).ctr slot = 0 ∧
        (linkAt t port.val).rxCtr slot = 0 ∧ (linkAt t port.val).key (!slot) = k.key (!slot) ∧
        (linkAt t port.val).ctr (!slot) = k.ctr (!slot) ∧ t.dev.msgs = s.dev.msgs)
  | .lkctlSwitch port =>
    let k := linkAt s port.val
    if k.loaded (!k.slot) = false ∨ k.switch = true then some (fun t => t = s)
    else if k.marker.isSome ∨ k.owed.isSome then none
    else if k.up = false ∨ 256 ≤ k.retry.length then some (fun t => others port t ∧ linkAt t port.val = { k with switch := true })
    else
      some (fun t => others port t ∧ (linkAt t port.val).slot = (!k.slot) ∧ (linkAt t port.val).switch = true ∧
        (linkAt t port.val).marker = some k.nextSeq ∧
        { seq := k.nextSeq, slot := k.slot, times := 0, kind := 2, vc := 0, payload := [] } ∈ (linkAt t port.val).retry ∧
        (∀ r ∈ k.retry, r ∈ (linkAt t port.val).retry))
  | .keylimReached port =>
    let k := linkAt s port.val
    if k.limited = true ∧ k.limRaised = false then
      some (fun t => others port t ∧ linkAt t port.val = { k with limRaised := true } ∧
        (s.now.errs = [] → s.now.banks = [] → ErrorNoted { cls := 9, src := 11, addr := 0, info := 0, eng := 0, cell := none, ctx := 0 } s t))
    else some (fun t => t = s)
  | .frtload =>
    some (fun t => t = { s with dev := { s.dev with frtLoad := s.dev.frtLoad.or (some s.dev.frtBase.toNat) } } ∧
      (s.dev.frtLoad = none →
        (∀ i, i < 16384 → sget 0 (routesCopied t).dev.frt i = BitVec.ofNat 64 (homeNat s (s.dev.frtBase.toNat + 8 * i) 8)) ∧
        (routesCopied t).dev.frtLoad = none ∧ CellKept s (routesCopied t) ∧ (routesCopied t).dev.ports = s.dev.ports))
  | .flinkdn ports =>
    some (fun t => (∀ p : Fin 24, if ports.getLsbD p.val then t.dev.linkUp.getLsbD p.val = false ∧ (linkAt t p.val).transit = []
      else t.dev.linkUp.getLsbD p.val = s.dev.linkUp.getLsbD p.val ∧ linkAt t p.val = linkAt s p.val) ∧ CellKept s t)
  | _ => none

/-! ### Floating point in rational numbers

The value of a code, and the code of a result, in the words of R24 to R27 and R119: the statements of values are made in these terms. -/

/-- 2 to an integer. -/
def twoTo (e : Int) : Rat := if 0 ≤ e then ((2 ^ e.toNat : Nat) : Rat) else 1 / ((2 ^ (-e).toNat : Nat) : Rat)

/-- How two rational numbers compare. -/
def cmpRat (x y : Rat) : Ordering := if x < y then .lt else if y < x then .gt else .eq

/-- The format of the elements of a float type (R59). -/
def fmtOf (t : Nat) : Wide := if t = 1 then { eb := 8, fb := 7 } else if t = 2 then { eb := 5, fb := 10 } else { eb := 8, fb := 23 }

/-- The formats f32 and FA40. -/
def fmt32 : Wide := { eb := 8, fb := 23 }
def fmt40 : Wide := { eb := 8, fb := 31 }

/-- The sign bit of a code. -/
def codeNeg (f : Wide) (c : Nat) : Bool := decide (c / 2 ^ (f.eb + f.fb) % 2 = 1)

/-- The exponent field of a code. -/
def codeExp (f : Wide) (c : Nat) : Nat := c / 2 ^ f.fb % 2 ^ f.eb

/-- Whether a code is a NaN. -/
def codeNan (f : Wide) (c : Nat) : Bool := decide (codeExp f c = 2 ^ f.eb - 1) && decide (c % 2 ^ f.fb ≠ 0)

/-- Whether a code is an infinity. -/
def codeInf (f : Wide) (c : Nat) : Bool := decide (codeExp f c = 2 ^ f.eb - 1) && decide (c % 2 ^ f.fb = 0)

/-- The value of a code, subnormals included; an infinity stands for 2^(emax+1) of its sign (R24, R27). -/
def codeVal (f : Wide) (c : Nat) : Rat :=
  let e := codeExp f c
  let m := if e = 0 then c % 2 ^ f.fb else 2 ^ f.fb + c % 2 ^ f.fb
  (if codeNeg f c then -1 else 1) * (m : Rat) * twoTo ((if e = 0 then 1 else (e : Int)) - (2 ^ (f.eb - 1) - 1) - f.fb)

/-- The canonical NaN of a format (R25). -/
def canonNan (f : Wide) : Nat :=
  if f.fb = 7 then 0x7FC0 else if f.fb = 10 then 0x7E00 else if f.fb = 31 then 0x7FC0000000 else 0x7FC00000

/-- The infinity of a sign. -/
def infCode (f : Wide) (neg : Bool) : Nat := (if neg then 2 ^ (f.eb + f.fb) else 0) + (2 ^ f.eb - 1) * 2 ^ f.fb

/-- An exact result: a NaN, an infinity, or a rational number with the sign that it has as a zero. -/
inductive Exact where
  | nan
  | inf (neg : Bool)
  | num (x : Rat) (neg : Bool)

/-- What a code stands for. -/
def exactOf (f : Wide) (c : Nat) : Exact :=
  if codeNan f c then .nan else if codeInf f c then .inf (codeNeg f c) else .num (codeVal f c) (codeNeg f c)

/-- The opposite. -/
def Exact.opp : Exact → Exact
  | .nan => .nan
  | .inf s => .inf (!s)
  | .num x s => .num (-x) (!s)

/-- The exact sum; infinity minus infinity is invalid, and a sum of zero is +0 unless both terms are −0 (R119). -/
def Exact.plus : Exact → Exact → Exact
  | .nan, _ => .nan
  | _, .nan => .nan
  | .inf s, .inf t => if s = t then .inf s else .nan
  | .inf s, .num _ _ => .inf s
  | .num _ _, .inf t => .inf t
  | .num x s, .num y t => .num (x + y) (s && t)

/-- The exact product; zero times infinity is invalid (R119). -/
def Exact.times : Exact → Exact → Exact
  | .nan, _ => .nan
  | _, .nan => .nan
  | .inf s, .inf t => .inf (s != t)
  | .inf s, .num y t => if y = 0 then .nan else .inf (s != t)
  | .num x s, .inf t => if x = 0 then .nan else .inf (s != t)
  | .num x s, .num y t => .num (x * y) (s != t)

/-- The exact quotient; 0/0 and infinity by infinity are invalid, and a non-zero number by zero is an infinity (R119, R120). -/
def Exact.over : Exact → Exact → Exact
  | .nan, _ => .nan
  | _, .nan => .nan
  | .inf _, .inf _ => .nan
  | .inf s, .num _ t => .inf (s != t)
  | .num _ s, .inf t => .num 0 (s != t)
  | .num x s, .num y t => if y = 0 then (if x = 0 then .nan else .inf (s != t)) else .num (x / y) (s != t)

/-- The exact product with a power of two (R126). -/
def Exact.scaled : Exact → Int → Exact
  | .num x s, n => .num (x * twoTo n) s
  | y, _ => y

/-- A code is the nearest one, of two as near the even one: `side h` tells how twice the exact value compares with h (R27). -/
def Nearest (f : Wide) (side : Rat → Ordering) (c : Nat) : Prop :=
  c < 2 ^ (1 + f.eb + f.fb) ∧ codeNan f c = false ∧
    ∀ k, k < 2 ^ (1 + f.eb + f.fb) → codeNan f k = false →
      (codeVal f c < codeVal f k → side (codeVal f c + codeVal f k) = .lt ∨ (side (codeVal f c + codeVal f k) = .eq ∧ c % 2 = 0)) ∧
      (codeVal f k < codeVal f c → side (codeVal f c + codeVal f k) = .gt ∨ (side (codeVal f c + codeVal f k) = .eq ∧ c % 2 = 0))

/-- A code is the exact result rounded once by RNE (R27, R119). -/
def IsRne (f : Wide) (y : Exact) (c : Nat) : Prop :=
  match y with
  | .nan => c = canonNan f
  | .inf s => c = infCode f s
  | .num x s => Nearest f (fun h => cmpRat (2 * x) h) c ∧ (codeNeg f c = true ↔ x < 0 ∨ (x = 0 ∧ s = true))

/-- A code is the exact result rounded by RZ: the value of largest magnitude that does not exceed it (R27). -/
def IsRz (f : Wide) (y : Exact) (c : Nat) : Prop :=
  match y with
  | .nan => c = canonNan f
  | .inf s => c = infCode f s
  | .num x s =>
    c < 2 ^ (1 + f.eb + f.fb) ∧ codeNan f c = false ∧ codeInf f c = false ∧ (codeNeg f c = true ↔ x < 0 ∨ (x = 0 ∧ s = true)) ∧
      (codeVal f c).abs ≤ x.abs ∧
      ∀ k, k < 2 ^ (1 + f.eb + f.fb) → codeNan f k = false → codeInf f k = false → (codeVal f k).abs ≤ x.abs →
        (codeVal f k).abs ≤ (codeVal f c).abs

/-- A code is the square root rounded by RNE (R119, R120): for a number v and a sum h of two codes, 2√v compares with h as 4v with h². -/
def IsRoot (f : Wide) (a c : Nat) : Prop :=
  match exactOf f a with
  | .nan => c = canonNan f
  | .inf s => c = if s then canonNan f else infCode f false
  | .num v _ =>
    if v = 0 then c = a
    else if v < 0 then c = canonNan f
    else codeNeg f c = false ∧ Nearest f (fun h => if h ≤ 0 then .gt else cmpRat (4 * v) (h * h)) c

/-- An integer is a number rounded: 0 to the nearest, ties to even, 1 toward zero, 2 down, 3 up (R123). -/
def RoundsTo (mode : Nat) (x : Rat) (n : Int) : Prop :=
  if mode = 0 then -1 ≤ 2 * (x - n) ∧ 2 * (x - n) ≤ 1 ∧ (2 * (x - n) = 1 ∨ 2 * (x - n) = -1 → n % 2 = 0)
  else if mode = 2 ∨ (mode = 1 ∧ 0 ≤ x) then (n : Rat) ≤ x ∧ x < n + 1
  else x ≤ n ∧ (n : Rat) - 1 < x

/-- The smaller element of a float type, −0 below +0; one NaN gives the other element, two the canonical NaN (R121). -/
def codeBelow (f : Wide) (a b : Nat) : Bool :=
  decide (codeVal f a < codeVal f b) || (decide (codeVal f a = codeVal f b) && codeNeg f a && !codeNeg f b)
def codeMin (f : Wide) (a b : Nat) : Nat :=
  if codeNan f a then (if codeNan f b then canonNan f else b) else if codeNan f b then a else if codeBelow f b a then b else a
def codeMax (f : Wide) (a b : Nat) : Nat :=
  if codeNan f a then (if codeNan f b then canonNan f else b) else if codeNan f b then a else if codeBelow f a b then b else a

/-- Whether a type code is a float type (R117). -/
def floatType (t : Nat) : Bool := decide (t ≤ 2) || decide (t = 10)

/-- An element of a width read as an integer of its type: i types signed, n types unsigned (R30). -/
def elemInt (t w x : Nat) : Int := if (t = 3 ∨ t = 5 ∨ t = 7) ∧ 2 ^ (w - 1) ≤ x then (x : Int) - 2 ^ w else x

/-- VMIN and VMAX on elements of a type (R121). -/
def minElem (t w a b : Nat) : Nat := if floatType t then codeMin (fmtOf t) a b else if elemInt t w b < elemInt t w a then b else a
def maxElem (t w a b : Nat) : Nat := if floatType t then codeMax (fmtOf t) a b else if elemInt t w a < elemInt t w b then b else a

/-- The relations of R128, on elements that are no NaN: an infinity compares as 2^(emax+1), +0 equals −0. -/
def relates (op t w a b : Nat) : Bool :=
  if floatType t then
    let f := fmtOf t
    let un := codeNan f a || codeNan f b
    if op = 0x2B then !un && decide (codeVal f a = codeVal f b)
    else if op = 0x2C then !un && decide (codeVal f a < codeVal f b)
    else if op = 0x2D then !un && decide (codeVal f a ≤ codeVal f b)
    else if op = 0x2E then un || decide (codeVal f a ≠ codeVal f b)
    else un
  else if op = 0x2B then decide (a = b)
  else if op = 0x2C then decide (elemInt t w a < elemInt t w b)
  else if op = 0x2D then decide (elemInt t w a ≤ elemInt t w b)
  else decide (a ≠ b)

/-- The exact value of an element of a type. -/
def elemExact (t w x : Nat) : Exact := if floatType t then exactOf (fmtOf t) x else .num (elemInt t w x) false

/-- CONVERT of R124 under RNE (0) or RZ (1), into a float or an integer type. -/
def Converts (mode t w : Nat) (y : Exact) (r : Nat) : Prop :=
  if floatType t then (if mode = 0 then IsRne (fmtOf t) y r else IsRz (fmtOf t) y r)
  else
    let signed := t = 3 ∨ t = 5 ∨ t = 7
    let lo : Int := if signed then -(2 ^ (w - 1)) else 0
    let hi : Int := if signed then 2 ^ (w - 1) - 1 else 2 ^ w - 1
    match y with
    | .nan => r = 0
    | .inf s => elemInt t w r = if s then lo else hi
    | .num x _ => ∃ n, RoundsTo mode x n ∧ elemInt t w r = max lo (min hi n)

/-- The pairwise tree of R139 over 2^n values, the left operand the lower one. -/
def pairTree (op : Nat → Nat → Nat) : Nat → (Nat → Nat) → Nat
  | 0, v => v 0
  | n + 1, v => pairTree op n (fun i => op (v (2 * i)) (v (2 * i + 1)))

/-- The steps of R140, from step k on. -/
def scanTree (op : Nat → Nat → Nat) : Nat → Nat → (Nat → Nat) → Nat → Nat
  | 0, _, v => v
  | n + 1, k, v => scanTree op n (k + 1) (fun l => if 2 ^ k ≤ l then op (v (l - 2 ^ k)) (v l) else v l)

/-! ### The alias table (R272) -/

/-- The lists, the values and the table of Vose's method; an entry is a threshold and an alias. -/
structure AliasState where
  small : List Nat
  large : List Nat
  q : Nat → Nat
  tab : Nat → Nat × Nat

/-- Whether an f32 is below 1. -/
def codeBelowOne (c : Nat) : Bool := !codeNan fmt32 c && decide (codeVal fmt32 c < 1)

/-- One round: the fronts of the two lists are paired. -/
inductive AliasRound : AliasState → AliasState → Prop where
  | round (l g : Nat) (small large : List Nat) (q : Nat → Nat) (tab : Nat → Nat × Nat) (u v : Nat)
      (sum : IsRne fmt32 ((exactOf fmt32 (q g)).plus (exactOf fmt32 (q l))) u)
      (less : IsRne fmt32 ((exactOf fmt32 u).plus (.num (-1) true)) v) :
      AliasRound { small := l :: small, large := g :: large, q, tab }
        { small := if codeBelowOne v then small ++ [g] else small, large := if codeBelowOne v then large else g :: large,
          q := fun k => if k = g then v else q k,
          tab := fun k => if k = l then (Nat.min (codeVal fmt32 (q l) * 65536).floor.toNat 0xFFFE, g) else tab k }

/-- Rounds, until a list is empty. -/
inductive AliasRounds : AliasState → AliasState → Prop where
  | done (v : AliasState) (h : v.small = [] ∨ v.large = []) : AliasRounds v v
  | next (a b c : AliasState) (h : AliasRound a b) (r : AliasRounds b c) : AliasRounds a c

/-- The table and the scales that R272 builds from K norms and their total: entries below K. -/
def AliasBuilt (K : Nat) (n : Nat → Nat) (total : Nat) (tab : Nat → Nat × Nat) (scale : Nat → Nat) : Prop :=
  ∃ (q : Nat → Nat) (v : AliasState),
    (∀ k, k < K → ∃ p, IsRne fmt32 ((exactOf fmt32 (n k)).times (.num K false)) p ∧
      IsRne fmt32 ((exactOf fmt32 p).over (exactOf fmt32 total)) (q k)) ∧
    AliasRounds { small := (List.range K).filter (fun k => codeBelowOne (q k)), large := (List.range K).filter (fun k => !codeBelowOne (q k)),
                  q, tab := fun _ => (0, 0) } v ∧
    (∀ k, k < K →
      (k ∉ v.small ++ v.large → tab k = v.tab k) ∧
      (k ∈ v.small ++ v.large → codeVal fmt32 (n k) ≠ 0 → tab k = (0xFFFF, k)) ∧
      (k ∈ v.small ++ v.large → codeVal fmt32 (n k) = 0 →
        (tab k).1 = 0 ∧ (tab k).2 < K ∧ (∀ j, j < K → codeVal fmt32 (n j) ≤ codeVal fmt32 (n (tab k).2)) ∧
          (∀ j, j < (tab k).2 → codeVal fmt32 (n j) < codeVal fmt32 (n (tab k).2))) ∧
      (codeVal fmt32 (n k) = 0 → scale k = 0) ∧
      (codeVal fmt32 (n k) ≠ 0 → IsRne fmt32 ((exactOf fmt32 total).over (exactOf fmt32 (n k))) (scale k)))

/-! ### Issue points

Where a turn runs the word at the program counter. -/

/-- A cluster at the start of its turn. -/
def clusterAt (c : Fin 4) (s : State) : State := { s with cur := c, held := false, trapped := false, gSnap := none }

/-- A cluster issues its word alone: it runs and has run before this cycle, is past its gap and past a CSLOAD, no stop, no trap delivery
and no halt of the cell stands before it, and its word is not bundled with another cluster's (R53, R78, R105, R107). -/
def ClusterIssues (c : Fin 4) (w : Nat) (s : State) : Prop :=
  let u := clusterAt c s
  cellRuns s = true ∧ (clus u c).active = true ∧ (clus u c).gap = 0 ∧ (clus u c).csl = none ∧ (∀ p ∈ u.startedNow, p.1 ≠ c.val) ∧
    streamStop u = false ∧ (c = 0 → trapReady u = false ∧ u.cell.halting = false) ∧
    (w / 2 ^ 31 % 2 = 0 ∨ ∀ j : Fin 4, (clus u j).active = true ↔ j = c)

/-- The vector sequencer issues the word at its program counter. -/
def VectorIssues (s : State) : Prop :=
  let u := vecPass s
  cellRuns s = true ∧ s.vec.trap = none ∧ u.vec.heldFault = none ∧ u.vec.halting = false ∧ u.vec.running = true ∧ u.vec.halted = false ∧ u.vec.gap = 0 ∧
    vecStop u = false ∧ (rollDue u && ((innermost u).map (·.stop) == some u.vec.pc)) = false ∧ u.vec.pc.toNat % 4 = 0

/-- The matrix sequencer issues the word at its program counter. -/
def MatrixIssues (s : State) : Prop :=
  cellRuns s = true ∧ s.mat.running = true ∧ streamStop s = false ∧ s.mat.halted = false ∧ s.mat.work = none ∧ s.mat.pc.toNat % 8 = 0

/-- The custom unit after the cycle of its turn. -/
def customAt (s : State) : State := if s.vec.cu.adv then tickCustom s else s

/-- The custom unit runs the micro-op at its counter. -/
def CustomIssues (s : State) : Prop :=
  let c := (customAt s).vec.cu
  s.cell.bound = true ∧ s.cell.gated = false ∧ s.cell.waking = false ∧ s.vec.cu.running = true ∧ s.vec.cu.stopped = false ∧ c.running = true ∧
    c.ending = false ∧ c.entry ≤ c.upc ∧ c.upc < c.entry + c.len

end Sys2Proof.Machine
end

