-- ==== Sys2Proof/Certificates/Slice0/Obligations.lean ====
section
/-! DEFINITION. The statements of this model, for the provers. -/

open Sys2Proof Sys2Proof.Machine

/-! ### Scalar words -/

/-- R79 to R82 with R77, R51 and R54: every word of the scalar arithmetic that is ready completes, writes the value that the
rules give in integers to its destination with the latency of R77, and leaves every other register, every mark, the trap
registers, memory and all else as they were; s0 as a destination discards the value. -/
def Obligations.AluCompletes : Prop :=
  ∀ (i : Instr) (r : AluRow) (s : State), aluRow i = some r → Ready r.reads [r.d] s →
    ∃ t, exec i s = .next t ∧ Wrote r.w r.d (r.val (readReg s s.cur)) s t ∧
      DueIn r.lat r.d (r.val (readReg s s.cur)) s t

/-- R77: a result of a latency keeps its register reserved for exactly that many cycles of its cluster, and the register then
reads as the result. -/
def Obligations.ResultLatency : Prop :=
  ∀ (s : State) (d : BitVec 5) (v : Word) (lat : Nat), d ≠ 0 → 1 < lat → s.gSnap = none →
    fixedPending (clus s s.cur) [d] = false →
    (∀ n, n < lat → fixedPending (clus (ticksOf s.cur n (putResult lat d v s)) s.cur) [d] = true) ∧
    fixedPending (clus (ticksOf s.cur lat (putResult lat d v s)) s.cur) [d] = false ∧
    readReg (ticksOf s.cur lat (putResult lat d v s)) s.cur d = v

/-- R83, R93, R94, R97, R99, R104, R207, R210, R211, R222, R224, R226, R232, R235, R334, R355, R379, R403, R408: every word that
acts on what the cell and the device share completes, in a state in which it need not wait and does not trap: its effect is the
one `actRow` gives, its destination receives the value that the rule names, and it changes nothing else. -/
def Obligations.SharedWordsComplete : Prop :=
  ∀ (i : Instr) (x : ActRow) (s : State), actRow i s = some x → Ready x.reads [x.d] s →
    ∃ t, exec i s = .next t ∧ Wrote x.w x.d x.v (x.act s) t

/-- R232, R237, R327, R328, R355, R357, R378, R380, R381: every word that reads a block of memory completes, in a state in which it
need not wait, the block can be read and it does not trap: it answers the code or the number that `blockRow` gives, with the effect
that goes with it, and changes nothing else. A CSLOAD whose bank is free issues and waits: its bank's tag becomes invalid; with each cycle of
the wait the verifier looks at one word, the image that it passes stands in the bank, under its tag, 4 cycles before the end, and the
status is written last; the other clusters, the sequencers and memory go on as they were. -/
def Obligations.BlockWordsComplete : Prop :=
  (∀ (i : Instr) (x : ActRow) (s : State), blockRow i s = some x → Ready x.reads [x.d] s →
    ∃ t, exec i s = .next t ∧ Wrote x.w x.d x.v (x.act s) t) ∧
  (∀ (i : Instr) (w : BitVec 2) (a b : BitVec 5) (x : CsWait) (f : State → State) (s : State), csloadRow i s = some (w, a, b, x, f) →
    Ready [a, b] [x.dest] s →
    ∃ t, exec i s = .next t ∧ (clus t s.cur).csl = some x ∧ (clus t s.cur).pc = (clus s s.cur).pc + 4 ∧
      vget t.cell.csTag x.bank none = none ∧ OtherWork s.cur (f s) t) ∧
  (∀ (c : Fin 4) (x : CsWait) (n : Nat) (s : State), (clus s c).csl = some x → x.left = some n → x.bank < 4 →
    (2 < n → (clus (cslStep c s) c).csl = some { x with left := some (n - 1) } ∧ OtherWork c s (cslStep c s) ∧
      (∀ r, regLater (cslStep c s) c r = regLater s c r) ∧ (n ≠ 5 ∨ x.words = none → (cslStep c s).cell = s.cell) ∧
      (∀ ws, n = 5 → x.words = some ws → swf 0 0 s.cell.cs = true → ws.length ≤ 2048 →
        vget (cslStep c s).cell.csTag x.bank none = some (s.cell.task.ctx, x.ver, ws.length) ∧
        (∀ k v, ws[k]? = some v → sget 0 (cslStep c s).cell.cs (2048 * x.bank + k) = BitVec.ofNat 64 v) ∧
        (∀ e, e < 2048 * x.bank ∨ 2048 * x.bank + ws.length ≤ e → sget 0 (cslStep c s).cell.cs e = sget 0 s.cell.cs e))) ∧
    (n ≤ 2 → (clus (cslStep c s) c).csl = none ∧ (x.dest ≠ 0 → (∀ p ∈ (clus s c).pend, p.reg ≠ x.dest) → (regLater (cslStep c s) c x.dest).1 = BitVec.ofNat 64 x.status) ∧
      OtherWork c s (cslStep c s)))

/-- R85, R87, R88, R297, R299: a load or a store of a local form whose address is aligned and translated completes. The load enters the load
queue with the location and the size, the store the store queue with the register's low bytes at the location, lowest first; nothing else
changes: no register, no other cluster, and no byte of memory, which a store writes only at its home. -/
def Obligations.LocalAccessesComplete : Prop :=
  (∀ (i : Instr) (x : MemRow) (s : State) (loc : Nat) (p : Attr), loadRow i = some x → Ready [x.a] [x.r] s →
    (x.addr s).toNat % x.size = 0 → xl s.cur.val (clus s s.cur).sup .read (x.addr s) s = .ok loc p →
    (p.mt = 3 → queuesEmpty (clus s s.cur) = true) →
    ∃ t, exec i s = .next t ∧ Issued x.w s t ∧ (∀ c r, regLater t c r = regLater s c r) ∧ QueueFrame s t ∧
      (clus t s.cur).stores = (clus s s.cur).stores ∧
      (clus t s.cur).loads = (clus s s.cur).loads ++
        [{ dest := x.r, size := x.size, sext := x.sext, loc, dev := decide (2 ≤ p.mt), seq := (clus s s.cur).seqCtr }]) ∧
  (∀ (i : Instr) (x : MemRow) (s : State) (loc : Nat) (p : Attr), storeRow i = some x → Ready [x.r, x.a] [] s →
    (x.addr s).toNat % x.size = 0 → xl s.cur.val (clus s s.cur).sup .write (x.addr s) s = .ok loc p →
    (p.mt = 3 → queuesEmpty (clus s s.cur) = true) →
    ∃ t, exec i s = .next t ∧ Issued x.w s t ∧ (∀ c r, regLater t c r = regLater s c r) ∧ QueueFrame s t ∧
      (clus t s.cur).loads = (clus s s.cur).loads ∧
      (clus t s.cur).stores = (clus s s.cur).stores ++
        [{ q := s.cur.val, grp := (clus s s.cur).seqCtr, wc := decide (p.mt = 1) && !x.stf, dev := decide (2 ≤ p.mt),
           seq := (clus s s.cur).seqCtr, stf := x.stf, seen := [],
           bar := (clus s s.cur).bar, vis := 0,
           cells := (List.range x.size).map (fun k =>
             (loc + k, BitVec.ofNat 8 ((readReg s s.cur x.r).toNat / 256 ^ k))) }])

/-- R85, R87, R89: when the data of a cluster's oldest load return, its register is given the bytes that the cluster sees at the
location, little-endian and extended, marked if one of them is poisoned: an s register holds them at once, a g register with the
end of the cycle (R51); every other register, every byte of memory and both sequencers are unchanged, and of the stores that have
not reached their homes only the notes of who has read them may change (R300). That the mark is that of the homes, also of a byte that comes
from a store on its way, is the model's choice, log 137. -/
def Obligations.LoadReturns : Prop :=
  ∀ (c : Fin 4) (s : State) (e : LoadEnt) (r : List LoadEnt), (clus s c).loads = e :: r →
    (e.dev = true → devStoreBefore c.val e.seq (clus s c).stores s = false) → (e.sext = true → e.size = 4) →
    let bytes := (List.range e.size).map (fun i => cellByte c.val s (e.loc + i))
    let v : Word := if e.sext then (BitVec.ofNat 32 (leNat bytes)).signExtend 64 else BitVec.ofNat 64 (leNat bytes)
    let m := (List.range e.size).any (fun i => s.dev.poison.contains (e.loc + i))
    ∃ t, exec (.loadDataReturn c) s = .next t ∧ (clus t c).loads = r ∧
      (if e.dest.toNat < 24 then (clus t c).pend = (clus s c).pend ∧
          (readReg t c e.dest, regPoison t c e.dest) = (if e.dest = 0 then (0, false) else (v, m))
        else (clus t c).pend = (clus s c).pend ++ [{ reg := e.dest, val := v, mark := m, left := 1 }] ∧
          t.cell.g = s.cell.g ∧ t.cell.gPoison = s.cell.gPoison) ∧
      (∀ q, q ≠ e.dest → readReg t c q = readReg s c q ∧ regPoison t c q = regPoison s c q) ∧
      (clus t c).pc = (clus s c).pc ∧ { (clus t c).still with loads := [] } = { (clus s c).still with loads := [] } ∧
      { t.cell with cellStores := s.cell.cellStores } = s.cell ∧
      t.cell.cellStores.map (fun x => { x with seen := [] }) = s.cell.cellStores.map (fun x => { x with seen := [] }) ∧
      t.dev = s.dev ∧ t.vec = s.vec ∧ t.mat = s.mat ∧ (∀ d, d ≠ c → clus t d = clus s d)

/-- R297: when a store that is visible at cell scope, and that no earlier store and no capture holds back, is performed at its home,
a step leaves each of its bytes at its address and every other byte of memory as it was; of the clusters only results may land that
the step's cycles make due (R77). -/
def Obligations.StoreReachesHome : Prop :=
  ∀ (s : State) (k n : Nat) (e : StoreEnt) (rest : List Slot), s.agenda = { turn := .storeHome k, cycles := n } :: rest →
    s.cell.cellStores[k]? = some e → (∀ x ∈ s.cell.cellStores.take k, x.overlaps e = false ∧ (x.q = e.q → mayPass x e = true)) →
    (∀ c ∈ e.cells, captureHolds s c.1 = false) → memWf s.dev.mem = true → (e.cells.map (·.1)).Nodup →
    ∃ t, step s = .next t ∧ (∀ c ∈ e.cells, memGet t.dev.mem c.1 = c.2) ∧
      (∀ a, a ∉ e.cells.map (·.1) → memGet t.dev.mem a = memGet s.dev.mem a) ∧
      t.cell.cellStores = s.cell.cellStores.eraseIdx k ∧ t.cl = (passCycles n s).cl ∧ t.vec = s.vec ∧ t.mat = s.mat

/-- R90, R91, R92: an AMO or a CAS of a local form on an aligned, translated, unpoisoned location off write-combining pages, with
the cluster's queues empty, no store to its bytes still on its way and, on a device page, no device store of the cluster either,
completes: its bytes hold the new value, its destination
receives the old one, zero-extended, and every other byte of memory, every other register and all else are unchanged (that the
exchange is one step, log 23); the queues realign before the cluster's next word. -/
def Obligations.AtomicsComplete : Prop :=
  ∀ (i : Instr) (x : RmwRow) (s : State) (loc : Nat) (p : Attr), rmwRow i = some x →
    let k := if x.z then 8 else 4
    Ready (if x.cas then [x.a, x.b, x.d] else [x.a, x.b]) [x.d] s → (readReg s s.cur x.a).toNat % k = 0 →
    xl s.cur.val (clus s s.cur).sup .atomic (readReg s s.cur x.a) s = .ok loc p → p.mt ≠ 1 →
    queuesEmpty (clus s s.cur) = true → overlapsPending s loc k = false → captureHolds s loc = false →
    poisoned s loc k = false → (2 ≤ p.mt → deviceClear s = true) → memWf s.dev.mem = true →
    ∃ t, exec i s = .next t ∧ Issued x.w s t ∧ Writes x.d (BitVec.ofNat 64 (homeNat s loc k)) s t ∧
      homeNat t loc k = x.result (8 * k) s loc ∧
      (∀ a, a < loc ∨ loc + k ≤ a → memGet t.dev.mem a = memGet s.dev.mem a) ∧
      t.vec = s.vec ∧ t.mat = s.mat ∧ (∀ c, c ≠ s.cur → clus t c = clus s c) ∧
      (clus t s.cur).realign = true ∧ { (clus t s.cur).still with bar := 0 } = { (clus s s.cur).still with bar := 0 } ∧
      { t.cell with g := s.cell.g, gPoison := s.cell.gPoison, oldCode := s.cell.oldCode } = s.cell

/-- R95, R96: every branch completes with the program counter at its target or at the next word as its rule says, CALL with s23 at
the word after it, and changes nothing else. -/
def Obligations.BranchesComplete : Prop :=
  ∀ (i : Instr) (x : BranchRow) (s : State), branchRow i s = some x → Ready x.reads [x.d] s →
    ∃ t, exec i s = .next t ∧ (clus t s.cur).pc = x.target ∧ (clus t s.cur).gap = x.w.toNat ∧ Writes x.d x.v (x.see s) t ∧
      RegisterFrame (x.see s) t

/-- R100: TRAP in user mode takes the software trap, its own effect: INFO is the code, TPC the next word; in supervisor mode it is a
double trap, which writes no trap register and freezes the cell with the code DOUBLE. -/
def Obligations.TrapWordTraps : Prop :=
  ∀ (y : Bool) (w : BitVec 2) (c : BitVec 5) (s : State), Ready [] [] s →
    ((clus s s.cur).sup = false →
      ∃ t, exec (.trap y w c) s = .next t ∧ TrapTaken s.cur 0x08 c.toNat ((clus s s.cur).pc + 4) 0 s t) ∧
    ((clus s s.cur).sup = true → s.cell.frozen = none →
      ∃ t f, exec (.trap y w c) s = .next t ∧ t.cell.frozen = some f ∧ f.code = 0x0F ∧ f.eng = s.cur.val ∧
        (∀ e, (clus t e).tcause = (clus s e).tcause ∧ (clus t e).tpc = (clus s e).tpc ∧ (clus t e).tval = (clus s e).tval))

/-- R101, R103, R105, R83, R69, R106: in user mode ERET, REPLAY, CSLOAD and an access to a special register of supervisor mode take the
privilege trap, and an access to a register outside the map of R84 the illegal-instruction trap, precise at the word. A trap raised in
supervisor mode is a double trap: an access to a register outside the map, and a ready load or store whose address is not a multiple of
its size, write no trap register, and the cell is frozen with the code DOUBLE if it was not frozen before. -/
def Obligations.TrapsByMode : Prop :=
  (∀ (i : Instr) (code : Nat) (s : State), (clus s s.cur).sup = false →
    (match i with
     | .eret _ _ => code = 0x02
     | .replay _ _ _ => code = 0x02
     | .csload _ _ _ _ _ => code = 0x02
     | .mfsr _ _ _ n => if srExists n.toNat then 0x200 ≤ n.toNat ∧ n.toNat ≤ 0x3FF ∧ code = 0x02 else code = 0x01
     | .mtsr _ _ _ n => if srExists n.toNat then 0x200 ≤ n.toNat ∧ n.toNat ≤ 0x3FF ∧ code = 0x02 else code = 0x01
     | _ => False) →
    ∃ t, exec i s = .next t ∧
      TrapTaken s.cur code 0 (clus s s.cur).pc (BitVec.ofNat 64 (s.word % 2 ^ 32)) s t) ∧
  (∀ (i : Instr) (s : State), (clus s s.cur).sup = true → s.cell.frozen = none →
    (match i with
     | .mfsr _ _ _ n => srExists n.toNat = false
     | .mtsr _ _ _ n => srExists n.toNat = false
     | _ => (∃ x, loadRow i = some x ∧ Ready [x.a] [x.r] s ∧ (x.addr s).toNat % x.size ≠ 0) ∨
         (∃ x, storeRow i = some x ∧ Ready [x.r, x.a] [] s ∧ (x.addr s).toNat % x.size ≠ 0)) →
    ∃ t f, exec i s = .next t ∧ t.cell.frozen = some f ∧ f.code = 0x0F ∧ f.eng = s.cur.val ∧
      (∀ e, (clus t e).tcause = (clus s e).tcause ∧ (clus t e).tpc = (clus s e).tpc ∧ (clus t e).tval = (clus s e).tval))

/-- R85, R92, R109: a ready load, store, AMO or CAS in user mode whose address is not a multiple of its size takes the MISDATA trap,
with the effective address as TVAL; nothing is loaded and nothing is stored. That it does so also where the address may not be accessed
(both rules then name their trap without an order) is the model's choice, log 29. -/
def Obligations.MisalignedTraps : Prop :=
  ∀ (i : Instr) (s : State), (clus s s.cur).sup = false →
    (∀ x, loadRow i = some x → Ready [x.a] [x.r] s → (x.addr s).toNat % x.size ≠ 0 →
      ∃ t, exec i s = .next t ∧ TrapTaken s.cur 0x05 0 (clus s s.cur).pc (x.addr s) s t) ∧
    (∀ x, storeRow i = some x → Ready [x.r, x.a] [] s → (x.addr s).toNat % x.size ≠ 0 →
      ∃ t, exec i s = .next t ∧ TrapTaken s.cur 0x05 0 (clus s s.cur).pc (x.addr s) s t) ∧
    (∀ x, rmwRow i = some x → Ready (if x.cas then [x.a, x.b, x.d] else [x.a, x.b]) [x.d] s →
      (readReg s s.cur x.a).toNat % (if x.z then 8 else 4) ≠ 0 →
      ∃ t, exec i s = .next t ∧ TrapTaken s.cur 0x05 0 (clus s s.cur).pc (readReg s s.cur x.a) s t)

/-- R101: ERET in supervisor mode takes the program counter and the mode back: from TPC after a trap of the cluster's own, from
TCPC after a delegated trap, whose vector stream goes on as its frame says. -/
def Obligations.EretReturns : Prop :=
  ∀ (y : Bool) (w : BitVec 2) (s : State), Ready [] [] s → (clus s s.cur).sup = true →
    let k := clus s s.cur
    let eng := k.tcause.toNat / 2 ^ 12 % 16
    (eng ≤ 3 → ∃ t, exec (.eret y w) s = .next t ∧ (clus t s.cur).pc = k.tpc ∧ (clus t s.cur).sup = k.tcause.getLsbD 8 ∧
      (clus t s.cur).gap = w.toNat ∧ (∀ c r, regLater t c r = regLater s c r) ∧ t.cell = s.cell ∧ t.vec = s.vec ∧
      t.mat = s.mat ∧ t.dev.mem = s.dev.mem) ∧
    ((eng = 4 ∨ eng = 10) → s.vec.delivered = true → s.cur = 0 → ∀ u, resumeVector k.tpc s = .ok u →
      ∃ t, exec (.eret y w) s = .next t ∧ (clus t 0).pc = k.tcpc ∧ (clus t 0).sup = k.tcause.getLsbD 8 ∧
        t.vec = u.vec ∧ t.dev.mem = u.dev.mem)

/-- R14, R98, R304: HALT halts its cluster: on c1 to c3 once its loads are performed and its stores visible; on c0 in user mode the
task leaves the cell when nothing of it is left; on c0 in supervisor mode the task is killed: every cluster and both sequencers
stop, of the jobs only chunks in progress go on, to their ends, and its launch ends with the status HANDLER and c0's TCAUSE (log 15
and log 49). -/
def Obligations.HaltCompletes : Prop :=
  ∀ (y : Bool) (w : BitVec 2) (s : State), Ready [] [] s →
    (s.cur ≠ 0 → queuesEmpty (clus s s.cur) = true →
      ∃ t, exec (.halt y w) s = .next t ∧ (clus t s.cur).active = false ∧ (∀ c, c ≠ s.cur → clus t c = clus s c) ∧
        (∀ c r, regLater t c r = regLater s c r) ∧ t.cell = s.cell ∧ t.vec = s.vec ∧ t.mat = s.mat ∧ t.dev.mem = s.dev.mem) ∧
    (s.cur = 0 → (clus s 0).sup = false → retireReady s = true →
      ∃ t, exec (.halt y w) s = .next t ∧ t.cell.bound = false ∧ (clus t 0).active = false ∧ t.dev.mem = s.dev.mem ∧
        t.vec = s.vec ∧ t.mat = s.mat) ∧
    (s.cur = 0 → (clus s 0).sup = true →
      ∃ t, exec (.halt y w) s = .next t ∧ (∀ c, (clus t c).active = false) ∧ t.vec.running = false ∧ t.mat.running = false ∧
        t.cell.jobs = (s.cell.jobs.filter (fun j => j.started && decide (j.wait ≠ 0))).map (fun j => { j with stopping := true }) ∧
        t.cell.colls = [] ∧ t.cell.mends = [] ∧
        (∀ l ∈ s.dev.launches, s.cell.bound = true → l.bound = true → l.q = s.cell.task.q → l.num = s.cell.task.num →
          l.ending = none →
          { l with started := true, ending := some 2, tcause := (clus s 0).tcause } ∈ t.dev.launches))

/-- R102, R262, R264: SEGB with no open segment opens one, with the expected count and signature of its register and a count of 0;
SEGE of a segment whose count and signature agree, in a redundant pair with those of the other member too (a free value,
log 120), closes it. Nothing else changes. -/
def Obligations.SegmentsComplete : Prop :=
  ∀ (y : Bool) (w : BitVec 2) (a : BitVec 5) (s : State),
    (Ready [a] [] s → (clus s s.cur).seg.opened = false →
      ∃ t, exec (.segb y w a) s = .next t ∧ Passed w s t ∧
        (clus t s.cur).seg = ⟨true, false, 0, 0xFFFFFFFF#32, (readReg s s.cur a).extractLsb' 0 32,
          (readReg s s.cur a).extractLsb' 32 32⟩) ∧
    (Ready [] [] s → (clus s s.cur).seg.opened = true → (clus s s.cur).seg.voided = false →
      (clus s s.cur).seg.count + 1 = (clus s s.cur).seg.expCount → ~~~ (clus s s.cur).seg.crc = (clus s s.cur).seg.expCrc →
      (s.cell.task.pair = false →
        ∃ t, exec (.sege y w) s = .next t ∧ Passed w s t ∧ (clus t s.cur).seg.opened = false) ∧
      (s.cell.task.pair = true →
        Config.freeWord s.freeCtr = (clus s s.cur).seg.expCrc.setWidth 64 ||| (clus s s.cur).seg.expCount.setWidth 64 <<< 32 →
        ∃ t, exec (.sege y w) s = .next t ∧ Passed w { s with freeCtr := s.freeCtr + 1 } t ∧ (clus t s.cur).seg.opened = false))

/-- R103, R198: REPLAY in supervisor mode, with a delivered trap and a valid entry of the replay queue whose destination is neither
memory nor a port, lands that entry, which is then no longer pending; with an index at or beyond COUNT it changes nothing. -/
def Obligations.ReplayCompletes : Prop :=
  ∀ (y : Bool) (w : BitVec 2) (a : BitVec 5) (s : State), Ready [a] [] s → (clus s s.cur).sup = true →
    let i := (readReg s s.cur a).toNat % 32
    let bs := frameBytes (0x240 + 832 * i) 832 s
    ((24 ≤ i ∨ byteAt (frameBytes 0x200 1 s) 0 ≤ i) → ∃ t, exec (.replay y w a) s = .next t ∧ Passed w s t) ∧
    (∀ fl, s.vec.delivered = true → i < 24 → i < byteAt (frameBytes 0x200 1 s) 0 →
      flightFrom (lset bs 12 1) (captOf s i) = some fl → fl.valid = true → fl.store = false →
      (∀ p, fl.f.d ≠ .port p) →
      ∃ t, exec (.replay y w a) s = .next t ∧ t.vec = (replayed i fl (landFlight fl s)).vec ∧ Issued w s t)

/-- R83, R84, R106, R268, R322, R391, R393: a special register that software may write reads as the written value within its fields, a sampler
register where no sample step of the cycle has written it. A write of SAMPSTAT changes CODE alone, and not to 5 to 7; one of PREEMPT changes
HOLD, and asks for pre-emption with YIELD; a field of ESEV written with 9 to 15 stays; of an error bank's registers only +6 takes a write,
which zeroes +0 to +4 with EB.CLR and the counts with EB.CLRCNT, in a cycle without an error of the bank. -/
def Obligations.SpecialRegistersHold : Prop :=
  ∀ (c : Fin 4) (n : Nat) (v : Word) (s : State),
    let after (k : Nat) : Word := srRead c k (srWrite c n v s)
    (∀ m : Word, (0x100 ≤ n ∧ n ≤ 0x107 ∧ m = BitVec.allOnes 64) ∨ (0x108 ≤ n ∧ n ≤ 0x10B ∧ m = 0xFFFFFFFF) ∨
      (0x110 ≤ n ∧ n ≤ 0x11F ∧ m = 0x00FFFFFF01FFFFFF) ∨ (0x120 ≤ n ∧ n ≤ 0x123 ∧ s.now.samp.contains n = false ∧ m = 0xFFFFFFFF) ∨
      (n = 0x130 ∧ m = 3) ∨ (n = 0x200 ∧ m = 0x0000FFFFFFFFFFC0) ∨ (n = 0x201 ∧ m = 0xFFF1FF) ∨ (n = 0x202 ∧ m = 0xFFFFFFFFFFFF) ∨
      (n = 0x203 ∧ m = 0x7FFF00) ∨ (n = 0x204 ∧ m = BitVec.allOnes 64) ∨ (n = 0x206 ∧ m = BitVec.allOnes 64) ∨
      (n = 0x207 ∧ m = 0xFFFFFFFFFFFF) → after n = v &&& m) ∧
    (n = 0x124 → s.now.samp.contains n = false →
      after n = (srRead c n s &&& 0x00000FFF00000000) ||| (if v.toNat % 8 ≤ 4 then v &&& 7 else srRead c n s &&& 7)) ∧
    (n = 0x205 → after n = (srRead c n s &&& 0xFF02) ||| (v &&& 4) ||| (if v.getLsbD 0 && s.cell.bound then 2 else 0)) ∧
    (0x300 ≤ n → n ≤ 0x30F → ∀ src, src < 16 →
      let field (x : Word) : Nat := x.toNat / 2 ^ (4 * src) % 16
      field (after n) = if field v ≤ 8 then field v else field (srRead c n s)) ∧
    (∀ b r, b < 16 → r < 7 → n = 0x310 + 7 * b + r → cycleErrs s b = [] → ∀ b' q, b' < 16 → q < 7 →
      after (0x310 + 7 * b' + q) =
        if b' = b ∧ r = 6 ∧ ((q ≤ 4 ∧ v.getLsbD 0 = true) ∨ (q = 5 ∧ v.getLsbD 1 = true)) then 0 else srRead c (0x310 + 7 * b' + q) s)

/-- R78: a write of CLUSTERGO starts each named halted cluster of c1 to c3 in user mode at s1 of the writer, with its s registers
zero, and starts again one that a lower-numbered writer has started in the same cycle; c0 and the other clusters that run already
are as they were. That the address is the low 48 bits of s1 is the model's choice, log 33. -/
def Obligations.ClusterGoStarts : Prop :=
  ∀ (w : Fin 4) (mask : BitVec 4) (s : State) (n : Fin 4),
    let t := clusterGo w mask s
    let starts := n ≠ 0 ∧ mask.getLsbD n.val = true ∧
      ((clus s n).active = false ∨ ∃ v, (n.val, v) ∈ s.startedNow ∧ v < w.val)
    (starts →
      (clus t n).active = true ∧ (clus t n).sup = false ∧ (clus t n).pc = (readReg s w 1).setWidth 48 ∧
      (clus t n).s = Vector.replicate 23 0) ∧
    (¬starts → clus t n = clus s n)

/-! ### Vector words -/

/-- R54, R57, R58, R110, R112, R114, R115, R189, R196, R254: every computing word that takes its effect completes: its operands are captured,
its read ports popped, and its result is on its way to be computed and written after its latency; no register, no byte of memory and no
part of the cell has changed yet. Outside every loop, a word that goes on is followed by its next repeat, or by the next word after the
idle cycles of W; going on changes nothing of the tiles, the registers, the ports, the other engines and the device. -/
def Obligations.LaneWordsComplete : Prop :=
  (∀ (i : Instr) (op : Nat) (f : VWord) (s : State), laneOp i = some (op, f) → LaneReady op f s →
    ∃ t, exec i s = .next t ∧ t = vAdvance f (popPorts (readPorts f) (flyOn (laneFlight op f s) s)) ∧
      (s.vec.loops = [] → VecIssued f s t ∧ t.vec.flights = s.vec.flights ++ [{ laneFlight op f s with num := if portOf f.d = [] then 0 else s.vec.seqCtr }] ∧ t.vec.tile = s.vec.tile ∧
        t.vec.tileP = s.vec.tileP ∧ t.vec.x = s.vec.x ∧ t.vec.am = s.vec.am ∧ t.vec.mask = s.vec.mask ∧ t.cell = s.cell ∧
        t.dev = s.dev ∧ t.cl = s.cl ∧ t.mat = s.mat)) ∧
  (∀ (f : VWord) (s : State), s.vec.loops = [] →
    VecIssued f s (vAdvance f s) ∧
      (vAdvance f s).vec.rcount = (if s.vec.repj = 0 then (if f.x then s.vec.rcount + 1 else 0) else s.vec.rcount) ∧
      { vAdvance f s with vec := s.vec } = s ∧ (vAdvance f s).vec.tile = s.vec.tile ∧ (vAdvance f s).vec.x = s.vec.x ∧
      (vAdvance f s).vec.am = s.vec.am ∧ (vAdvance f s).vec.mask = s.vec.mask ∧ (vAdvance f s).vec.ports = s.vec.ports ∧
      (vAdvance f s).vec.flights = s.vec.flights)

/-- R112, R115, R145: when a result with a tile destination lands, each enabled lane of the destination that the word writes holds
the computed element, and every other element, the x and amax registers, the ports, memory and the other engines are unchanged. -/
def Obligations.LandingWrites : Prop :=
  ∀ (fl : Flight) (s : State), fl.valid = true → 0x20 ≤ fl.op → fl.op ≤ 0x6B → fl.op ≠ 0x66 →
    (∃ dir t ix st rot q, fl.f.d = .tile dir t ix st rot q) → (vcompute (flightIn fl)).hi = none → swf 0 0 s.vec.tile = true →
    let r := vcompute (flightIn fl)
    let ks := operandKeys fl.f.d fl.rep fl.rb 0
    let on := fl.en &&& r.wr
    let t := landFlight fl s
    (∀ l k, ks[l]? = some k → on.getLsbD l = true → sget 0 t.vec.tile k = r.lo[l]?.getD 0) ∧
      (∀ k, (∀ l, ks[l]? = some k → on.getLsbD l = false) → sget 0 t.vec.tile k = sget 0 s.vec.tile k) ∧
      t.vec.x = s.vec.x ∧ t.vec.am = s.vec.am ∧ t.vec.ports = s.vec.ports ∧ t.vec.mask = s.vec.mask ∧ t.cell = s.cell ∧
      t.dev = s.dev ∧ t.cl = s.cl ∧ t.mat = s.mat

/-- R130: the integer arithmetic instructions act per element at the element's width w: VIADD, VISUB, VIMUL and VIMAD modulo 2^w,
VIABS with the most negative value giving itself, VADDS and VSUBS saturated to the range of the type. -/
def Obligations.IntegerArithmetic : Prop :=
  ∀ (i : VIn) (l k : Nat), l < 64 → k < perLane i.t → 3 ≤ i.t → i.t ≤ 8 →
    let w : Nat := 32 / perLane i.t
    let el (x : Lane) : Int := (x.toNat / 2 ^ (k * w) % 2 ^ w : Nat)
    let sg (x : Int) : Int := if (i.t = 3 ∨ i.t = 5 ∨ i.t = 7) ∧ 2 ^ (w - 1) ≤ x then x - 2 ^ w else x
    let lo : Int := if i.t = 3 ∨ i.t = 5 ∨ i.t = 7 then -(2 ^ (w - 1)) else 0
    let hi : Int := if i.t = 3 ∨ i.t = 5 ∨ i.t = 7 then 2 ^ (w - 1) - 1 else 2 ^ w - 1
    let a := el (laneAt (operandLanes i.t i.fa i.a i.mtop) l)
    let b := el (laneAt (operandLanes i.t i.fb i.b i.mtop) l)
    let d := el (laneAt i.d l)
    let r := el (laneAt (vcompute i).lo l)
    (i.op = 0x40 → r = (a + b) % 2 ^ w) ∧ (i.op = 0x41 → r = (a - b) % 2 ^ w) ∧ (i.op = 0x42 → r = a * b % 2 ^ w) ∧
      (i.op = 0x43 → r = (a * b + d) % 2 ^ w) ∧
      (i.op = 0x4C → (i.t = 3 ∨ i.t = 5 ∨ i.t = 7) → r = ((sg a).natAbs : Int) % 2 ^ w) ∧
      (i.op = 0x4D → sg r = max lo (min hi (sg a + sg b))) ∧ (i.op = 0x4E → sg r = max lo (min hi (sg a - sg b)))

/-- R131, R132: the bit instructions act on the 32 bits of the lane whatever the type, VPOPC and VCLZ per element; the shifts act
per element, by the B element as an unsigned amount, and an amount of the width or more gives zeros, or copies of the top bit. -/
def Obligations.BitWords : Prop :=
  ∀ (i : VIn) (l k : Nat), l < 64 → k < perLane i.t → 3 ≤ i.t → i.t ≤ 9 →
    let w : Nat := 32 / perLane i.t
    let el (x : Lane) : Nat := x.toNat / 2 ^ (k * w) % 2 ^ w
    let la := laneAt (operandLanes i.t i.fa i.a i.mtop) l
    let lb := laneAt (operandLanes i.t i.fb i.b i.mtop) l
    let ld := laneAt i.d l
    let a := el la
    let b := el lb
    let lr := laneAt (vcompute i).lo l
    let r := el lr
    (i.op = 0x44 → lr = la &&& lb) ∧ (i.op = 0x45 → lr = la ||| lb) ∧ (i.op = 0x46 → lr = la ^^^ lb) ∧
      (i.op = 0x4F → lr = (la &&& ld) ||| (lb &&& ~~~ld)) ∧
      (i.op = 0x4A → r = ((List.range w).filter (fun j => a.testBit j)).length) ∧
      (i.op = 0x4B → (a = 0 → r = w) ∧ (a ≠ 0 → r < w ∧ 2 ^ (w - 1 - r) ≤ a ∧ a < 2 ^ (w - r))) ∧
      (i.op = 0x47 → r = if b < w then a * 2 ^ b % 2 ^ w else 0) ∧ (i.op = 0x48 → r = if b < w then a / 2 ^ b else 0) ∧
      (i.op = 0x49 → r = if a < 2 ^ (w - 1) then a / 2 ^ b else 2 ^ w - 1 - (2 ^ w - 1 - a) / 2 ^ b)

/-- R119, R120, R122, R126 with R24, R25, R27 and R30: the vector floating-point arithmetic per element. The sum, the difference, the product,
the quotient and the fused forms are the exact result of their operation, rounded once by RNE into the element's format, with the special
values of R119; VSQRT is the correctly rounded root; VABS, VNEG and VCPYS change the sign bit alone, but for a NaN; VSCALE is a times 2^n,
rounded once; VEXPO is floor(log2 |a|) or the code of R126. -/
def Obligations.FloatArithmetic : Prop :=
  ∀ (i : VIn) (l k : Nat), l < 64 → k < perLane i.t → floatType i.t = true →
    let f := fmtOf i.t
    let w : Nat := 32 / perLane i.t
    let el (x : Lane) : Nat := x.toNat / 2 ^ (k * w) % 2 ^ w
    let a := el (laneAt (operandLanes i.t i.fa i.a i.mtop) l)
    let b := el (laneAt (operandLanes i.t i.fb i.b i.mtop) l)
    let x := exactOf f a
    let y := exactOf f b
    let z := exactOf f (el (laneAt i.d l))
    let r := el (laneAt (vcompute i).lo l)
    let n := elemInt 3 32 (laneAt (operandLanes 3 i.fb i.b i.mtop) l).toNat
    let top := 2 ^ (f.eb + f.fb)
    (i.op = 0x20 → IsRne f (x.plus y) r) ∧ (i.op = 0x21 → IsRne f (x.plus y.opp) r) ∧ (i.op = 0x22 → IsRne f (x.times y) r) ∧
      (i.op = 0x23 → IsRne f ((x.times y).plus z) r) ∧ (i.op = 0x24 → IsRne f ((x.times y).plus z.opp) r) ∧
      (i.op = 0x25 → IsRne f ((x.times y).opp.plus z) r) ∧
      (i.op = 0x28 → r = if codeNan f a then canonNan f else a % top) ∧
      (i.op = 0x29 → r = if codeNan f a then canonNan f else a % top + (if codeNeg f a then 0 else top)) ∧
      (i.op = 0x2A → r = if codeNan f a then canonNan f else a % top + (if codeNeg f b then top else 0)) ∧
      (perLane i.t = 1 →
        (i.op = 0x37 → IsRne f (x.over y) r) ∧ (i.op = 0x38 → IsRoot f a r) ∧ (i.op = 0x34 → IsRne f (x.scaled n) r) ∧
        (i.op = 0x35 →
          (codeNan f a = true ∨ codeInf f a = true → r = 0x7FFFFFFF) ∧
          (codeNan f a = false → codeInf f a = false → codeVal f a = 0 → r = 0x80000000) ∧
          (codeNan f a = false → codeInf f a = false → codeVal f a ≠ 0 →
            twoTo (elemInt 3 32 r) ≤ (codeVal f a).abs ∧ (codeVal f a).abs < twoTo (elemInt 3 32 r + 1))))

/-- R121, R123, R124, R125, R127, R128, R129: minimum, maximum and clamp of every type, the comparisons as all ones or all zeros, the selection
by the mask-stack top, the rounding to integral values, the conversions under RNE and RZ between all types and packings, and the dot
products with one rounding. (Stochastic rounding is not among the modes stated here.) -/
def Obligations.SelectsAndConversions : Prop :=
  ∀ (i : VIn) (l k : Nat), l < 64 → k < perLane i.t →
    let f := fmtOf i.t
    let w : Nat := 32 / perLane i.t
    let el (x : Lane) : Nat := x.toNat / 2 ^ (k * w) % 2 ^ w
    let la := laneAt (operandLanes i.t i.fa i.a i.mtop) l
    let lb := laneAt (operandLanes i.t i.fb i.b i.mtop) l
    let ld := laneAt i.d l
    let lr := laneAt (vcompute i).lo l
    (i.t ≤ 8 ∨ i.t = 10 →
      (i.op = 0x26 → el lr = minElem i.t w (el la) (el lb)) ∧ (i.op = 0x27 → el lr = maxElem i.t w (el la) (el lb)) ∧
      (i.op = 0x36 → el lr = minElem i.t w (maxElem i.t w (el ld) (el la)) (el lb)) ∧
      (0x2B ≤ i.op → i.op ≤ 0x2E ∨ (i.op = 0x2F ∧ floatType i.t = true) →
        el lr = if relates i.op i.t w (el la) (el lb) then 2 ^ w - 1 else 0)) ∧
    (i.t = 9 → i.op = 0x2B ∨ i.op = 0x2E → lr = if decide (la = lb) = decide (i.op = 0x2B) then 0xFFFFFFFF else 0) ∧
    (i.op = 0x30 → lr = if i.mtop.getLsbD l then la else lb) ∧
    (i.op = 0x31 → floatType i.t = true → ∀ v, i.fb = .imm v → v.toNat < 4 →
      (codeNan f (el la) = true → el lr = canonNan f) ∧ (codeInf f (el la) = true → el lr = el la) ∧
      (codeNan f (el la) = false → codeInf f (el la) = false →
        codeNan f (el lr) = false ∧ codeNeg f (el lr) = codeNeg f (el la) ∧
          ∃ n : Int, codeVal f (el lr) = n ∧ RoundsTo v.toNat (codeVal f (el la)) n)) ∧
    (i.op = 0x32 → i.src ≤ 8 → i.t ≤ 8 →
      let ns := perLane i.src
      let ws : Nat := 32 / ns
      let nd := perLane i.t
      let x0 := (laneAt i.b 0).toNat
      let mode := match i.fb with
        | .imm v => v.toNat % 4
        | _ => if x0 % 4 = 3 then 0 else x0 % 4
      let part := (match i.fb with
        | .imm v => v.toNat / 4 % 4
        | _ => x0 / 4 % 4) % (if nd > ns then nd / ns else ns / nd)
      let e := nd * l + k
      let source (n : Nat) : Nat := (laneAt (operandLanes i.src i.fa i.a i.mtop) (n / ns)).toNat / 2 ^ (n % ns * ws) % 2 ^ ws
      (nd > ns → ((vcompute i).wr.getLsbD l = true ↔ 64 * ns * part ≤ e ∧ e < 64 * ns * (part + 1))) ∧
      (nd ≤ ns → (vcompute i).wr.getLsbD l = true) ∧
      (mode ≤ 1 → (vcompute i).wr.getLsbD l = true →
        Converts mode i.t w (elemExact i.src ws (source (if nd > ns then e - 64 * ns * part else e + 64 * nd * part))) (el lr))) ∧
    (i.op = 0x33 → i.t ≠ 0 → i.t ≠ 3 → i.t ≠ 4 → i.t ≤ 8 →
      let at_ (x : Lane) (j : Nat) : Nat := x.toNat / 2 ^ (j * w) % 2 ^ w
      (floatType i.t = true →
        let p (j : Nat) : Exact := (exactOf f (at_ la j)).times (exactOf f (at_ lb j))
        IsRne fmt32 (((exactOf fmt32 ld.toNat).plus (p 0)).plus (p 1)) lr.toNat) ∧
      (floatType i.t = false →
        (lr.toNat : Int) = ((ld.toNat : Int) +
          ((List.range (perLane i.t)).map (fun j => elemInt i.t w (at_ la j) * elemInt i.t w (at_ lb j))).foldl (· + ·) 0) % 2 ^ 32))

/-- R136 to R142: VMOV copies every bit, widens f32 to FA40 exactly and rounds FA40 to f32 by RNE; VBCAST, VPERM, VROT and VCOMP move lanes;
VSUM and VMAXR reduce by the pairwise tree and VSCAN by its steps, a disabled lane counting as the identity; what VAMAX contributes makes
its register the NaN, or the greatest magnitude. -/
def Obligations.MovesAndReductions : Prop :=
  (∀ (i : VIn) (l : Nat), l < 64 →
    let la (j : Nat) : Lane := laneAt (operandLanes i.t i.fa i.a i.mtop) j
    let lb := laneAt (operandLanes i.t i.fb i.b i.mtop) l
    let lr := laneAt (vcompute i).lo l
    let hr := laneAt ((vcompute i).hi.getD []) l
    let x5 := (laneAt i.b 0).toNat % 64
    let below (q : Nat) : Nat := ((List.range q).filter (fun j => i.mtop.getLsbD j)).length
    let seen (identity : Nat) (j : Nat) : Nat := if i.en.getLsbD j then (la j).toNat else identity
    (i.op = 0x60 → i.src = i.t → i.t ≠ 11 → lr = la l) ∧
    (i.op = 0x60 → i.t = 11 → i.src = 11 → lr = laneAt i.a l ∧ hr.toNat = (laneAt i.b l).toNat % 256) ∧
    (i.op = 0x60 → i.t = 11 → i.src = 0 → IsRne fmt40 (exactOf fmt32 (laneAt i.a l).toNat) (lr.toNat + 2 ^ 32 * hr.toNat)) ∧
    (i.op = 0x60 → i.t = 0 → i.src = 11 →
      IsRne fmt32 (exactOf fmt40 ((laneAt i.a l).toNat + 2 ^ 32 * ((laneAt i.b l).toNat % 256))) lr.toNat) ∧
    (i.op = 0x61 → (∀ v, i.fb = .imm v → v.toNat < 64 → lr = la v.toNat) ∧ (∀ n, i.fb = .xreg n → lr = la x5)) ∧
    (i.op = 0x62 → lr = la ((laneAt (operandLanes 3 i.fb i.b i.mtop) l).toNat % 64)) ∧
    (i.op = 0x63 →
      (∀ v, i.fb = .imm v → -63 ≤ v.toInt → v.toInt ≤ 63 → lr = la (((l : Int) + v.toInt) % 64).toNat) ∧
      (∀ n, i.fb = .xreg n → lr = la ((l + x5) % 64))) ∧
    (i.op = 0x69 → (∀ q, q < 64 → i.mtop.getLsbD q = true → below q = l → lr = la q) ∧ (below 64 ≤ l → lr = lb)) ∧
    (i.t = 0 ∨ i.t = 10 → ∃ op : Nat → Nat → Nat, (∀ x y, IsRne fmt32 ((exactOf fmt32 x).plus (exactOf fmt32 y)) (op x y)) ∧
      (i.op = 0x64 → lr.toNat = pairTree op 6 (seen 0x80000000)) ∧ (i.op = 0x68 → lr.toNat = scanTree op 6 0 (seen 0x80000000) l)) ∧
    (i.t = 3 ∨ i.t = 4 →
      (i.op = 0x64 → lr.toNat = pairTree (fun x y => (x + y) % 2 ^ 32) 6 (seen 0)) ∧
      (i.op = 0x68 → lr.toNat = scanTree (fun x y => (x + y) % 2 ^ 32) 6 0 (seen 0) l)) ∧
    (i.op = 0x65 → i.t = 0 ∨ i.t = 10 ∨ i.t = 3 ∨ i.t = 4 →
      lr.toNat = pairTree (maxElem i.t 32) 6 (seen (if i.t = 3 then 0x80000000 else if i.t = 4 then 0 else 0xFF800000)))) ∧
  (∀ (am : BitVec 32) (t : Nat) (en : BitVec 64) (ls : List Lane), floatType t = true → codeNeg fmt32 am.toNat = false →
    let f := fmtOf t
    let w : Nat := 32 / perLane t
    let given (x : Nat) : Prop := ∃ l k, l < 64 ∧ en.getLsbD l = true ∧ k < perLane t ∧ x = (laneAt ls l).toNat / 2 ^ (k * w) % 2 ^ w
    let size (x : Nat) : Rat := if codeInf f x then twoTo 128 else (codeVal f x).abs
    let m := (amaxWith am (amaxElems t en ls)).toNat
    (codeNan fmt32 am.toNat = true ∨ (∃ x, given x ∧ codeNan f x = true) → codeNan fmt32 m = true) ∧
    (codeNan fmt32 am.toNat = false → (∀ x, given x → codeNan f x = false) →
      codeNan fmt32 m = false ∧ codeNeg fmt32 m = false ∧ codeVal fmt32 am.toNat ≤ codeVal fmt32 m ∧ (∀ x, given x → size x ≤ codeVal fmt32 m) ∧
        (m = am.toNat ∨ ∃ x, given x ∧ size x = codeVal fmt32 m)))

/-- R135, R40, R41, R25: both forms of a function pair give the results of R41 for the inputs listed there, and the canonical NaN for a NaN;
VRCP.R and VRSQ.R are the function rounded once by RNE, VRCP.F lies within 1 ulp of 1/a where that is below 2^128, and VRSQ.F within 2 ulp
of 1/√a; no form gives another NaN than the canonical one. (Of the other functions the values between the inputs of R41 are not stated.) -/
def Obligations.FunctionValues : Prop :=
  ∀ (i : VIn) (l : Nat), l < 64 → i.t = 0 ∨ i.t = 10 → 0x50 ≤ i.op → i.op ≤ 0x5F →
    let f := fmt32
    let a := (laneAt (operandLanes i.t i.fa i.a i.mtop) l).toNat
    let r := (laneAt (vcompute i).lo l).toNat
    let fn := (i.op - 0x50) / 2
    let v := codeVal f a
    let neg := codeNeg f a
    let num := codeNan f a = false ∧ codeInf f a = false
    let one : Nat := 0x3F800000
    let holds (x : Rat) : Prop := codeNan f r = false ∧ codeInf f r = false ∧ codeVal f r = x
    (codeNan f r = true → r = canonNan f) ∧ (codeNan f a = true → r = canonNan f) ∧
    (fn = 0 → (codeInf f a = true → r = if neg then 0 else infCode f false) ∧
      (∀ n : Int, num → v = n → -149 ≤ n → n ≤ 127 → holds (twoTo n))) ∧
    (fn = 1 → (num → v = 0 → r = infCode f true) ∧ (codeNan f a = false → v < 0 → r = canonNan f) ∧
      (codeInf f a = true → neg = false → r = infCode f false) ∧ (∀ n : Int, num → v = twoTo n → holds n)) ∧
    (fn = 2 → (num → v = 0 → r = infCode f neg) ∧ (codeInf f a = true → r = if neg then 0x80000000 else 0) ∧
      (num → v ≠ 0 → i.op = 0x55 → IsRne f ((Exact.num 1 false).over (.num v neg)) r) ∧
      (∀ n : Int, num → v ≠ 0 → i.op = 0x54 → n < 128 → twoTo n ≤ (1 / v).abs → (1 / v).abs < twoTo (n + 1) →
        codeNan f r = false ∧ (codeVal f r - 1 / v).abs ≤ twoTo (max n (-126) - 23))) ∧
    (fn = 3 → (num → v = 0 → r = infCode f neg) ∧ (codeNan f a = false → v < 0 → r = canonNan f) ∧
      (codeInf f a = true → neg = false → r = 0) ∧
      (num → 0 < v → i.op = 0x57 → codeNeg f r = false ∧ Nearest f (fun h => if h ≤ 0 then .gt else cmpRat 4 (v * (h * h))) r) ∧
      (∀ n : Int, num → 0 < v → i.op = 0x56 → twoTo (2 * n) ≤ 1 / v → 1 / v < twoTo (2 * n + 2) →
        let lo := codeVal f r - 2 * twoTo (n - 23)
        let hi := codeVal f r + 2 * twoTo (n - 23)
        codeNan f r = false ∧ 0 ≤ lo ∧ lo * lo ≤ 1 / v ∧ 1 / v ≤ hi * hi)) ∧
    (fn = 4 → (codeInf f a = true → r = canonNan f) ∧ (∀ n : Int, num → v = n → r = if neg then 0x80000000 else 0)) ∧
    (fn = 5 → (codeInf f a = true → r = canonNan f) ∧ (∀ n : Int, num → 2 * v = 2 * n + 1 → r = 0) ∧
      (∀ n : Int, num → v = n → r = if n % 2 = 0 then one else 2 ^ 31 + one)) ∧
    (fn = 6 → (num → v = 0 → r = a) ∧ (codeInf f a = true → r = if neg then 2 ^ 31 + one else one)) ∧
    (fn = 7 → (num → v = 0 → r = 0x3F000000) ∧ (codeInf f a = true → r = if neg then 0 else one))

/-- R151 with R134: an x-register word writes its x register with the value of its rule on x registers and a sign-extended
immediate, and control goes on as after every word; a false predicate leaves only the issue. -/
def Obligations.XWordsComplete : Prop :=
  ∀ (i : Instr) (f : VWord) (g : Word → Word → Word) (n : BitVec 4) (s : State), xRow i = some (f, g) → f.d = .xreg n → VecReady f s →
    (predOn f s = true → exec i s = .next (vAdvance f
      (putX n (g (xOf f.x f.a s) (xOrImm f.x f.b s)) s))) ∧
    (predOn f s = false → exec i s = .next (vAdvance f s))

/-- R145 to R150, R152, R251 to R255, R262: every control word of the vector stream, every access to a special register and every
word of the mask stack completes with the state that its rule gives, in a state in which it neither waits nor traps. Two clauses are the
model's choice: VHALT leaves the program counter at its word while the stream halts (log 66), and a close in a redundant pair takes the
other member's values as free values (log 120). -/
def Obligations.VectorControlCompletes : Prop :=
  ∀ (i : Instr) (f : VWord) (s t : State), vecRow i s = some (f, t) → VecReady f s → predOn f s = true → exec i s = .next t

/-- R143, R145, R151, R214: every word that takes a lane condition, one lane of a tile, an amax register or a port's block completes
with the state that its rule gives. Two clauses are the model's choice: the floor of an early read of an amax register (log 122), and the
place of its value in the captured operands (log 133). -/
def Obligations.PickWordsComplete : Prop :=
  ∀ (i : Instr) (f : VWord) (s t : State), pickRow i s = some (f, t) → PickReady f s → exec i s = .next t

/-- R153 to R158, R301, R336, R337, R350: every load and store of the vector stream, local, indexed or global, and every custom
opcode completes with the state that its rule gives, when its enabled lanes are translated and nothing holds it. Two clauses are the model's
choice: the byte count of a global repeat before it (log 107), and a repeat whose lane 0 is disabled (log 114). -/
def Obligations.VectorMemoryCompletes : Prop :=
  ∀ (i : Instr) (f : VWord) (s t : State), memoryRow i s = some (f, t) →
    MemoryReady (match i with | .vgath _ => true | .vscat _ => true | _ => false) f s → exec i s = .next t

/-- R146, R148, R149, R255, R263: MPUSH at mask depth 16 and the push that MSET #1 implies there (R145), MINV, MPOP and MAND at depth 0,
VCALL at depth 8, VRET at depth 0, VLEXIT outside every loop and VSEG that opens an open segment are illegal instructions: the stream
stops at the word with the code of an illegal instruction, and the stacks are left unchanged. The model's choice: TVAL holds the low 64 bits
of the word (log 43), and of what is in flight only that lands which a running invocation still reads (log 117) or the owed cycles of a
waited fetch make due (log 124). -/
def Obligations.VectorIllegalTraps : Prop :=
  ∀ (i : Instr) (f : VWord) (s : State), VecReady f s → predOn f s = true →
    (match i with
     | .mpush g => g = f ∧ 16 ≤ s.vec.mask.length
     | .mand g => g = f ∧ s.vec.mask = []
     | .mset g => g = f ∧ immNat f.b = 1 ∧ 16 ≤ s.vec.mask.length
     | .minv g => g = f ∧ s.vec.mask = []
     | .mpop g => g = f ∧ s.vec.mask = []
     | .vcall g => g = f ∧ 8 ≤ s.vec.ret.length
     | .vret g => g = f ∧ s.vec.ret = []
     | .vlexitD g => g = f ∧ s.vec.loops = []
     | .vlexitI g => g = f ∧ s.vec.loops = []
     | .vsegOpen g => g = f ∧ s.vec.seg.opened = true
     | _ => False) →
    let u := landForUnit (payOwed s.vec.inreg s)
    ∃ t, exec i s = .next t ∧
      t.vec.trap = some { eng := 4, code := 0x01, info := 0, tpc := s.vec.pc, tval := BitVec.ofNat 64 (s.word % 2 ^ 64), keep := false } ∧
      t.vec.pc = s.vec.pc ∧ t.vec.mask = s.vec.mask ∧ t.vec.ret = s.vec.ret ∧ t.vec.loops = s.vec.loops ∧ t.vec.tile = u.vec.tile ∧
      t.vec.x = u.vec.x ∧ t.cl = s.cl ∧ t.cell = u.cell ∧ t.dev = u.dev ∧ t.mat = s.mat ∧
      (s.vec.owed = 0 → s.vec.cu.running = false → t.vec.tile = s.vec.tile ∧ t.vec.x = s.vec.x ∧ t.cell = s.cell ∧ t.dev = s.dev)

/-! ### Matrix words -/

/-- R182, R183, R225, R231, R236, R262: every control word of the matrix stream completes with the state that its rule gives, in a state in
which it neither waits nor faults. -/
def Obligations.MatrixControlCompletes : Prop :=
  ∀ (i : Instr) (s t : State), matRow i s = some t → s.mat.work = none → exec i s = .next t

/-- R167, R168, R170, R185, R202: every word with work whose checks pass issues: the next word's address is taken, the word's work is
under way with the registers, the entries and the formats that it reads at issue, or, for MNSET, is done, and the accumulators, the
planes, the scales, memory and all other engines are as they were (that a word's work is done in pieces is the model's, log 74). -/
def Obligations.MatrixWorkStarts : Prop :=
  ∀ (i : Instr) (op : Nat) (f : MWord) (s : State), workRow i = some (op, f) → MatFree s → WorkPasses op f s →
    ∃ t, exec i s = .next t ∧ t.mat.pc = s.mat.pc + 24 ∧ t.cell.frozen = none ∧ t.mat.work = begunWork op f s ∧
      MatQuiet s { t with mat := { t.mat with unfinished := s.mat.unfinished } } ∧
      t.mat.unfinished = s.mat.unfinished ++ (if op = 0x16 then [(op, [])] else []) ∧
      t.mat.template = (if op = 0x13 then some f else s.mat.template) ∧ t.mat.stat = .issuing

/-- R161, R170, R173, R185: MLOADW with a count above 191, MOUTER on a ring that is not configured, and MDRAIN to an address that is
not one of the scratchpad freeze the cell with MATFMT; the word stands at the matrix PC and its work is dropped. -/
def Obligations.MatrixFaultFreezes : Prop :=
  ∀ (i : Instr) (f : MWord) (s : State), MatFree s →
    ((i = .mloadw f ∧ 191 < f.cnt.toNat) ∨
      (i = .mouter f ∧ (vget s.cell.rings f.ra.toNat Ring.zero).cfg = false) ∨ (i = .mdrain f ∧ f.aux.getLsbD 31 = false ∧ nb f.aux.toNat 17 14 ≠ 0)) →
    ∃ t z, exec i s = .next t ∧ t.cell.frozen = some z ∧ z.code = 0x12 ∧ z.eng = 5 ∧ t.mat.pc = s.mat.pc ∧ t.mat.work = none ∧
      t.mat.acc = s.mat.acc ∧ t.mat.active = s.mat.active ∧ t.mat.shadow = s.mat.shadow ∧ t.mat.seg = s.mat.seg

/-- R174, R177, R178, R245: MZERO clears its accumulator rows and their marks, MSWAP exchanges the planes, MSCLD loads its entries for all 192 columns, each
with the first piece of its work, and MNSET installs a table, as its bytes stand, as the shadow of its nest at once; each leaves every other accumulator, plane
and scale, and memory as they were. -/
def Obligations.MatrixTableWordsComplete : Prop :=
  ∀ (f : MWord) (s : State), MatFree s →
    (swf 0 0 s.mat.acc = true →
      ∃ t u, exec (.mzero f) s = .next t ∧ Works 1 t u ∧ u.mat.work = none ∧
        (∀ r c, r < 1024 → c < 192 →
          sget 0 u.mat.acc (192 * r + c) =
            (if (r + 1024 - f.acc.toNat) % 1024 ≤ f.cnt.toNat then 0 else sget 0 s.mat.acc (192 * r + c))) ∧
        (s.mat.accP.Pairwise (· < ·) → ∀ r c, r < 1024 → c < 192 →
          inSet u.mat.accP (192 * r + c) =
            (!decide ((r + 1024 - f.acc.toNat) % 1024 ≤ f.cnt.toNat) && inSet s.mat.accP (192 * r + c))) ∧
        u.mat.active = s.mat.active ∧ u.mat.shadow = s.mat.shadow ∧ u.mat.scale = s.mat.scale ∧ u.dev = s.dev ∧ u.vec = s.vec) ∧
    (∃ t u, exec (.mswap f) s = .next t ∧ Works 1 t u ∧ u.mat.active = s.mat.shadow ∧ u.mat.shadow = s.mat.active ∧
      u.mat.acc = s.mat.acc ∧ u.mat.scale = s.mat.scale ∧ u.mat.work = none ∧ u.dev = s.dev ∧ u.vec = s.vec) ∧
    (∀ a, auxAt f.aux = .addr a → f.sco.toNat + f.cnt.toNat ≤ 255 → regionFault s .read a (384 * (f.cnt.toNat + 1)) = none →
      regionPlain s a (384 * (f.cnt.toNat + 1)) = true → swf 0 0 s.mat.scale = true →
      ∃ t u, exec (.mscld f) s = .next t ∧ Works 1 t u ∧ u.mat.work = none ∧
        (∀ j e, j < 192 → e < 256 →
          sget 0 u.mat.scale (256 * j + e) =
            (if f.sco.toNat ≤ e ∧ e ≤ f.sco.toNat + f.cnt.toNat then
              BitVec.ofNat 16 (leNat (cellBytes 5 s (locSpad ownPos a + 384 * (e - f.sco.toNat) + 2 * j) 2))
            else sget 0 s.mat.scale (256 * j + e))) ∧
        u.mat.acc = s.mat.acc ∧ u.mat.active = s.mat.active ∧ u.mat.shadow = s.mat.shadow ∧ u.dev = s.dev ∧ u.vec = s.vec) ∧
    (∀ a, auxAt f.aux = .addr a → regionFault s .read a 128 = none →
      nestBad (BitVec.ofNat 1024 (leNat (cellBytes 5 s (locSpad ownPos a) 128))) = false →
      ∃ u, exec (.mnset f) s = .next u ∧ u.mat.work = none ∧
        vget u.mat.nestS f.nst.toNat 0 = BitVec.ofNat 1024 (leNat (cellBytes 5 s (locSpad ownPos a) 128)) ∧
        u.mat.nestP.getLsbD f.nst.toNat = true ∧ u.mat.nestA = s.mat.nestA ∧
        (∀ k, k ≠ f.nst.toNat → vget u.mat.nestS k 0 = vget s.mat.nestS k 0 ∧ u.mat.nestP.getLsbD k = s.mat.nestP.getLsbD k) ∧
        MatQuiet s { u with mat := { u.mat with unfinished := s.mat.unfinished } })

/-- R171, R172: MLOADW from the scratchpad reads one source row with each piece of its work, and then sets the plane that it names to the
rows' elements, perturbed and rounded into the class of the array; the other plane, the accumulators and memory are unchanged. -/
def Obligations.MatrixLoadCompletes : Prop :=
  ∀ (f : MWord) (s : State) (a : Nat) (fm : RowFmt), MatFree s → auxAt f.aux = .addr a → WorkPasses 0x10 f s →
    loadFmt s (workOf 0x10 f s) a = .ok fm →
    let row (r : Nat) := readRow s (a + fm.pitch false * r) (((f.sco.toNat + 1) * fm.bits + 7) / 8)
    let w : MWork := { workOf 0x10 f s with aRows := (List.range (f.cnt.toNat + 1)).map row }
    ∃ t u, exec (.mloadw f) s = .next t ∧ Works (f.cnt.toNat + 2) t u ∧ u.mat.work = none ∧
      (if f.flg.getLsbD 1 then u.mat.shadow = loadPlane fm w ∧ u.mat.active = s.mat.active
        else u.mat.active = loadPlane fm w ∧ u.mat.shadow = s.mat.shadow) ∧
      u.mat.acc = s.mat.acc ∧ u.mat.scale = s.mat.scale ∧ u.dev = s.dev ∧ u.vec = s.vec ∧ u.cl = s.cl

/-- R164, R165, R175: MSTEP ROW and COL without a drain on end read one row of the ring with each piece of their work, and leave in each
element of an accumulator row the sum of the products of the row with the weights, with the prior value when they accumulate; every
other accumulator row, both planes, the scales and memory are unchanged, and the word is done with one piece more. -/
def Obligations.MatrixStepCompletes : Prop :=
  ∀ (i : Instr) (f : MWord) (s : State) (fm : RowFmt), i = .mstepRow f ∨ i = .mstepCol f → MatFree s → WorkPasses 0x11 f s →
    f.rb.toNat / 4 ≤ 1 → f.flg.getLsbD 2 = false → swf 0 0 s.mat.acc = true →
    let w := workOf 0x11 f s
    let m := f.ra.toNat
    let g := ringOf s m
    let p := fm.pitch true
    ringFmt s m f.fda w.fdA = .ok fm → 0 < g.count → f.cnt.toNat ≤ 191 → vget s.mat.rd m 0 + (f.cnt.toNat + 1) * p < g.size →
    let row (r : Nat) := decodeRow fm true (readRow s (ringHead s m p r) (fm.bytes true))
    ∃ t u, exec i s = .next t ∧ Works (f.cnt.toNat + 2) t u ∧ u.mat.work = none ∧
      (∀ r c, r < 1024 → c < 192 →
        let k := (r + 1024 - f.acc.toNat) % 1024
        sget 0 u.mat.acc (192 * r + c) =
          if k ≤ f.cnt.toNat then
            BitVec.ofNat 40 (rowElem s w (stepArgs s w) (planeOf s f) (row k) k c).1
          else sget 0 s.mat.acc (192 * r + c)) ∧
      vget u.mat.rd m 0 = vget s.mat.rd m 0 + (f.cnt.toNat + 1) * p ∧ u.mat.active = s.mat.active ∧ u.mat.shadow = s.mat.shadow ∧
      u.mat.scale = s.mat.scale ∧ u.dev = s.dev ∧ u.vec = s.vec ∧ u.cl = s.cl ∧ u.cell = s.cell

/-- R163, R165, R167, R176: MOUTER and MSTEP OUTER read one row of ring A with a piece of their work, and then one row of the second
ring, in the formats that were found at its start (R161); the rings give their tiles back as their last rows are read. When the rows are read, the last piece adds, for all 192 by 192
elements, the products of the two operands' elements over the pairs of rows, with the prior value when it accumulates, and the word is
done. -/
def Obligations.MatrixOuterRuns : Prop :=
  ∀ (s : State) (w : MWork), s.mat.work = some w → w.begun = true → w.popping = false → w.drain = false →
    (w.op = 0x12 ∨ (w.op = 0x11 ∧ w.f.rb.toNat / 4 = 2)) → secondRing w ≠ w.f.ra.toNat →
    let fa := w.fmtA
    let fb := w.fmtB
    let m := w.f.ra.toNat
    let m2 := secondRing w
    let pairs := (w.aRows.zip w.bRows).map (fun p => (decodeRow fa true p.1, decodeRow fb true p.2))
    (w.row ≤ w.f.cnt.toNat → w.aRows.length ≤ w.row → 0 < (ringOf s m).count →
      ∃ t, exec .matrixWordStart s = .next t ∧
        t.mat.work = some { w with aRows := w.aRows ++ [readRow s (ringHead s m (fa.pitch true) 0) (fa.bytes true)] } ∧
        t.mat.acc = s.mat.acc ∧ t.mat.active = s.mat.active ∧ t.mat.shadow = s.mat.shadow ∧ t.dev.mem = s.dev.mem) ∧
    (w.row ≤ w.f.cnt.toNat → w.row < w.aRows.length → 0 < (ringOf s m2).count →
      ∃ t, exec .matrixWordStart s = .next t ∧
        t.mat.work = some { w with bRows := w.bRows ++ [readRow s (ringHead s m2 (fb.pitch true) 0) (fb.bytes true)], row := w.row + 1 } ∧
        t.mat.acc = s.mat.acc ∧ t.mat.active = s.mat.active ∧ t.mat.shadow = s.mat.shadow ∧ t.dev.mem = s.dev.mem) ∧
    (w.f.cnt.toNat < w.row → w.f.flg.getLsbD 2 = false → swf 0 0 s.mat.acc = true →
      ∃ t, exec .matrixWordStart s = .next t ∧ t.mat.work = none ∧
        (∀ r c, r < 1024 → c < 192 →
          let i := (r + 1024 - w.f.acc.toNat) % 1024
          sget 0 t.mat.acc (192 * r + c) =
            if i < 192 then
              BitVec.ofNat 40 (arrayAdd (pairs.map (fun p => ((p.1[i]?).getD (.fin false 0 0, false)).1.mul ((p.2[c]?).getD (.fin false 0 0, false)).1))
                (priorOf s w.f (w.f.acc.toNat + i) c).1)
            else sget 0 s.mat.acc (192 * r + c)) ∧
        t.mat.active = s.mat.active ∧ t.mat.shadow = s.mat.shadow ∧ t.mat.scale = s.mat.scale ∧ t.dev = s.dev ∧ t.vec = s.vec ∧
        t.cl = s.cl ∧ t.cell = s.cell)

/-- R179, R180, R181: a drain writes one accumulator row with each piece of its work: the row's encoded values stand at its address, every
other byte of memory and every accumulator are unchanged; with its last row written, the word is done. -/
def Obligations.MatrixDrainWrites : Prop :=
  ∀ (s : State) (w : MWork) (a0 : Nat), s.mat.work = some w → w.begun = true → w.popping = false → w.drain = false →
    w.op = 0x13 → auxAt w.f.aux = .addr a0 → a0 < 2 ^ 23 → memWf s.dev.mem = true →
    let fm := pageFmt w.pageD w.fdD w.f.fda.toNat
    let a := a0 + fm.pitch false * w.row
    let r := (w.f.acc.toNat + w.row) % 1024
    let bs := (drainRow fm w.key7 a ((List.range 192).map (fun c => (drainVal s w.f w.nDiv r c, inSet s.mat.accP (192 * r + c))))).1
    (w.row ≤ w.f.cnt.toNat → matBlocked s a (fm.bytes false) = false →
      ∃ t, exec .matrixWordStart s = .next t ∧ t.mat.work = some { w with row := w.row + 1 } ∧
        (∀ k b, bs[k]? = some b → memGet t.dev.mem (locSpad ownPos a + k) = b) ∧
        (∀ l, l < locSpad ownPos a ∨ locSpad ownPos a + bs.length ≤ l → memGet t.dev.mem l = memGet s.dev.mem l) ∧
        t.mat.acc = s.mat.acc ∧ t.mat.active = s.mat.active ∧ t.mat.shadow = s.mat.shadow ∧ t.cl = s.cl ∧ t.cell = s.cell) ∧
    (w.f.cnt.toNat < w.row →
      ∃ t, exec .matrixWordStart s = .next t ∧ t.mat.work = none ∧ t.mat.acc = s.mat.acc ∧ t.dev = s.dev ∧
        t.mat.unfinished = s.mat.unfinished ++ [(w.op, [])])

/-- R270, R272, R273, R277: MNORM computes the norm state of its two operands, MALIAS builds the alias table of a valid norm state and the scales by the
rounds of R272, and MSTAT writes its 64 bytes: each with the first piece of its work; accumulators, planes and scales are unchanged. -/
def Obligations.SamplerWordsComplete : Prop :=
  ∀ (f : MWord) (s : State), MatFree s →
    (∀ k fa fb, f.aux.toNat / 2 ^ 17 % 2 ^ 15 = 0 → f.tor.toNat / 2 ^ 17 % 2 ^ 15 = 0 → normK s f = .ok k →
      normFmt s (64 * (f.aux.toNat % 2 ^ 17)) k f.fda (vget s.cell.fd f.fda.toNat 0) = .ok fa →
      normFmt s (64 * (f.tor.toNat % 2 ^ 17)) k f.fdb (vget s.cell.fd f.fdb.toNat 0) = .ok fb →
      let row (fm : RowFmt) (base i : Nat) := decodeRow fm false (readRow s (base + fm.pitch false * i) (fm.bytes false))
      let es := (List.range k).map (fun i => normEntry (row fa (64 * (f.aux.toNat % 2 ^ 17)) i) (row fb (64 * (f.tor.toNat % 2 ^ 17)) i))
      ∃ t u, exec (.mnorm f) s = .next t ∧ Works 1 t u ∧ u.mat.work = none ∧ u.mat.sam.k = k ∧ u.mat.sam.nv = true ∧ u.mat.sam.tv = false ∧
        u.mat.sam.total = BitVec.ofNat 32 (es.foldl (fun a e => toF32 ((f32 a).add (f32 e.1))) 0) ∧
        (swf 0 0 s.mat.sam.n = true → ∀ i, i < k → sget 0 u.mat.sam.n i = BitVec.ofNat 32 ((es[i]?).getD (0, 0, 0, false)).1) ∧
        MatQuiet s { u with mat := { u.mat with unfinished := s.mat.unfinished } }) ∧
    (s.mat.sam.nv = true →
      ∃ t u, exec (.malias f) s = .next t ∧ Works 1 t u ∧ u.mat.work = none ∧ u.mat.sam.tv = true ∧
        (normCode s.mat.sam ≠ 2 → u.mat.sam = { s.mat.sam with tv := true }) ∧
        (normCode s.mat.sam = 2 → swf 0 0 s.mat.sam.al = true → swf 0 0 s.mat.sam.sc = true → s.mat.sam.k ≤ 4096 →
          codeNeg fmt32 s.mat.sam.total.toNat = false → (∀ k, k < s.mat.sam.k → codeNeg fmt32 (sget 0 s.mat.sam.n k).toNat = false) →
          AliasBuilt s.mat.sam.k (fun k => (sget 0 s.mat.sam.n k).toNat) s.mat.sam.total.toNat
            (fun k => ((sget 0 u.mat.sam.al k).toNat % 65536, (sget 0 u.mat.sam.al k).toNat / 65536)) (fun k => (sget 0 u.mat.sam.sc k).toNat) ∧
          (u.mat.sam.tp = true ↔ ∃ k, k < s.mat.sam.k ∧ inSet s.mat.sam.marks k = true) ∧
          (∀ k, s.mat.sam.k ≤ k → sget 0 u.mat.sam.al k = sget 0 s.mat.sam.al k ∧ sget 0 u.mat.sam.sc k = sget 0 s.mat.sam.sc k) ∧
          { u.mat.sam with al := s.mat.sam.al, sc := s.mat.sam.sc, tv := s.mat.sam.tv, tp := s.mat.sam.tp } = s.mat.sam) ∧
        MatQuiet s { u with mat := { u.mat with unfinished := s.mat.unfinished } }) ∧
    (∀ a, auxAt f.aux = .addr a → regionFault s .write a 64 = none → matBlocked s a 64 = false → memWf s.dev.mem = true →
      ∃ t u, exec (.mstat f) s = .next t ∧ Works 1 t u ∧ u.mat.work = none ∧
        (∀ k, k < 64 → memGet u.dev.mem (locSpad ownPos a + k) = (statBytes s)[k]?.getD 0) ∧
        (∀ l, l < locSpad ownPos a ∨ locSpad ownPos a + 64 ≤ l → memGet u.dev.mem l = memGet s.dev.mem l) ∧
        u.mat.acc = s.mat.acc ∧ u.mat.sam = s.mat.sam ∧ u.vec = s.vec ∧ u.cl = s.cl)

/-- R274, R275: a piece of a sampling word takes two draws, names an index by the alias table, and moves the sample registers; the sampling
word ends with the code of its distribution when the norms make none. -/
def Obligations.SamplesDraw : Prop :=
  ∀ (s : State) (w : MWork), s.mat.work = some w → w.begun = true → w.popping = false → w.drain = false → w.op = 0x1A →
    let m := s.mat.sam
    (∀ d1 d2 s1, normCode m = 2 → w.row ≤ w.f.cnt.toNat → drawPair w (stepArgs s w) s = some (d1, d2, s1) →
      let j := d1 * m.k / 2 ^ 32
      let e := (sget 0 m.al j).toNat
      let k := if d2 / 65536 < e % 65536 ∨ e % 65536 = 0xFFFF then j else e / 65536 % 4096
      (sampUpdate m k w.f.aux s1.cell).1 = none →
      ∃ t, exec .matrixWordStart s = .next t ∧ t.cell = (sampUpdate m k w.f.aux s1.cell).2 ∧ t.cell.lastK = BitVec.ofNat 12 k ∧
        t.mat.sam = { s1.mat.sam with last := some k, draws := m.draws + 1, taken := m.taken + 1 } ∧
        t.mat.work.map (·.row) = some (w.row + 1) ∧ t.mat.acc = s.mat.acc ∧ t.dev.mem = s.dev.mem) ∧
    (normCode m ≠ 2 → w.f.flg.getLsbD 2 = false →
      ∃ t, exec .matrixWordStart s = .next t ∧ t.cell = { s.cell with sampCode := BitVec.ofNat 3 (normCode m) } ∧ t.mat.work = none ∧
        t.mat.active = s.mat.active ∧ t.mat.shadow = s.mat.shadow ∧ t.dev = s.dev)

/-- R244, R246: with its step done, a nest pops the tiles that the levels at their last index name, one by one, and then starts the step of the next
indices, or is done after the last. -/
def Obligations.NestAdvances : Prop :=
  ∀ (s : State) (w : MWork), s.mat.work = some w → w.begun = true → w.popping = true →
    (w.pops ≠ 0 → (ringOf s w.f.ra.toNat).count ≠ 0 →
      ∃ t, exec .matrixWordStart s = .next t ∧ t.mat.work = some { w with pops := w.pops - 1 } ∧
        (ringOf t w.f.ra.toNat).count = (ringOf s w.f.ra.toNat).count - 1) ∧
    (∀ idx, w.pops = 0 → nestNext (nestOf s w) w.idx = some idx →
      ∃ t, exec .matrixWordStart s = .next t ∧ t.mat.work = some { w with idx, popping := false, begun := false } ∧
        t.cell = s.cell ∧ t.dev = s.dev) ∧
    (w.pops = 0 → (∀ k, k < 6 → ¬(w.idx[k]?.getD 0 < nestField (nestOf s w) k 0 16)) →
      ∃ t, exec .matrixWordStart s = .next t ∧ t.mat.work = none ∧ t.cell = s.cell ∧ t.dev = s.dev)

/-! ### Micro-ops -/

/-- R330, R331, R332, R333, R338: every computing micro-op whose sources are ready completes: it computes what its counterpart computes on the
sources read, its result is on its way to UDST with the latency of the counterpart, its read ports are popped, and the next micro-op
follows; with an empty micro-mask top only the count and the counter move. The control micro-ops act whatever the mask, each at once:
ULOOP pushes a loop or passes its body, ULEND goes back or pops, USKIP skips, UMPUSH, UMPOP and UMINV change the micro-mask stack; nothing
but the unit changes. -/
def Obligations.MicroOpsComplete : Prop :=
  (∀ (i : Instr) (code op n : Nat) (f : UWord) (s : State), uopRow i = some (code, op, n, f) → UopReady s →
    let ns := [f.s1.toNat, f.s2.toNat, f.s3.toNat].take n
    let c := s.vec.cu
    (8 ∈ ns → portOf c.f.d = []) →
    (c.top = 0 → exec i s = .next { s with vec := { s.vec with cu := c.after f (c.upc + 1) } }) ∧
    (c.top ≠ 0 → SourcesReady ns s →
      (f.dst = 8 → portOf c.f.d ≠ [] →
        (∀ k ∈ portOf c.f.d, pushAns k s = .ok) ∧
          (uopFlight code op n f s).pois &&& (uopFlight code op n f s).en = 0) →
      ∃ t, exec i s = .next t ∧ t.vec.cu = { c with flights := c.flights ++ [uopFlight code op n f s] }.after f (c.upc + 1) ∧
        t.vec.ports = (popPorts (uPorts ns c) s).vec.ports ∧
        { t with vec := { t.vec with cu := c, ports := s.vec.ports } } = s)) ∧
  (∀ (i : Instr) (s : State), UopReady s →
    (∀ t, uopControl i s = some t → exec i s = .next t) ∧
    (∀ f, i = .umpush f → s.vec.cu.masks.length < 4 → SourcesReady [f.s1.toNat] s →
      let c := s.vec.cu
      ∃ t m, exec i s = .next t ∧ t.vec.cu = { c with masks := c.masks ++ [m] }.after f (c.upc + 1) ∧
        (∀ l, l < 64 → m.getLsbD l = (c.top.getLsbD l && decide (laneAt (uSource 0 f.s1.toNat s).lanes l ≠ 0))) ∧
        { t with vec := { t.vec with cu := c, ports := s.vec.ports } } = s))

/-- R332, R338: a result of the unit that lands in a temporary writes the enabled lanes of it, and a result that lands in tile D the
enabled elements; disabled lanes keep their values, and nothing else of memory or the other registers changes. -/
def Obligations.MicroResultsLand : Prop :=
  ∀ (u : UFlight) (s : State), s.vec.cu.running = true → s.vec.cu.adv = true → s.vec.cu.stopped = false → s.vec.cu.ending = false →
    s.vec.cu.flights = [u] → u.left ≤ 1 →
    ∃ t, exec .uopResultLand s = .next t ∧ t.vec.cu.flights = [] ∧ t.vec.x = s.vec.x ∧ t.cl = s.cl ∧ t.cell = s.cell ∧ t.dev = s.dev ∧
      (u.f.dst.toNat < 8 →
        (∀ l, l < 64 → laneAt (vget t.vec.cu.h u.f.dst.toNat []) l =
          if u.en.getLsbD l then laneAt u.res l else laneAt (vget s.vec.cu.h u.f.dst.toNat []) l) ∧
        (∀ k, k ≠ u.f.dst.toNat → vget t.vec.cu.h k [] = vget s.vec.cu.h k []) ∧ t.vec.tile = s.vec.tile ∧ t.vec.ports = s.vec.ports) ∧
      (u.f.dst = 8 → portOf s.vec.cu.f.d = [] → swf 0 0 s.vec.tile = true →
        (∀ l k, (operandKeys s.vec.cu.f.d 0 s.vec.cuRb 0)[l]? = some k → u.en.getLsbD l = true → sget 0 t.vec.tile k = laneAt u.res l) ∧
        (∀ k, (∀ l, (operandKeys s.vec.cu.f.d 0 s.vec.cuRb 0)[l]? = some k → u.en.getLsbD l = false) →
          sget 0 t.vec.tile k = sget 0 s.vec.tile k) ∧ t.vec.cu.h = s.vec.cu.h ∧ t.vec.ports = s.vec.ports)

/-- R333, R340, R341: UMPUSH at depth 4 and UMPOP or UMINV at depth 0 stop the invocation before the micro-op with the
illegal-instruction code, and any micro-op, a control micro-op too, after 65,536 of the invocation with WATCHDOG. -/
def Obligations.MicroTraps : Prop :=
  ∀ (i : Instr) (f : UWord) (s : State), s.vec.cu.running = true → s.vec.cu.stopped = false → s.vec.cu.ending = false →
    s.cell.frozen = none → s.vec.trap = none → s.vec.flights = [] → s.vec.cu.flights = [] →
    (s.vec.cu.count < 65536 → (i = .umpush f ∧ 4 ≤ s.vec.cu.masks.length) ∨ (i = .umpop f ∧ s.vec.cu.masks = []) ∨
        (i = .uminv f ∧ s.vec.cu.masks = []) →
      ∃ t z, exec i s = .next t ∧ t.vec.trap = some z ∧ z.eng = 10 ∧ z.code = 0x01 ∧ t.vec.cu.stopped = true ∧ t.vec.cu.upc = s.vec.cu.upc ∧
        t.vec.cu.masks = s.vec.cu.masks) ∧
    (65536 ≤ s.vec.cu.count → ((∃ c o n, uopRow i = some (c, o, n, f)) ∨
        i ∈ [.unop f, .uloop f, .ulend f, .uskip f, .umpush f, .umpop f, .uminv f]) →
      ∃ t z, exec i s = .next t ∧ t.vec.trap = some z ∧ z.eng = 10 ∧ z.code = 0x0C ∧ z.tval = 65536 ∧ t.vec.cu.stopped = true ∧
        t.vec.cu.upc = s.vec.cu.upc)

/-! ### Events -/

/-- R78, R87, R99, R107, R112, R157, R158, R225, R227 to R231, R236, R322: an event of the engines, the event board, the rendezvous and the result
paths, the landings of the vector stream's results and stores among them, where it comes about, leaves what `engineEvent` says and nothing
else of the engines it does not name. Two clauses are the model's choice: a CLUSTERGO write cuts the address to 48 bits (log 33), and the
terms of one cycle fire in rising number (log 79). -/
def Obligations.EngineEventsComplete : Prop :=
  ∀ (i : Instr) (s : State) (P : State → Prop), engineEvent i s = some P → ∃ t, exec i s = .next t ∧ P t

/-- R282 to R294, R317: walks, verdicts of the host, invalidations and the departure of a context, where they come about, leave what
`translationEvent` says. Three clauses are the model's choice: an invalidation removes the entries at its start (log 80), a walk that
completes fills the die TLB and the cell TLB (log 4), and a departure clears the context's regions and kept state (log 89). -/
def Obligations.TranslationEventsComplete : Prop :=
  ∀ (i : Instr) (s : State) (P : State → Prop), translationEvent i s = some P → ∃ t, exec i s = .next t ∧ P t

/-- R311 to R324, R19, R22: launches arrive, are bound, armed, withdrawn, stopped and retired, and quads are gated and woken; where such
an event comes about it leaves what `dispatchEvent` says. Two clauses are the model's choice: a kill ends the jobs, the collectives and the
commands of Menders as logs 49 and 15 say, and a release that waits is tried again with LCTL.GO still 1 (log 94). -/
def Obligations.DispatchEventsComplete : Prop :=
  ∀ (i : Instr) (s : State) (P : State → Prop), dispatchEvent i s = some P → ∃ t, exec i s = .next t ∧ P t

/-- R418 to R420, R20, R21, R410: starts of the device, voltage steps and accesses of the host leave what `bootEvent` says. Four clauses are the model's choice: the bits that a base register holds
(log 103), LCTL.GO (log 94), what a failed or a warm start keeps (log 96), and an access beyond BAR2 (log 99). -/
def Obligations.HostEventsComplete : Prop :=
  ∀ (i : Instr) (s : State) (P : State → Prop), bootEvent i s = some P → ∃ t, exec i s = .next t ∧ P t

/-- R157, R215 to R217, R281, R348 to R353: elements arrive at the tile registers and the ports, and packets go their way, as `portEvent`
and `fabricEvent` say. Five clauses are the model's choice: the bytes that a port's fetch takes (log 116) and where it stands in the order
of the stream (log 130), that a request on a page which a capture holds waits (log 85), the byte count that an acknowledgement brings
(log 107), and the flit that a forwarded packet has come in (log 135). -/
def Obligations.TransferEventsComplete : Prop :=
  ∀ (i : Instr) (s : State) (P : State → Prop), portEvent i s = some P ∨ fabricEvent i s = some P → ∃ t, exec i s = .next t ∧ P t

/-- R241, R242, R356 to R365, R368, R372, R375, R380, R383, R385, R388: commands of the copy engine, of the collective port and of Menders
start, go on and complete, and messages of calls and of the log are received, as `jobEvent` and `groupEvent` say. Two clauses are the
model's choice: what a message does whose call has not started or has ended here (log 56), and a chunk of Menders is performed at its homes
(log 60). -/
def Obligations.CommandEventsComplete : Prop :=
  ∀ (i : Instr) (s : State) (P : State → Prop), jobEvent i s = some P ∨ groupEvent i s = some P → ∃ t, exec i s = .next t ∧ P t

/-- R390 to R406: errors are counted and recorded in the bank of their source, poison is marked, the patrol sets its interval, and pages
are captured, as `errorEvent` says. Three clauses are the model's choice: the end of a failed page's capture (log 40), the bytes that an
uncorrectable word of an SRAM marks (log 95), and what an event of the patrol names (log 6). -/
def Obligations.ErrorEventsComplete : Prop :=
  ∀ (i : Instr) (s : State) (P : State → Prop), errorEvent i s = some P → ∃ t, exec i s = .next t ∧ P t

/-- R348, R349, R412 to R414: flits, retransmissions, link deaths, keys and the route table, as `linkEvent` says. The model's choice: class 9 of an exhausted key has address and detail 0 (log 88),
and the values of the keys, the cipher and the payload of a flit are free (log 135). -/
def Obligations.LinkEventsComplete : Prop :=
  ∀ (i : Instr) (s : State) (P : State → Prop), linkEvent i s = some P → ∃ t, exec i s = .next t ∧ P t

/-! ### Encoding -/

/-- R50, R55 to R60, R65 to R69, R329, R331: the word of every well-formed instruction of every stream, with every operand at every value
its field admits, decodes to that instruction. -/
def Obligations.DecodeEncode : Prop :=
  ∀ i : Instr, i.wf = true → i.encodable = true → decodeTableWord (encodedBits i) (encode i) = some i

/-- R69: a word has one meaning. A word of 32, 64, 96 or 192 bits that decodes to an instruction is the word of that instruction, and the
instruction is well formed; so no set bit of a word is dropped. -/
def Obligations.WordsHaveOneMeaning : Prop :=
  ∀ (n w : Nat) (i : Instr), n = 32 ∨ n = 64 ∨ n = 96 ∨ n = 192 → w < 2 ^ n → decodeTableWord n w = some i →
    encode i = w ∧ i.wf = true ∧ encodedBits i = n

/-- R50, R55, R56, R66, R329: words written out from the encodings decode to the instructions they stand for: LIMM and LIMMS to s5, an
ADD of a bundle with W = 3, an STH, VLOOP.R, VLEXIT, MZERO, and UADD with FIN. -/
def Obligations.DecodingIsRight : Prop :=
  decodeTableWord 32 0x061400E8 = some (.limm false 0 5 0xE8) ∧ decodeTableWord 32 0x0695C5E2 = some (.limms false 0 5 0x1C5E2) ∧
    decodeTableWord 32 0xE0CDA200 = some (.add true 3 19 13 2) ∧ decodeTableWord 32 0xAB5E5D41 = some (.sth true 1 23 18 7489) ∧
    decodeTableWord 96 0x0600008A0000840000A000CA = some (.vloop
      { w := 0, x := false, m := false, s := false, stg := 0, t := 0, rep := 0, d := .xreg 5, a := .xreg 2, b := .imm 0xCA }) ∧
    decodeTableWord 96 0x0700000000008E0000A00000 = some (.vlexitD
      { w := 0, x := false, m := false, s := false, stg := 0, t := 0, rep := 0, d := .tile 0 0 0 0 false 0, a := .xreg 7, b := .imm 0 }) ∧
    decodeTableWord 192 0x150000000140900000000000000000000000000000000000 = some (.mzero ⟨0, 0, 0, 0, 0, 5, 9, 0, 0, 0, 0, 0, 0, 0⟩) ∧
    decodeTableWord 64 0x410950200000000 = some (.uadd ⟨0, 8, 9, 10, 0, true, 0⟩)

/-! ### The machine -/

/-- R17, R47, R48, R53, R69: when the entry of the agenda is the turn of a cluster, the vector sequencer, the matrix sequencer or the custom
unit that stands at an issue point, and the bytes at its program counter decode to an instruction, the step runs that instruction, on the
state after the cycles that pass with the turn, for the vector sequencer also those that it has waited for the word; an event of the agenda runs as it stands (the agenda is the model's, log 8). -/
def Obligations.StepRuns : Prop :=
  ∀ (s : State) (i : Instr) (w : Nat),
    let turn := (beginTurn s).1
    let u := (beginTurn s).2
    (∀ c, turn = .cluster c → decodeTableWord 32 w = some i → fetchReeve c (clusterAt c u) = .word w → ClusterIssues c w u →
      step s = (match exec i (wordState c w (clusterAt c u)) with
        | .next t => .next (endRun t)
        | x => x)) ∧
    (turn = .vector → decodeTableWord 96 w = some i → vecWordAt (vecPass u) = some w → VectorIssues u →
      step s = settled (exec i { payOwed (tb w 84) (vecPass u) with word := w, held := false })) ∧
    (turn = .matrix → decodeTableWord 192 w = some i → matWordAt u = some w → MatrixIssues u →
      step s = settled (exec i { u with word := w, held := false })) ∧
    (turn = .custom → decodeTableWord 64 w = some i →
      sget 0 (customAt u).cell.cs (2048 * (uImage (customAt u)).1 + (customAt u).vec.cu.upc) = BitVec.ofNat 64 w → CustomIssues u →
      step s = settled (exec i (customAt u))) ∧
    (turn = .event i → isEvent i = true → step s = exec i u)

/-- R69, R410, R415: no instruction and no event is refused, and none stops the machine but a host access to an address inside BAR2 and above
the DRAM: every other one answers a next state, one beyond the size of BAR2 the state as it was (that the access stops the machine there is
the model's choice, log 99). -/
def Obligations.NothingRefused : Prop :=
  let beyond (a n size : Nat) : Prop := size ≤ a ∨ size < a + n
  (∀ (i : Instr) (s : State), (∀ w a d, i = .hostBar2Access w a d → beyond a d.length (2 ^ s.dev.bar2) ∨ ¬beyond a d.length 0xC000000000) →
      ∃ t, exec i s = .next t) ∧
    (∀ (w : Bool) (a : Nat) (d : List (BitVec 8)) (s : State), beyond a d.length (2 ^ s.dev.bar2) → exec (.hostBar2Access w a d) s = .next s) ∧
    (∀ (w : Bool) (a : Nat) (d : List (BitVec 8)) (s : State), ¬beyond a d.length (2 ^ s.dev.bar2) → beyond a d.length 0xC000000000 →
      exec (.hostBar2Access w a d) s = .fault .barHole) ∧
    (∀ s : State, (∃ t, step s = .next t) ∨ step s = .fault .barHole)

/-- R2, R312, R347, R390, R391, R393, R418, R419: what a cold start leaves: phase 8 reached, every error bank empty, every severity field
at the cold-start action of its class, the retransmission budget 8, every register of the fabric, translation and dispatch blocks 0, no
launch and no task, and the memory's list in its canonical form. That every address reads 0, host memory and what no start writes among
them, is the model's choice, log 2. -/
def Obligations.ResetLeaves : Prop :=
  let d := State.reset.dev
  (∀ c, c < 16 → ∀ src, src < 16 → nb (vget d.esev c 0).toNat (4 * src) 4 = ([2, 2, 1, 3, 2, 2, 4, 5, 5, 2, 3, 3, 3, 3, 3, 3][c]?).getD 0) ∧
    (∀ n, n < 16 → vget d.banks n Bank.zero = Bank.zero) ∧ d.fbudget = 8 ∧ d.frtBase = 0 ∧ d.fdevid = 0 ∧ d.linkUp = 0 ∧ d.tlbInv = 0 ∧
    d.pfqBase = 0 ∧ d.pfqHead = 0 ∧ d.pfqTail = 0 ∧ d.lctl = 0 ∧ d.ctxtBase = 0 ∧ d.ctxtN = 0 ∧ (∀ q, q < 64 → vget d.queues q Queue.zero = Queue.zero) ∧
    d.bootPhase = 8 ∧ d.bootReady = true ∧ d.bootFails = 0 ∧ d.bootSafe = false ∧ d.launches = [] ∧ State.reset.cell.bound = false ∧
    memWf d.mem = true ∧ (∀ a, memGet d.mem a = 0)

/-- Every step keeps the memory's canonical form: addresses strictly rising and no listed byte equal to what an unlisted address reads as
(the form is the model's; that an unlisted address reads as 0 is log 2). -/
def Obligations.MemoryStaysCanonical : Prop :=
  ∀ s t : State, memWf s.dev.mem = true → step s = .next t → memWf t.dev.mem = true
end

