-- ==== Sys2Proof/Laws/State.lean ====
section
/-! SUPPORT. What the updates of the parts of the state leave in each field: one lemma per field and update. -/

namespace Sys2Proof.Machine

open Sys2Proof

@[simp] theorem mapCell_cl (f : CellState → CellState) (s : State) : (mapCell f s).cl = s.cl := rfl
@[simp] theorem mapCell_cell (f : CellState → CellState) (s : State) : (mapCell f s).cell = f s.cell := rfl
@[simp] theorem mapCell_vec (f : CellState → CellState) (s : State) : (mapCell f s).vec = s.vec := rfl
@[simp] theorem mapCell_mat (f : CellState → CellState) (s : State) : (mapCell f s).mat = s.mat := rfl
@[simp] theorem mapCell_dev (f : CellState → CellState) (s : State) : (mapCell f s).dev = s.dev := rfl
@[simp] theorem mapCell_cur (f : CellState → CellState) (s : State) : (mapCell f s).cur = s.cur := rfl
@[simp] theorem mapCell_held (f : CellState → CellState) (s : State) : (mapCell f s).held = s.held := rfl
@[simp] theorem mapCell_trapped (f : CellState → CellState) (s : State) : (mapCell f s).trapped = s.trapped := rfl
@[simp] theorem mapCell_gSnap (f : CellState → CellState) (s : State) : (mapCell f s).gSnap = s.gSnap := rfl
@[simp] theorem mapCell_startedNow (f : CellState → CellState) (s : State) : (mapCell f s).startedNow = s.startedNow := rfl
@[simp] theorem mapCell_ran (f : CellState → CellState) (s : State) : (mapCell f s).ran = s.ran := rfl
@[simp] theorem mapCell_word (f : CellState → CellState) (s : State) : (mapCell f s).word = s.word := rfl
@[simp] theorem mapCell_now (f : CellState → CellState) (s : State) : (mapCell f s).now = s.now := rfl
@[simp] theorem mapCell_agenda (f : CellState → CellState) (s : State) : (mapCell f s).agenda = s.agenda := rfl
@[simp] theorem mapCell_freeCtr (f : CellState → CellState) (s : State) : (mapCell f s).freeCtr = s.freeCtr := rfl

@[simp] theorem mapVec_cl (f : VecState → VecState) (s : State) : (mapVec f s).cl = s.cl := rfl
@[simp] theorem mapVec_cell (f : VecState → VecState) (s : State) : (mapVec f s).cell = s.cell := rfl
@[simp] theorem mapVec_vec (f : VecState → VecState) (s : State) : (mapVec f s).vec = f s.vec := rfl
@[simp] theorem mapVec_mat (f : VecState → VecState) (s : State) : (mapVec f s).mat = s.mat := rfl
@[simp] theorem mapVec_dev (f : VecState → VecState) (s : State) : (mapVec f s).dev = s.dev := rfl
@[simp] theorem mapVec_cur (f : VecState → VecState) (s : State) : (mapVec f s).cur = s.cur := rfl
@[simp] theorem mapVec_held (f : VecState → VecState) (s : State) : (mapVec f s).held = s.held := rfl
@[simp] theorem mapVec_trapped (f : VecState → VecState) (s : State) : (mapVec f s).trapped = s.trapped := rfl
@[simp] theorem mapVec_gSnap (f : VecState → VecState) (s : State) : (mapVec f s).gSnap = s.gSnap := rfl
@[simp] theorem mapVec_startedNow (f : VecState → VecState) (s : State) : (mapVec f s).startedNow = s.startedNow := rfl
@[simp] theorem mapVec_ran (f : VecState → VecState) (s : State) : (mapVec f s).ran = s.ran := rfl
@[simp] theorem mapVec_word (f : VecState → VecState) (s : State) : (mapVec f s).word = s.word := rfl
@[simp] theorem mapVec_now (f : VecState → VecState) (s : State) : (mapVec f s).now = s.now := rfl
@[simp] theorem mapVec_agenda (f : VecState → VecState) (s : State) : (mapVec f s).agenda = s.agenda := rfl
@[simp] theorem mapVec_freeCtr (f : VecState → VecState) (s : State) : (mapVec f s).freeCtr = s.freeCtr := rfl

@[simp] theorem mapMat_cl (f : MatState → MatState) (s : State) : (mapMat f s).cl = s.cl := rfl
@[simp] theorem mapMat_cell (f : MatState → MatState) (s : State) : (mapMat f s).cell = s.cell := rfl
@[simp] theorem mapMat_vec (f : MatState → MatState) (s : State) : (mapMat f s).vec = s.vec := rfl
@[simp] theorem mapMat_mat (f : MatState → MatState) (s : State) : (mapMat f s).mat = f s.mat := rfl
@[simp] theorem mapMat_dev (f : MatState → MatState) (s : State) : (mapMat f s).dev = s.dev := rfl
@[simp] theorem mapMat_cur (f : MatState → MatState) (s : State) : (mapMat f s).cur = s.cur := rfl
@[simp] theorem mapMat_held (f : MatState → MatState) (s : State) : (mapMat f s).held = s.held := rfl
@[simp] theorem mapMat_trapped (f : MatState → MatState) (s : State) : (mapMat f s).trapped = s.trapped := rfl
@[simp] theorem mapMat_gSnap (f : MatState → MatState) (s : State) : (mapMat f s).gSnap = s.gSnap := rfl
@[simp] theorem mapMat_startedNow (f : MatState → MatState) (s : State) : (mapMat f s).startedNow = s.startedNow := rfl
@[simp] theorem mapMat_ran (f : MatState → MatState) (s : State) : (mapMat f s).ran = s.ran := rfl
@[simp] theorem mapMat_word (f : MatState → MatState) (s : State) : (mapMat f s).word = s.word := rfl
@[simp] theorem mapMat_now (f : MatState → MatState) (s : State) : (mapMat f s).now = s.now := rfl
@[simp] theorem mapMat_agenda (f : MatState → MatState) (s : State) : (mapMat f s).agenda = s.agenda := rfl
@[simp] theorem mapMat_freeCtr (f : MatState → MatState) (s : State) : (mapMat f s).freeCtr = s.freeCtr := rfl

@[simp] theorem mapDev_cl (f : DevState → DevState) (s : State) : (mapDev f s).cl = s.cl := rfl
@[simp] theorem mapDev_cell (f : DevState → DevState) (s : State) : (mapDev f s).cell = s.cell := rfl
@[simp] theorem mapDev_vec (f : DevState → DevState) (s : State) : (mapDev f s).vec = s.vec := rfl
@[simp] theorem mapDev_mat (f : DevState → DevState) (s : State) : (mapDev f s).mat = s.mat := rfl
@[simp] theorem mapDev_dev (f : DevState → DevState) (s : State) : (mapDev f s).dev = f s.dev := rfl
@[simp] theorem mapDev_cur (f : DevState → DevState) (s : State) : (mapDev f s).cur = s.cur := rfl
@[simp] theorem mapDev_held (f : DevState → DevState) (s : State) : (mapDev f s).held = s.held := rfl
@[simp] theorem mapDev_trapped (f : DevState → DevState) (s : State) : (mapDev f s).trapped = s.trapped := rfl
@[simp] theorem mapDev_gSnap (f : DevState → DevState) (s : State) : (mapDev f s).gSnap = s.gSnap := rfl
@[simp] theorem mapDev_startedNow (f : DevState → DevState) (s : State) : (mapDev f s).startedNow = s.startedNow := rfl
@[simp] theorem mapDev_ran (f : DevState → DevState) (s : State) : (mapDev f s).ran = s.ran := rfl
@[simp] theorem mapDev_word (f : DevState → DevState) (s : State) : (mapDev f s).word = s.word := rfl
@[simp] theorem mapDev_now (f : DevState → DevState) (s : State) : (mapDev f s).now = s.now := rfl
@[simp] theorem mapDev_agenda (f : DevState → DevState) (s : State) : (mapDev f s).agenda = s.agenda := rfl
@[simp] theorem mapDev_freeCtr (f : DevState → DevState) (s : State) : (mapDev f s).freeCtr = s.freeCtr := rfl

@[simp] theorem mapCu_cl (f : Custom → Custom) (s : State) : (mapCu f s).cl = s.cl := rfl
@[simp] theorem mapCu_cell (f : Custom → Custom) (s : State) : (mapCu f s).cell = s.cell := rfl
@[simp] theorem mapCu_vec (f : Custom → Custom) (s : State) : (mapCu f s).vec = { s.vec with cu := f s.vec.cu } := rfl
@[simp] theorem mapCu_mat (f : Custom → Custom) (s : State) : (mapCu f s).mat = s.mat := rfl
@[simp] theorem mapCu_dev (f : Custom → Custom) (s : State) : (mapCu f s).dev = s.dev := rfl
@[simp] theorem mapCu_cur (f : Custom → Custom) (s : State) : (mapCu f s).cur = s.cur := rfl
@[simp] theorem mapCu_held (f : Custom → Custom) (s : State) : (mapCu f s).held = s.held := rfl
@[simp] theorem mapCu_trapped (f : Custom → Custom) (s : State) : (mapCu f s).trapped = s.trapped := rfl
@[simp] theorem mapCu_gSnap (f : Custom → Custom) (s : State) : (mapCu f s).gSnap = s.gSnap := rfl
@[simp] theorem mapCu_startedNow (f : Custom → Custom) (s : State) : (mapCu f s).startedNow = s.startedNow := rfl
@[simp] theorem mapCu_ran (f : Custom → Custom) (s : State) : (mapCu f s).ran = s.ran := rfl
@[simp] theorem mapCu_word (f : Custom → Custom) (s : State) : (mapCu f s).word = s.word := rfl
@[simp] theorem mapCu_now (f : Custom → Custom) (s : State) : (mapCu f s).now = s.now := rfl
@[simp] theorem mapCu_agenda (f : Custom → Custom) (s : State) : (mapCu f s).agenda = s.agenda := rfl
@[simp] theorem mapCu_freeCtr (f : Custom → Custom) (s : State) : (mapCu f s).freeCtr = s.freeCtr := rfl

@[simp] theorem mapSluice_cl (f : Sluice → Sluice) (s : State) : (mapSluice f s).cl = s.cl := rfl
@[simp] theorem mapSluice_cell (f : Sluice → Sluice) (s : State) : (mapSluice f s).cell = { s.cell with sluice := f s.cell.sluice } := rfl
@[simp] theorem mapSluice_vec (f : Sluice → Sluice) (s : State) : (mapSluice f s).vec = s.vec := rfl
@[simp] theorem mapSluice_mat (f : Sluice → Sluice) (s : State) : (mapSluice f s).mat = s.mat := rfl
@[simp] theorem mapSluice_dev (f : Sluice → Sluice) (s : State) : (mapSluice f s).dev = s.dev := rfl
@[simp] theorem mapSluice_cur (f : Sluice → Sluice) (s : State) : (mapSluice f s).cur = s.cur := rfl
@[simp] theorem mapSluice_held (f : Sluice → Sluice) (s : State) : (mapSluice f s).held = s.held := rfl
@[simp] theorem mapSluice_trapped (f : Sluice → Sluice) (s : State) : (mapSluice f s).trapped = s.trapped := rfl
@[simp] theorem mapSluice_gSnap (f : Sluice → Sluice) (s : State) : (mapSluice f s).gSnap = s.gSnap := rfl
@[simp] theorem mapSluice_startedNow (f : Sluice → Sluice) (s : State) : (mapSluice f s).startedNow = s.startedNow := rfl
@[simp] theorem mapSluice_ran (f : Sluice → Sluice) (s : State) : (mapSluice f s).ran = s.ran := rfl
@[simp] theorem mapSluice_word (f : Sluice → Sluice) (s : State) : (mapSluice f s).word = s.word := rfl
@[simp] theorem mapSluice_now (f : Sluice → Sluice) (s : State) : (mapSluice f s).now = s.now := rfl
@[simp] theorem mapSluice_agenda (f : Sluice → Sluice) (s : State) : (mapSluice f s).agenda = s.agenda := rfl
@[simp] theorem mapSluice_freeCtr (f : Sluice → Sluice) (s : State) : (mapSluice f s).freeCtr = s.freeCtr := rfl

@[simp] theorem setClus_cl (c : Fin 4) (x : Cluster) (s : State) : (setClus c x s).cl = s.cl.set c x := rfl
@[simp] theorem setClus_cell (c : Fin 4) (x : Cluster) (s : State) : (setClus c x s).cell = s.cell := rfl
@[simp] theorem setClus_vec (c : Fin 4) (x : Cluster) (s : State) : (setClus c x s).vec = s.vec := rfl
@[simp] theorem setClus_mat (c : Fin 4) (x : Cluster) (s : State) : (setClus c x s).mat = s.mat := rfl
@[simp] theorem setClus_dev (c : Fin 4) (x : Cluster) (s : State) : (setClus c x s).dev = s.dev := rfl
@[simp] theorem setClus_cur (c : Fin 4) (x : Cluster) (s : State) : (setClus c x s).cur = s.cur := rfl
@[simp] theorem setClus_held (c : Fin 4) (x : Cluster) (s : State) : (setClus c x s).held = s.held := rfl
@[simp] theorem setClus_trapped (c : Fin 4) (x : Cluster) (s : State) : (setClus c x s).trapped = s.trapped := rfl
@[simp] theorem setClus_gSnap (c : Fin 4) (x : Cluster) (s : State) : (setClus c x s).gSnap = s.gSnap := rfl
@[simp] theorem setClus_startedNow (c : Fin 4) (x : Cluster) (s : State) : (setClus c x s).startedNow = s.startedNow := rfl
@[simp] theorem setClus_ran (c : Fin 4) (x : Cluster) (s : State) : (setClus c x s).ran = s.ran := rfl
@[simp] theorem setClus_word (c : Fin 4) (x : Cluster) (s : State) : (setClus c x s).word = s.word := rfl
@[simp] theorem setClus_now (c : Fin 4) (x : Cluster) (s : State) : (setClus c x s).now = s.now := rfl
@[simp] theorem setClus_agenda (c : Fin 4) (x : Cluster) (s : State) : (setClus c x s).agenda = s.agenda := rfl
@[simp] theorem setClus_freeCtr (c : Fin 4) (x : Cluster) (s : State) : (setClus c x s).freeCtr = s.freeCtr := rfl

@[simp] theorem mapClus_cl (c : Fin 4) (f : Cluster → Cluster) (s : State) : (mapClus c f s).cl = s.cl.set c (f (clus s c)) := rfl
@[simp] theorem mapClus_cell (c : Fin 4) (f : Cluster → Cluster) (s : State) : (mapClus c f s).cell = s.cell := rfl
@[simp] theorem mapClus_vec (c : Fin 4) (f : Cluster → Cluster) (s : State) : (mapClus c f s).vec = s.vec := rfl
@[simp] theorem mapClus_mat (c : Fin 4) (f : Cluster → Cluster) (s : State) : (mapClus c f s).mat = s.mat := rfl
@[simp] theorem mapClus_dev (c : Fin 4) (f : Cluster → Cluster) (s : State) : (mapClus c f s).dev = s.dev := rfl
@[simp] theorem mapClus_cur (c : Fin 4) (f : Cluster → Cluster) (s : State) : (mapClus c f s).cur = s.cur := rfl
@[simp] theorem mapClus_held (c : Fin 4) (f : Cluster → Cluster) (s : State) : (mapClus c f s).held = s.held := rfl
@[simp] theorem mapClus_trapped (c : Fin 4) (f : Cluster → Cluster) (s : State) : (mapClus c f s).trapped = s.trapped := rfl
@[simp] theorem mapClus_gSnap (c : Fin 4) (f : Cluster → Cluster) (s : State) : (mapClus c f s).gSnap = s.gSnap := rfl
@[simp] theorem mapClus_startedNow (c : Fin 4) (f : Cluster → Cluster) (s : State) : (mapClus c f s).startedNow = s.startedNow := rfl
@[simp] theorem mapClus_ran (c : Fin 4) (f : Cluster → Cluster) (s : State) : (mapClus c f s).ran = s.ran := rfl
@[simp] theorem mapClus_word (c : Fin 4) (f : Cluster → Cluster) (s : State) : (mapClus c f s).word = s.word := rfl
@[simp] theorem mapClus_now (c : Fin 4) (f : Cluster → Cluster) (s : State) : (mapClus c f s).now = s.now := rfl
@[simp] theorem mapClus_agenda (c : Fin 4) (f : Cluster → Cluster) (s : State) : (mapClus c f s).agenda = s.agenda := rfl
@[simp] theorem mapClus_freeCtr (c : Fin 4) (f : Cluster → Cluster) (s : State) : (mapClus c f s).freeCtr = s.freeCtr := rfl

@[simp] theorem clus_mapCell (f : CellState → CellState) (s : State) (c : Fin 4) : clus (mapCell f s) c = clus s c := rfl
@[simp] theorem clus_mapVec (f : VecState → VecState) (s : State) (c : Fin 4) : clus (mapVec f s) c = clus s c := rfl
@[simp] theorem clus_mapMat (f : MatState → MatState) (s : State) (c : Fin 4) : clus (mapMat f s) c = clus s c := rfl
@[simp] theorem clus_mapDev (f : DevState → DevState) (s : State) (c : Fin 4) : clus (mapDev f s) c = clus s c := rfl
@[simp] theorem clus_mapCu (f : Custom → Custom) (s : State) (c : Fin 4) : clus (mapCu f s) c = clus s c := rfl
@[simp] theorem clus_mapSluice (f : Sluice → Sluice) (s : State) (c : Fin 4) : clus (mapSluice f s) c = clus s c := rfl

theorem clus_setClus (c d : Fin 4) (x : Cluster) (s : State) : clus (setClus c x s) d = if c = d then x else clus s d := by
  simp only [clus, setClus, Fin.getElem_fin, Vector.getElem_set, Fin.ext_iff]

@[simp] theorem clus_setClus_same (c : Fin 4) (x : Cluster) (s : State) : clus (setClus c x s) c = x := by
  simp [clus_setClus]

theorem clus_setClus_other {c d : Fin 4} (h : d ≠ c) (x : Cluster) (s : State) : clus (setClus c x s) d = clus s d := by
  simp [clus_setClus, Ne.symm h]

theorem clus_mapClus (c d : Fin 4) (f : Cluster → Cluster) (s : State) :
    clus (mapClus c f s) d = if c = d then f (clus s c) else clus s d := clus_setClus c d _ s

@[simp] theorem clus_mapClus_same (c : Fin 4) (f : Cluster → Cluster) (s : State) :
    clus (mapClus c f s) c = f (clus s c) := by simp [clus_mapClus]

theorem clus_mapClus_other {c d : Fin 4} (h : d ≠ c) (f : Cluster → Cluster) (s : State) :
    clus (mapClus c f s) d = clus s d := by simp [clus_mapClus, Ne.symm h]

/-- The clusters after the change of one that restores it. -/
theorem mapClus_mapClus (c : Fin 4) (f g : Cluster → Cluster) (s : State) :
    mapClus c f (mapClus c g s) = mapClus c (fun k => f (g k)) s := by
  simp [mapClus, setClus, clus, Vector.set_set]

end Sys2Proof.Machine
end

