-- ==== Sys2Proof/Laws/Reeve.lean ====
section
/-! SUPPORT. What the operations that Reeve words share can do: the interlocks, issuing, results of a latency, and the registers
once they have landed. -/

namespace Sys2Proof.Machine

open Sys2Proof

/-! ### Vectors -/

theorem vget_vset_same {α : Type} {n : Nat} (v : Vector α n) (i : Nat) (x d : α) (h : i < n) : vget (vset v i x) i d = x := by
  simp [vget, vset, h]

theorem vget_vset_other {α : Type} {n : Nat} (v : Vector α n) {i j : Nat} (x d : α) (h : i ≠ j) :
    vget (vset v i x) j d = vget v j d := by
  simp only [vget, vset, Vector.getElem?_setIfInBounds, h, if_false]

/-! ### The interlocks -/

/-- A ready word takes its own effect. -/
theorem reeve_ready {reads dest : List (BitVec 5)} {s : State} (h : Ready reads dest s) (body : State → State) :
    reeve reads dest body s = body s := by
  obtain ⟨h1, h2, h3, h4⟩ := h
  have h5 : reads.find? (fun r => regPoison s s.cur r) = none := by simpa using h4
  unfold reeve
  rcases h3 with h3 | h3 <;> simp [h1, h2, h3, h5]

/-- A word never leaves the cluster whose word runs to another. -/
@[simp] theorem issueFed_cur (feed : Bool) (w : BitVec 2) (s : State) : (issueFed feed w s).cur = s.cur := by
  unfold issueFed; split <;> rfl

@[simp] theorem advance_cur (w : BitVec 2) (s : State) : (advance w s).cur = s.cur := by
  simp [advance, nextPc, issue]

@[simp] theorem advance_cell (w : BitVec 2) (s : State) : (advance w s).cell = s.cell := by
  unfold advance nextPc issue issueFed; simp only [mapClus_cell]; split <;> rfl

@[simp] theorem advance_vec (w : BitVec 2) (s : State) : (advance w s).vec = s.vec := by
  unfold advance nextPc issue issueFed; simp only [mapClus_vec]; split <;> rfl

@[simp] theorem advance_mat (w : BitVec 2) (s : State) : (advance w s).mat = s.mat := by
  unfold advance nextPc issue issueFed; simp only [mapClus_mat]; split <;> rfl

@[simp] theorem advance_gSnap (w : BitVec 2) (s : State) : (advance w s).gSnap = s.gSnap := by
  unfold advance nextPc issue issueFed; simp only [mapClus_gSnap]; split <;> rfl

@[simp] theorem advance_now (w : BitVec 2) (s : State) : (advance w s).now = s.now := by
  unfold advance nextPc issue issueFed; simp only [mapClus_now]; split <;> rfl

@[simp] theorem issueFed_cell (feed : Bool) (w : BitVec 2) (s : State) : (issueFed feed w s).cell = s.cell := by
  unfold issueFed; split <;> rfl

@[simp] theorem issueFed_vec (feed : Bool) (w : BitVec 2) (s : State) : (issueFed feed w s).vec = s.vec := by
  unfold issueFed; split <;> rfl

@[simp] theorem issueFed_mat (feed : Bool) (w : BitVec 2) (s : State) : (issueFed feed w s).mat = s.mat := by
  unfold issueFed; split <;> rfl

@[simp] theorem issueFed_mem (feed : Bool) (w : BitVec 2) (s : State) : (issueFed feed w s).dev.mem = s.dev.mem := by
  unfold issueFed; split <;> rfl

/-- What issuing does to the clusters. -/
theorem clus_issueFed (feed : Bool) (w : BitVec 2) (s : State) (c : Fin 4) :
    clus (issueFed feed w s) c =
      if s.cur = c then
        { clus s c with gap := w.toNat, stat := .issuing, wait := .none, greq := [], gHeld := none, rdvArmed := false, realign := false,
                        seg := segIssue (feed && !(clus s c).sup) (leBytes 4 s.word) (clus s c).seg }
      else clus s c := by
  have h : clus (issueFed feed w s) c = clus (mapClus s.cur (fun k =>
      { k with gap := w.toNat, stat := .issuing, wait := .none, greq := [], gHeld := none, rdvArmed := false,
               realign := false, seg := segIssue (feed && !k.sup) (leBytes 4 s.word) k.seg }) s) c := by
    unfold issueFed; split <;> rfl
  rw [h, clus_mapClus]
  split
  · next e => subst e; rfl
  · rfl

/-- What issuing and moving past the word does to the clusters. -/
theorem clus_advance (w : BitVec 2) (s : State) (c : Fin 4) :
    clus (advance w s) c =
      if s.cur = c then
        { clus s c with gap := w.toNat, stat := .issuing, wait := .none, greq := [], gHeld := none, rdvArmed := false, realign := false,
                        seg := segIssue (!(clus s c).sup) (leBytes 4 s.word) (clus s c).seg, pc := (clus s c).pc + 4 }
      else clus s c := by
  simp only [advance, nextPc, issue]
  rw [clus_mapClus]
  simp only [issueFed_cur]
  split
  · next e => subst e; simp [clus_issueFed]
  · next e => simp [clus_issueFed, e]

/-! ### Registers -/

/-- Two states show a cluster the same registers, marks and results under way. -/
def sameRegs (c : Fin 4) (s t : State) : Prop :=
  (clus t c).s = (clus s c).s ∧ (clus t c).sPoison = (clus s c).sPoison ∧ (clus t c).pend = (clus s c).pend ∧
    t.cell.g = s.cell.g ∧ t.cell.gPoison = s.cell.gPoison

/-- The registers of a cluster as plain data: s registers, marks, g registers, marks. -/
abbrev Regs := Vector Word 23 × Vector Bool 23 × Vector Word 8 × Vector Bool 8

/-- The registers that a cluster sees outside a bundle. -/
def regsOf (c : Fin 4) (s : State) : Regs := ((clus s c).s, (clus s c).sPoison, s.cell.g, s.cell.gPoison)

/-- A write in plain registers. -/
def Regs.put (x : Regs) (r : BitVec 5) (v : Word) (m : Bool) : Regs :=
  if r.toNat = 0 then x
  else if r.toNat < 24 then (vset x.1 (r.toNat - 1) v, vset x.2.1 (r.toNat - 1) m, x.2.2.1, x.2.2.2)
  else (x.1, x.2.1, vset x.2.2.1 (r.toNat - 24) v, vset x.2.2.2 (r.toNat - 24) m)

/-- A read in plain registers. -/
def Regs.get (x : Regs) (r : BitVec 5) : Word × Bool :=
  if r.toNat = 0 then (0, false)
  else if r.toNat < 24 then (vget x.1 (r.toNat - 1) 0, vget x.2.1 (r.toNat - 1) false)
  else (vget x.2.2.1 (r.toNat - 24) 0, vget x.2.2.2 (r.toNat - 24) false)

theorem Regs.get_put_same (x : Regs) (r : BitVec 5) (v : Word) (m : Bool) :
    (x.put r v m).get r = if r = 0 then (0, false) else (v, m) := by
  have hr := r.isLt
  by_cases h0 : r.toNat = 0
  · have : r = 0 := by apply BitVec.eq_of_toNat_eq; simpa using h0
    simp [Regs.get, this]
  · have hn : r ≠ 0 := fun e => h0 (by simp [e])
    simp only [Regs.put, Regs.get, h0, hn, if_false]
    by_cases h1 : r.toNat < 24
    · simp only [h1, if_true]
      rw [vget_vset_same _ _ _ _ (by omega), vget_vset_same _ _ _ _ (by omega)]
    · simp only [h1, if_false]
      rw [vget_vset_same _ _ _ _ (by omega), vget_vset_same _ _ _ _ (by omega)]

theorem Regs.get_put_other (x : Regs) {r q : BitVec 5} (h : q ≠ r) (v : Word) (m : Bool) : (x.put r v m).get q = x.get q := by
  have hn : q.toNat ≠ r.toNat := fun e => h (BitVec.eq_of_toNat_eq e)
  simp only [Regs.put, Regs.get]
  by_cases h0 : r.toNat = 0
  · simp [h0]
  · by_cases q0 : q.toNat = 0
    · simp [q0]
    · simp only [h0, q0, if_false]
      by_cases h1 : r.toNat < 24 <;> by_cases q1 : q.toNat < 24 <;> simp only [h1, q1, if_true, if_false]
      · rw [vget_vset_other _ _ _ (by omega), vget_vset_other _ _ _ (by omega)]
      · rw [vget_vset_other _ _ _ (by omega), vget_vset_other _ _ _ (by omega)]

/-- Outside a bundle a register reads as the plain registers hold it. -/
theorem read_regsOf (c : Fin 4) (s : State) (r : BitVec 5) (h : s.gSnap = none) :
    (readReg s c r, regPoison s c r) = (regsOf c s).get r := by
  simp only [readReg, regPoison, Regs.get, regsOf, gView, h]
  split
  · rfl
  · split <;> rfl

@[simp] theorem writeReg_gSnap (c : Fin 4) (r : BitVec 5) (v : Word) (m : Bool) (s : State) :
    (writeReg c r v m s).gSnap = s.gSnap := by
  simp only [writeReg]; split
  · rfl
  · split <;> rfl

@[simp] theorem writeReg_cur (c : Fin 4) (r : BitVec 5) (v : Word) (m : Bool) (s : State) :
    (writeReg c r v m s).cur = s.cur := by
  simp only [writeReg]; split
  · rfl
  · split <;> rfl

/-- A write by a cluster, in that cluster's plain registers. -/
theorem regsOf_writeReg (c : Fin 4) (r : BitVec 5) (v : Word) (m : Bool) (s : State) :
    regsOf c (writeReg c r v m s) = (regsOf c s).put r v m := by
  simp only [writeReg, Regs.put]
  split
  · rfl
  · split
    · simp [regsOf]
    · simp [regsOf]

/-- A write by another cluster reaches the g registers alone. -/
theorem regsOf_writeReg_other {c d : Fin 4} (h : d ≠ c) (r : BitVec 5) (v : Word) (m : Bool) (s : State) :
    regsOf d (writeReg c r v m s) = if r.toNat < 24 then regsOf d s else (regsOf d s).put r v m := by
  simp only [writeReg, Regs.put]
  by_cases h0 : r.toNat = 0
  · simp [h0]
  · by_cases h1 : r.toNat < 24
    · simp [h0, h1, regsOf, clus_mapClus_other h]
    · simp [h0, h1, regsOf]

/-- The results under way of a cluster, landed in its plain registers. -/
def Regs.land (l : List Pend) (x : Regs) : Regs := l.foldl (fun x p => x.put p.reg p.val p.mark) x

theorem regsOf_landFold (c : Fin 4) (l : List Pend) (s : State) :
    regsOf c (l.foldl (fun st p => writeReg c p.reg p.val p.mark st) s) = Regs.land l (regsOf c s) ∧
      (l.foldl (fun st p => writeReg c p.reg p.val p.mark st) s).gSnap = s.gSnap := by
  induction l generalizing s with
  | nil => exact ⟨rfl, rfl⟩
  | cons p l ih => simp only [List.foldl_cons, ih, Regs.land, regsOf_writeReg, writeReg_gSnap, and_self]

/-- What a cluster sees once its results have landed, in plain registers. -/
theorem regLater_eq (s : State) (c : Fin 4) (r : BitVec 5) :
    regLater s c r = (Regs.land (clus s c).pend (regsOf c s)).get r := by
  have h := regsOf_landFold c (clus s c).pend { s with gSnap := none }
  unfold regLater landRegs
  rw [read_regsOf _ _ _ h.2, h.1]
  rfl

/-- The view of the registers depends on the registers and the results under way alone. -/
theorem regLater_congr {s t : State} {c : Fin 4} (h : regsOf c t = regsOf c s) (hp : (clus t c).pend = (clus s c).pend)
    (r : BitVec 5) : regLater t c r = regLater s c r := by
  rw [regLater_eq, regLater_eq, h, hp]

/-- A write gives one register alike in registers that agree on it. -/
theorem Regs.get_put_congr {x y : Regs} {q : BitVec 5} (h : x.get q = y.get q) (r : BitVec 5) (v : Word) (m : Bool) :
    (x.put r v m).get q = (y.put r v m).get q := by
  by_cases e : q = r
  · subst e; rw [Regs.get_put_same, Regs.get_put_same]
  · rw [Regs.get_put_other _ e, Regs.get_put_other _ e, h]

theorem Regs.get_land_congr (l : List Pend) {x y : Regs} {q : BitVec 5} (h : x.get q = y.get q) :
    (Regs.land l x).get q = (Regs.land l y).get q := by
  induction l generalizing x y with
  | nil => exact h
  | cons p l ih => exact ih (Regs.get_put_congr h _ _ _)

theorem Regs.get_land_none (l : List Pend) (x : Regs) {q : BitVec 5} (h : ∀ p ∈ l, p.reg ≠ q) :
    (Regs.land l x).get q = x.get q := by
  induction l generalizing x with
  | nil => rfl
  | cons p l ih =>
    have e : (Regs.land (p :: l) x) = Regs.land l (x.put p.reg p.val p.mark) := rfl
    rw [e, ih _ (fun k hk => h k (by simp [hk])), Regs.get_put_other _ (Ne.symm (h p (by simp)))]

theorem Regs.get_land_put (l : List Pend) (x : Regs) (r q : BitVec 5) (v : Word) (m : Bool)
    (h : q ≠ r ∨ ∀ p ∈ l, p.reg ≠ r) :
    (Regs.land l (x.put r v m)).get q = if q = r then (if r = 0 then (0, false) else (v, m)) else (Regs.land l x).get q := by
  by_cases e : q = r
  · subst e
    rw [Regs.get_land_none l _ (h.resolve_left (fun k => k rfl)), Regs.get_put_same]; simp
  · simp only [e, if_false]
    exact Regs.get_land_congr l (Regs.get_put_other _ e _ _)

/-- After a result is given to a register that no result under way names, the register is to hold it. -/
theorem regLater_putResult_same (lat : Nat) (d : BitVec 5) (v : Word) (s : State)
    (h : d = 0 ∨ ∀ p ∈ (clus s s.cur).pend, p.reg ≠ d) :
    regLater (putResult lat d v s) s.cur d = (if d = 0 then 0 else v, false) := by
  rw [regLater_eq]
  by_cases hd : d = 0
  · subst hd; simp [Regs.get]
  · have hp := h.resolve_left hd
    rw [if_neg hd]
    simp only [putResult, giveResult, hd, if_false]
    split
    · have e : (clus (writeReg s.cur d v false s) s.cur).pend = (clus s s.cur).pend := by
        simp only [writeReg]; split
        · rfl
        · split <;> simp
      rw [e, regsOf_writeReg, Regs.get_land_put _ _ _ _ _ _ (Or.inr hp)]
      simp only [if_true]; rw [if_neg hd]
    · simp only [clus_mapClus_same]
      have e : regsOf s.cur (mapClus s.cur (fun k => { k with pend := k.pend ++ [{ reg := d, val := v, mark := false, left := lat }] }) s) =
          regsOf s.cur s := by simp [regsOf]
      rw [e]
      simp only [Regs.land, List.foldl_append, List.foldl_cons, List.foldl_nil]
      rw [Regs.get_put_same, if_neg hd]

/-- Every other register of every cluster stays as it is. -/
theorem regLater_putResult_other (lat : Nat) {d r : BitVec 5} (h : r ≠ d) (v : Word) (s : State) (c : Fin 4) :
    regLater (putResult lat d v s) c r = regLater s c r := by
  unfold putResult giveResult
  split
  · rw [regLater_eq, regLater_eq]
    have e : (clus (writeReg s.cur d v false s) c).pend = (clus s c).pend := by
      simp only [writeReg]; split
      · rfl
      · split
        · rw [clus_mapClus]; split
          · next e => subst e; rfl
          · rfl
        · rfl
    rw [e]
    by_cases hc : c = s.cur
    · subst hc; rw [regsOf_writeReg, Regs.get_land_put _ _ _ _ _ _ (Or.inl h)]; simp [h]
    · rw [regsOf_writeReg_other hc]; split
      · rfl
      · rw [Regs.get_land_put _ _ _ _ _ _ (Or.inl h)]; simp [h]
  · split
    · rfl
    · rw [regLater_eq, regLater_eq]
      by_cases hc : c = s.cur
      · subst hc
        simp only [clus_mapClus_same]
        have e : regsOf s.cur (mapClus s.cur (fun k => { k with pend := k.pend ++ [{ reg := d, val := v, mark := false, left := lat }] }) s) =
            regsOf s.cur s := by simp [regsOf]
        rw [e]
        simp only [Regs.land, List.foldl_append, List.foldl_cons, List.foldl_nil]
        rw [Regs.get_put_other _ h]
      · rw [clus_mapClus_other hc]
        congr 2
        simp [regsOf, clus_mapClus_other hc]

/-- Issuing and moving on leave the registers. -/
theorem regLater_advance (w : BitVec 2) (s : State) (c : Fin 4) (r : BitVec 5) : regLater (advance w s) c r = regLater s c r := by
  apply regLater_congr
  · simp only [regsOf, clus_advance, advance_cell]; split <;> rfl
  · rw [clus_advance]; split <;> rfl

/-! ### The frame of a word that writes one register -/

/-- Issuing and moving past the word keeps the register frame. -/
theorem frame_advance (w : BitVec 2) (s : State) : RegisterFrame s (advance w s) := by
  refine ⟨by simp, by simp, fun c h => ?_, ?_, by simp, ?_, ?_, by simp, ?_, ?_, ?_, ?_, ?_, ?_, ?_⟩
  · rw [clus_advance, if_neg (Ne.symm h)]
  · rw [clus_advance, if_pos rfl]; rfl
  all_goals
    unfold advance nextPc issue issueFed
    simp only [mapClus_dev, mapClus_held, mapClus_trapped, mapClus_now, mapClus_startedNow, mapClus_ran, mapClus_agenda, mapClus_freeCtr]
    split
    · first | rfl | (simp only [mapOwnLaunch, mapDev_dev, mapClus_dev, List.map_map]; try congr 1; try (funext l; simp only [Function.comp_apply]; split <;> rfl))
    · rfl

/-- Giving a result to a register keeps the register frame. -/
theorem frame_putResult (lat : Nat) (d : BitVec 5) (v : Word) {s t : State} (h : RegisterFrame s t) :
    RegisterFrame s (putResult lat d v t) := by
  obtain ⟨h1, h2, h3, h4, h5, h6, h7, h8, h9, h10, h11, h12⟩ := h
  unfold putResult giveResult
  split
  · simp only [writeReg]
    split
    · exact ⟨h1, h2, h3, h4, h5, h6, h7, h8, h9, h10, h11, h12⟩
    · split
      · refine ⟨h1, h2, fun c hc => ?_, ?_, h5, h6, h7, h8, h9, h10, h11, h12⟩
        · rw [clus_mapClus_other (by rw [h8]; exact hc)]; exact h3 c hc
        · rw [h8, clus_mapClus_same]; exact h4
      · refine ⟨h1, h2, h3, h4, ?_, h6, h7, h8, h9, h10, h11, h12⟩
        simp only [mapCell_cell]; rw [← h5]
  · split
    · exact ⟨h1, h2, h3, h4, h5, h6, h7, h8, h9, h10, h11, h12⟩
    · refine ⟨h1, h2, fun c hc => ?_, ?_, h5, h6, h7, h8, h9, h10, h11, h12⟩
      · rw [clus_mapClus_other (by rw [h8]; exact hc)]; exact h3 c hc
      · rw [h8, clus_mapClus_same]; exact h4

@[simp] theorem writeReg_pc (c e : Fin 4) (r : BitVec 5) (v : Word) (m : Bool) (s : State) :
    (clus (writeReg c r v m s) e).pc = (clus s e).pc := by
  simp only [writeReg]; split
  · rfl
  · split
    · rw [clus_mapClus]; split
      · next h => subst h; rfl
      · rfl
    · rfl

@[simp] theorem writeReg_gap (c e : Fin 4) (r : BitVec 5) (v : Word) (m : Bool) (s : State) :
    (clus (writeReg c r v m s) e).gap = (clus s e).gap := by
  simp only [writeReg]; split
  · rfl
  · split
    · rw [clus_mapClus]; split
      · next h => subst h; rfl
      · rfl
    · rfl

@[simp] theorem putResult_cur (lat : Nat) (d : BitVec 5) (v : Word) (s : State) : (putResult lat d v s).cur = s.cur := by
  unfold putResult giveResult; split
  · simp
  · split <;> rfl

@[simp] theorem putResult_pc (lat : Nat) (d : BitVec 5) (v : Word) (s : State) (c : Fin 4) :
    (clus (putResult lat d v s) c).pc = (clus s c).pc := by
  unfold putResult giveResult; split
  · simp
  · split
    · rfl
    · rw [clus_mapClus]; split
      · next h => subst h; rfl
      · rfl

@[simp] theorem putResult_gap (lat : Nat) (d : BitVec 5) (v : Word) (s : State) (c : Fin 4) :
    (clus (putResult lat d v s) c).gap = (clus s c).gap := by
  unfold putResult giveResult; split
  · simp
  · split
    · rfl
    · rw [clus_mapClus]; split
      · next h => subst h; rfl
      · rfl

theorem issued_advance (w : BitVec 2) (s : State) : Issued w s (advance w s) := by
  simp [Issued, clus_advance]

/-- No result under way names a register that a ready word reads or writes. -/
theorem Ready.pend {reads dest : List (BitVec 5)} {s : State} (h : Ready reads dest s) {d : BitVec 5}
    (hd : d ∈ reads ++ dest) : d = 0 ∨ ∀ p ∈ (clus s s.cur).pend, p.reg ≠ d := by
  by_cases e : d = 0
  · exact Or.inl e
  · refine Or.inr (fun p hp k => ?_)
    have h2 := h.2.1
    simp only [fixedPending, List.any_eq_false, Bool.and_eq_true, decide_eq_true_eq, List.any_eq_true, not_and, not_exists] at h2
    exact h2 d hd e p hp k

/-- A ready word with one result writes it, and nothing else. -/
theorem wrote_putResult {reads : List (BitVec 5)} {d : BitVec 5} {s : State} (h : Ready reads [d] s) (lat : Nat) (w : BitVec 2)
    (v : Word) : Wrote w d v s (putResult lat d v (advance w s)) := by
  refine ⟨?_, ⟨?_, fun c r hr => ?_⟩, frame_putResult lat d v (frame_advance w s)⟩
  · have := issued_advance w s
    simpa [Issued] using this
  · have h1 := h.pend (d := d) (by simp)
    have h2 := regLater_putResult_same lat d v (advance w s) (by
      simpa [clus_advance] using h1)
    simpa using h2
  · rw [regLater_putResult_other lat hr, regLater_advance]

/-- An s register reads as the value written, whatever view a word has of the g registers. -/
theorem readReg_writeReg_s (c : Fin 4) {d : BitVec 5} (hd : d ≠ 0) (h : d.toNat < 24) (v : Word) (m : Bool) (s : State) :
    readReg (writeReg c d v m s) c d = v := by
  have h0 : d.toNat ≠ 0 := fun e => hd (BitVec.eq_of_toNat_eq (by simpa using e))
  simp only [readReg, writeReg, h0, h, if_true, if_false, clus_mapClus_same]
  exact vget_vset_same _ _ _ _ (by omega)

/-- A write of an s register leaves the results under way. -/
theorem writeReg_pend (c e : Fin 4) (r : BitVec 5) (v : Word) (m : Bool) (s : State) :
    (clus (writeReg c r v m s) e).pend = (clus s e).pend := by
  simp only [writeReg]; split
  · rfl
  · split
    · rw [clus_mapClus]; split
      · next h => subst h; rfl
      · rfl
    · rfl

/-- A register that is written at once reads as the value; any other result waits behind the earlier ones. -/
theorem due_putResult (lat : Nat) (d : BitVec 5) (v : Word) (w : BitVec 2) (s : State) :
    DueIn lat d v s (putResult lat d v (advance w s)) := by
  unfold DueIn putResult giveResult
  by_cases hd : d = 0
  · exact Or.inl hd
  · refine Or.inr ?_
    rw [advance_cur]
    by_cases hl : lat = 1 ∧ d.toNat < 24
    · rw [if_pos hl, if_pos hl]
      exact ⟨by rw [writeReg_pend, clus_advance, if_pos rfl], readReg_writeReg_s _ hd hl.2 _ _ _⟩
    · rw [if_neg hl, if_neg hl, if_neg hd]
      simp [clus_advance]

/-- A ready word that writes one register with a function of the registers completes. -/
theorem writeWord_done {lat : Nat} {w : BitVec 2} {d : BitVec 5} {reads : List (BitVec 5)} {v : State → Word} {s : State}
    (h : Ready reads [d] s) :
    Wrote w d (v s) s (writeWord lat w d reads v s) ∧ DueIn lat d (v s) s (writeWord lat w d reads v s) := by
  rw [writeWord, reeve_ready h]
  exact ⟨wrote_putResult h _ _ _, due_putResult _ _ _ _ _⟩

/-! ### Traps -/

/-- A trap taken from user mode does what `TrapTaken` says. -/
theorem takeTrap_taken (c : Fin 4) {code info : Nat} (tpc : BitVec 48) (tval : Word) {s : State} (h : (clus s c).sup = false)
    (hi : info < 256) (hc : code < 256) : TrapTaken c code info tpc tval s (takeTrap c code info tpc tval s) := by
  unfold takeTrap; rw [if_neg (by simp [h])]
  have hc4 := c.isLt
  have h' : s.cl[c.val].sup = false := h
  refine ⟨?_, by simp [clus, setClus], by simp [clus, setClus], by simp [clus, setClus], ?_, rfl, fun e he => ?_,
    by simp [clus, setClus], by simp [clus, setClus], by simp [clus, setClus], by simp [clus, setClus], by simp [clus, setClus],
    rfl, rfl, rfl, rfl⟩
  · simp only [clus, setClus, Fin.getElem_fin, Vector.getElem_set_self]
    simp [causeWord, h', b2n, Nat.mod_eq_of_lt hi, Nat.mod_eq_of_lt hc, Nat.mod_eq_of_lt (by omega : c.val < 16)]
  · simp [clus, setClus, handlerPc, nb]
  · exact clus_setClus_other he _ _

end Sys2Proof.Machine
end

