-- ==== Sys2Proof/Laws/Advance.lean ====
section
/-! SUPPORT. Issuing a word and moving past it commutes with the operations on what the cell and the device share; a word with
such an effect therefore completes with that effect and its one register. -/

namespace Sys2Proof.Machine

open Sys2Proof

theorem adv_mapCell (f : CellState → CellState) (hb : ∀ k, (f k).bound = k.bound) (hq : ∀ k, (f k).task = k.task) (w s) :
   mapCell f (advance w s) = advance w (mapCell f s) := by
  unfold advance nextPc issue issueFed
  by_cases h : s.cur = 0
  · simp [h, mapCell, mapClus, setClus, clus, mapOwnLaunch, mapDev, ownLaunch, hb, hq]
  · simp [h, mapCell, mapClus, setClus, clus]

theorem adv_mapVec (f) (w s) : mapVec f (advance w s) = advance w (mapVec f s) := by
  unfold advance nextPc issue issueFed
  by_cases h : s.cur = 0
  · simp [h, mapVec, mapClus, setClus, clus, mapOwnLaunch, mapDev, ownLaunch]
  · simp [h, mapVec, mapClus, setClus, clus]

theorem adv_mapMat (f) (w s) : mapMat f (advance w s) = advance w (mapMat f s) := by
  unfold advance nextPc issue issueFed
  by_cases h : s.cur = 0
  · simp [h, mapMat, mapClus, setClus, clus, mapOwnLaunch, mapDev, ownLaunch]
  · simp [h, mapMat, mapClus, setClus, clus]

theorem adv_mapDev (f : DevState → DevState) (hf : ∀ (d : DevState) (l : List Launch), f { d with launches := l } = { f d with launches := l })
    (hl : ∀ d, (f d).launches = d.launches) (w s) : mapDev f (advance w s) = advance w (mapDev f s) := by
  have key (g : Launch → Launch) (s : State) : mapDev f (mapOwnLaunch g s) = mapOwnLaunch g (mapDev f s) := by
    simp only [mapOwnLaunch, mapDev]; rw [hf, hl]; rfl
  have k1 (c g) (s : State) : mapDev f (mapClus c g s) = mapClus c g (mapDev f s) := rfl
  unfold advance nextPc issue issueFed
  rw [k1]
  by_cases h : s.cur = 0
  · simp only [mapDev_cur, h, if_true, key, k1]; rfl
  · simp only [mapClus_cur, mapDev_cur, h, if_false, k1]; rfl

theorem adv_homeWrite (cs) (w s) : homeWrite cs (advance w s) = advance w (homeWrite cs s) := by
  have := adv_mapDev (fun d => {d with mem := cs.foldl (fun m c => memSet m c.1 c.2) d.mem, poison := marksAfter d.poison cs,
                                         msLanes := lanesAfter d.msLanes cs}) (by intros; rfl) (by intros; rfl) w s
  exact this

theorem adv_acquire (q w s) : acquire q (advance w s) = advance w (acquire q s) := by
  simp only [acquire, advance_cell]; split
  · rfl
  · exact adv_mapCell _ (by intros; rfl) (by intros; rfl) _ _

theorem mapSluice_eq (f s) : mapSluice f s = mapCell (fun k => {k with sluice := f k.sluice}) s := rfl

theorem adv_mapSluice (f w s) : mapSluice f (advance w s) = advance w (mapSluice f s) := by
  rw [mapSluice_eq, mapSluice_eq]; exact adv_mapCell _ (by intros; rfl) (by intros; rfl) _ _

theorem adv_pulse (a b w s) : pulse a b (advance w s) = advance w (pulse a b s) := adv_mapSluice _ _ _

theorem adv_foldl {α} (l : List α) (f : State → α → State) (hf : ∀ a w s, f (advance w s) a = advance w (f s a)) (w s) : l.foldl f (advance w s) = advance w (l.foldl f s) := by
  induction l generalizing s with
  | nil => rfl
  | cons a l ih => simp only [List.foldl_cons, hf, ih]

theorem adv_noteFired (i r w s) : noteFired i r (advance w s) = advance w (noteFired i r s) := by
  unfold noteFired; split
  · exact adv_mapDev _ (by intros; rfl) (by intros; rfl) _ _
  · rfl

theorem adv_noteArmed (i w s) : noteArmed i (advance w s) = advance w (noteArmed i s) :=
  adv_mapDev _ (by intros; rfl) (by intros; rfl) _ _

theorem adv_fireRdvs (w s) : fireRdvs (advance w s) = advance w (fireRdvs s) := by
  unfold fireRdvs
  apply adv_foldl
  intro a w s
  have e (r : Rdv) : rdvReady (advance w s) r = rdvReady s r := by simp [rdvReady, retiredBit]
  simp only [advance_cell, e]
  split
  · rw [adv_mapCell _ (by intros; rfl) (by intros; rfl), adv_noteFired, adv_pulse]
  · rfl

theorem adv_setNow (n : Now) (w : BitVec 2) (s : State) : { advance w s with now := n } = advance w { s with now := n } := by
  unfold advance nextPc issue issueFed
  by_cases h : s.cur = 0
  · simp [h, mapClus, setClus, clus, mapOwnLaunch, mapDev, ownLaunch]
  · simp [h, mapClus, setClus, clus]

theorem adv_setRetired (e m b w s) : setRetired e m b (advance w s) = advance w (setRetired e m b s) := by
  simp only [setRetired]; exact adv_mapCell _ (by intros; rfl) (by intros; rfl) _ _

theorem adv_retireMarker (e m w s) : retireMarker e m (advance w s) = advance w (retireMarker e m s) := by
  simp only [retireMarker, advance_cell, adv_setRetired]; split
  · rfl
  · split
    · rfl
    · have h : (advance w (setRetired e m true s)).now = (setRetired e m true s).now := advance_now ..
      have k := adv_setNow { (setRetired e m true s).now with marks := (e, m.toNat) :: (setRetired e m true s).now.marks } w (setRetired e m true s)
      simpa only [h, advance_cell] using k

theorem adv_retireReadyMarks (e n w s) : retireReadyMarks e n (advance w s) = advance w (retireReadyMarks e n s) := by
  induction n generalizing s with
  | zero => rfl
  | succ n ih =>
    simp only [retireReadyMarks, advance_cell]
    split
    · rfl
    · rw [adv_mapCell _ (by intros; rfl) (by intros; rfl), adv_retireMarker, ih]

theorem adv_noteMark (m w s) : noteMark m (advance w s) = advance w (noteMark m s) :=
  adv_mapDev _ (by intros; rfl) (by intros; rfl) _ _

theorem adv_placeMark (m k w s) : placeMark m k (advance w s) = advance w (placeMark m k s) := by
  unfold placeMark
  simp only [advance_cell]
  rw [adv_foldl (f := fun x e => if m.getLsbD e && !x.now.marks.contains (e, k.toNat) then setRetired e k false x else x)]
  · rw [adv_noteMark, ← apply_ite (advance w)]
    apply adv_foldl
    intro a w s
    split
    · rw [adv_mapCell _ (by intros; rfl) (by intros; rfl), adv_retireReadyMarks]
    · rfl
  · intro a w s; simp only [advance_now]; split
    · exact adv_setRetired ..
    · rfl

theorem adv_armRdv (m i k w s) : armRdv m i k (advance w s) = advance w (armRdv m i k s) := by
  unfold armRdv; rw [adv_mapCell _ (by intros; rfl) (by intros; rfl), adv_noteArmed]

theorem adv_startVector (p w s) : startVector p (advance w s) = advance w (startVector p s) := by
  unfold startVector; rw [adv_mapVec, adv_acquire]

theorem adv_startMatrix (p w s) : startMatrix p (advance w s) = advance w (startMatrix p s) := adv_mapMat ..

theorem adv_zeroBoard (w s) : zeroBoard (advance w s) = advance w (zeroBoard s) := by
  simp only [zeroBoard]; rw [adv_mapSluice, adv_mapVec, adv_mapMat]

theorem adv_loadBoard (bs w s) : loadBoard bs (advance w s) = advance w (loadBoard bs s) := by
  simp only [loadBoard]; rw [adv_zeroBoard]; exact adv_mapSluice ..

theorem adv_syncWrite (l x w s) : syncWrite l x (advance w s) = advance w (syncWrite l x s) := adv_homeWrite ..

theorem advance_mem (w s) : (advance w s).dev.mem = s.dev.mem := by simp [advance, nextPc, issue]

theorem adv_syncRead (l w s) : syncRead (advance w s) l = syncRead s l := by
  simp [syncRead, homeNat, homeBytes, advance_mem]

theorem adv_watchPulses (l n w s) : watchPulses l n (advance w s) = advance w (watchPulses l n s) := by
  unfold watchPulses; simp only [advance_cell]
  apply adv_foldl; intro a w s; split
  · exact adv_mapSluice ..
  · rfl

theorem adv_syncArrive {l n w} {s : State} (h : s.cell.swNow.filter (fun i => decide (i.loc = l)) = []) :
    syncArrive l n (advance w s) = advance w (syncArrive l n s) := by
  simp only [syncArrive, syncAdd, advance_cell, h, adv_syncRead]; rw [adv_syncWrite, adv_watchPulses]

theorem ctxOf_advance (w s c) : ctxOf (advance w s) c = ctxOf s c := by
  have : (advance w s).dev.ctxs = s.dev.ctxs := by
    unfold advance nextPc issue issueFed; simp only [mapClus_dev]; split <;> rfl
  simp [ctxOf, this]

theorem ctxtBase_advance (w s) : (advance w s).dev.ctxtBase = s.dev.ctxtBase := by
    unfold advance nextPc issue issueFed; simp only [mapClus_dev]; split <;> rfl

theorem ctxRecord_advance (w s c) : ctxRecord (advance w s) c = ctxRecord s c := by
  simp [ctxRecord, homeBytes, advance_mem, ctxtBase_advance]

theorem adv_mapCtx (c) (f : Ctx → Ctx) (w s) : mapCtx c f (advance w s) = advance w (mapCtx c f s) := by
  simp only [mapCtx]
  exact adv_mapDev _ (by intros; rfl) (by intros; rfl) _ _

theorem adv_send (m w s) : send m (advance w s) = advance w (send m s) := by
  simp only [send]
  exact adv_mapDev _ (by intros; rfl) (by intros; rfl) _ _

theorem adv_interrupt (m w s) : interrupt m (advance w s) = advance w (interrupt m s) := by
  simp only [interrupt]
  split
  · exact adv_mapDev _ (by intros; rfl) (by intros; rfl) _ _
  · rfl

theorem capRange_advance (w s c) : capRange (advance w s) c = capRange s c := by simp [capRange, ctxRecord_advance]

theorem adv_tagTouch (x w s) : tagTouch x (advance w s) = advance w (tagTouch x s) := by
  simp only [tagTouch, tagOrder, advance_cell]; exact adv_mapCell _ (by intros; rfl) (by intros; rfl) _ _

theorem adv_tagClear (x w s) : tagClear x (advance w s) = advance w (tagClear x s) := by
  simp only [tagClear]; exact adv_mapCell _ (by intros; rfl) (by intros; rfl) _ _

theorem adv_tagInstall (x k w s) : tagInstall x k (advance w s) = advance w (tagInstall x k s) := by
  simp only [tagInstall]; rw [adv_foldl, adv_mapCell _ (by intros; rfl) (by intros; rfl), adv_tagTouch]
  intro a w s
  have e : tagKey (advance w s) a = tagKey s a := by simp [tagKey]
  rw [e]
  by_cases c : a ≠ x ∧ tagKey s a = some k
  · rw [if_pos c, if_pos c, adv_tagClear]
  · rw [if_neg c, if_neg c]

theorem adv_ringEdges (a b c d w s) : ringEdges a b c d (advance w s) = advance w (ringEdges a b c d s) := by
  simp only [ringEdges]; split <;> split <;> simp only [adv_pulse]

theorem adv_ringProduce (a b w s) : ringProduce a b (advance w s) = advance w (ringProduce a b s) := by
  simp only [ringProduce, advance_cell]; rw [adv_mapCell _ (by intros; rfl) (by intros; rfl), adv_ringEdges]

theorem adv_ringConsume (a b w s) : ringConsume a b (advance w s) = advance w (ringConsume a b s) := by
  simp only [ringConsume, advance_cell]; rw [adv_mapCell _ (by intros; rfl) (by intros; rfl), adv_ringEdges]

theorem adv_writeCustom (a b w s) : writeCustom a b (advance w s) = advance w (writeCustom a b s) := by
  simp only [writeCustom, advance_cell]; rw [adv_mapCell _ (by intros; rfl) (by intros; rfl), adv_mapCtx]

/-- An effect that neither sees what issuing changes nor touches the clusters. -/
structure Apart (A : State → State) : Prop where
  adv : ∀ w s, A (advance w s) = advance w (A s)
  cl : ∀ s, (A s).cl = s.cl
  cur : ∀ s, (A s).cur = s.cur

theorem wroteAct {reads : List (BitVec 5)} {d s lat w v} {A : State → State} (h : Ready reads [d] s) (hA : A (advance w s) = advance w (A s))
   (hpend : (clus (A s) (A s).cur).pend = (clus s s.cur).pend):
   Wrote w d v (A s) (putResult lat d v (A (advance w s))) := by
  rw [hA]
  have key : d = 0 ∨ ∀ p ∈ (clus (A s) (A s).cur).pend, p.reg ≠ d := by
    rw [hpend]; exact h.pend (by simp)
  refine ⟨?_, ⟨?_, fun c r hr => ?_⟩, frame_putResult lat d v (frame_advance w (A s))⟩
  · have := issued_advance w (A s)
    simpa [Issued] using this
  · have h2 := regLater_putResult_same lat d v (advance w (A s)) (by
      simpa [clus_advance] using key)
    simpa using h2
  · rw [regLater_putResult_other lat hr, regLater_advance]

theorem apart_done {reads : List (BitVec 5)} {d s lat w v} {A : State → State} (h : Ready reads [d] s) (hA : Apart A) :
   Wrote w d v (A s) (putResult lat d v (A (advance w s))) :=
  wroteAct h (hA.adv w s) (by simp only [clus, hA.cl, hA.cur])

theorem apart_id : Apart id := ⟨fun _ _ => rfl, fun _ => rfl, fun _ => rfl⟩

end Sys2Proof.Machine
end

