-- ==== Sys2Proof/Laws/Memory.lean ====
section
/-! SUPPORT. Laws of memory and of the sparse maps: a read after a write, and the canonical form, which every operation keeps. -/

namespace Sys2Proof.Machine

variable {α : Type}

/-! ### Sparse maps -/

theorem sget_below (d : α) (m : Sparse α) (i : Nat) (h : ∀ p ∈ m, i < p.1) : sget d m i = d := by
  cases m with
  | nil => rfl
  | cons p r => simp [sget, h p (by simp)]

theorem swf_mono [DecidableEq α] (d : α) (m : Sparse α) {lo n : Nat} (h : n ≤ lo) (hw : swf d lo m = true) : swf d n m = true := by
  cases m with
  | nil => rfl
  | cons p r =>
    simp only [swf, Bool.and_eq_true, decide_eq_true_eq] at hw ⊢
    exact ⟨⟨by omega, hw.1.2⟩, hw.2⟩

theorem sget_lt [DecidableEq α] (d : α) (m : Sparse α) {lo i : Nat} (hw : swf d lo m = true) (h : i < lo) : sget d m i = d := by
  cases m with
  | nil => rfl
  | cons p r =>
    simp only [swf, Bool.and_eq_true, decide_eq_true_eq] at hw
    simp [sget, show i < p.1 by omega]

theorem sget_sput [DecidableEq α] (d : α) (m : Sparse α) (lo i : Nat) (y : α) (hw : swf d lo m = true) (j : Nat) :
    sget d (sput m i y) j = if j = i then y else sget d m j := by
  induction m generalizing lo with
  | nil =>
    simp only [sput, sget]
    repeat' split
    all_goals first | rfl | omega
  | cons p r ih =>
    obtain ⟨k, x⟩ := p
    simp only [swf, Bool.and_eq_true, decide_eq_true_eq] at hw
    have ih := ih (k + 1) hw.2
    simp only [sput]
    by_cases h1 : i < k
    · simp only [h1, if_true, sget]
      repeat' split
      all_goals first | rfl | omega
    · by_cases h2 : k = i
      · subst h2
        simp only [Nat.lt_irrefl, if_true, if_false, sget]
        repeat' split
        all_goals first | rfl | omega
      · simp only [h1, h2, if_false, sget, ih]
        repeat' split
        all_goals first | rfl | omega

theorem sget_sdel [DecidableEq α] (d : α) (m : Sparse α) (lo i : Nat) (hw : swf d lo m = true) (j : Nat) :
    sget d (sdel m i) j = if j = i then d else sget d m j := by
  induction m generalizing lo with
  | nil => simp [sdel, sget]
  | cons p r ih =>
    obtain ⟨k, x⟩ := p
    simp only [swf, Bool.and_eq_true, decide_eq_true_eq] at hw
    have ih := ih (k + 1) hw.2
    have hl : ∀ n, n ≤ k → sget d r n = d := fun n hn => sget_lt d r hw.2 (by omega)
    simp only [sdel]
    by_cases h1 : i < k
    · simp only [h1, if_true, sget]
      repeat' split
      all_goals first | rfl | omega
    · by_cases h2 : k = i
      · subst h2
        simp only [Nat.lt_irrefl, if_true, if_false, sget]
        repeat' split
        all_goals first | rfl | omega | exact hl _ (by omega)
      · simp only [h1, h2, if_false, sget, ih]
        repeat' split
        all_goals first | rfl | omega

/-- A read after a write of a map: the value at its key, and everything else as it was. -/
theorem sget_sset [DecidableEq α] (d : α) (m : Sparse α) (lo i : Nat) (y : α) (hw : swf d lo m = true) (j : Nat) :
    sget d (sset d m i y) j = if j = i then y else sget d m j := by
  unfold sset
  by_cases h : y = d
  · rw [if_pos h, sget_sdel d m lo i hw, h]
  · rw [if_neg h, sget_sput d m lo i y hw]

theorem swf_sput [DecidableEq α] (d : α) (m : Sparse α) (lo i : Nat) (y : α) (hw : swf d lo m = true) (hi : lo ≤ i) (hy : y ≠ d) :
    swf d lo (sput m i y) = true := by
  induction m generalizing lo with
  | nil => simp [sput, swf, hi, hy]
  | cons p r ih =>
    obtain ⟨k, x⟩ := p
    simp only [swf, Bool.and_eq_true, decide_eq_true_eq] at hw
    simp only [sput]
    by_cases h1 : i < k
    · simp only [h1, if_true, swf, Bool.and_eq_true, decide_eq_true_eq]
      exact ⟨⟨hi, hy⟩, ⟨by omega, hw.1.2⟩, hw.2⟩
    · by_cases h2 : k = i
      · subst h2
        simp only [Nat.lt_irrefl, if_true, if_false, swf, Bool.and_eq_true, decide_eq_true_eq]
        exact ⟨⟨hi, hy⟩, hw.2⟩
      · simp only [h1, h2, if_false, swf, Bool.and_eq_true, decide_eq_true_eq]
        exact ⟨hw.1, ih (k + 1) hw.2 (by omega)⟩

theorem swf_sdel [DecidableEq α] (d : α) (m : Sparse α) (lo i : Nat) (hw : swf d lo m = true) : swf d lo (sdel m i) = true := by
  induction m generalizing lo with
  | nil => rfl
  | cons p r ih =>
    obtain ⟨k, x⟩ := p
    have hw0 := hw
    simp only [swf, Bool.and_eq_true, decide_eq_true_eq] at hw
    simp only [sdel]
    by_cases h1 : i < k
    · simpa only [h1, if_true] using hw0
    · by_cases h2 : k = i
      · subst h2
        simpa only [Nat.lt_irrefl, if_true, if_false] using swf_mono d r (by omega) hw.2
      · simp only [h1, h2, if_false, swf, Bool.and_eq_true, decide_eq_true_eq]
        exact ⟨hw.1, ih (k + 1) hw.2⟩

/-- A write keeps the canonical form. -/
theorem swf_sset [DecidableEq α] (d : α) (m : Sparse α) (i : Nat) (y : α) (hw : swf d 0 m = true) : swf d 0 (sset d m i y) = true := by
  unfold sset
  split
  · exact swf_sdel d m 0 i hw
  · exact swf_sput d m 0 i y hw (by omega) ‹_›

/-- Taking entries away keeps the canonical form. -/
theorem swf_filter [DecidableEq α] (d : α) (p : Nat × α → Bool) (m : Sparse α) (lo : Nat) (hw : swf d lo m = true) :
    swf d lo (m.filter p) = true := by
  induction m generalizing lo with
  | nil => rfl
  | cons a r ih =>
    obtain ⟨k, x⟩ := a
    simp only [swf, Bool.and_eq_true, decide_eq_true_eq] at hw
    have := ih (k + 1) hw.2
    rw [List.filter_cons]
    split
    · simp only [swf, Bool.and_eq_true, decide_eq_true_eq]
      exact ⟨hw.1, this⟩
    · exact swf_mono d _ (by omega) this

/-! ### Memory -/

theorem memGet_memSet (m : List Host.Cell) (a : Nat) (b : Byte) (hw : memWf m = true) (i : Nat) :
    memGet (memSet m a b) i = if i = a then b else memGet m i := sget_sset _ _ 0 _ _ hw _

theorem memWf_memSet (m : List Host.Cell) (a : Nat) (b : Byte) (hw : memWf m = true) : memWf (memSet m a b) = true := swf_sset _ _ _ _ hw

theorem memWf_filter (p : Host.Cell → Bool) (m : List Host.Cell) (hw : memWf m = true) : memWf (m.filter p) = true := swf_filter _ _ _ _ hw

theorem memWf_foldl (cells : List Host.Cell) (m : List Host.Cell) (hw : memWf m = true) :
    memWf (cells.foldl (fun m c => memSet m c.1 c.2) m) = true := by
  induction cells generalizing m with
  | nil => exact hw
  | cons c r ih => exact ih _ (memWf_memSet _ _ _ hw)

/-- Every write of bytes at their homes keeps the canonical form. -/
theorem memWf_homeWrite (cells : List Host.Cell) (s : State) (hw : memWf s.dev.mem = true) : memWf (homeWrite cells s).dev.mem = true :=
  memWf_foldl cells _ hw

theorem memWf_homePut (l : Nat) (bs : List Byte) (s : State) (hw : memWf s.dev.mem = true) : memWf (homePut l bs s).dev.mem = true :=
  memWf_homeWrite _ s hw

theorem memWf_outside (s fresh : State) (hw : memWf s.dev.mem = true) : memWf (outside s fresh).dev.mem = true := memWf_filter _ _ hw

theorem memWf_zeroArea (lo n : Nat) (s : State) (hw : memWf s.dev.mem = true) : memWf (zeroArea lo n s).dev.mem = true := memWf_filter _ _ hw

theorem memWf_clearCell (s : State) (hw : memWf s.dev.mem = true) : memWf (clearCell s).dev.mem = true := hw

@[simp] theorem reconstruct_mem (b : Bool) (s : State) : (reconstruct b s).dev.mem = s.dev.mem := rfl

@[simp] theorem trainDram_mem (s : State) : (trainDram s).dev.mem = s.dev.mem := rfl

@[simp] theorem failedStart_mem (n : Nat) (w : Bool) (s t : State) : (failedStart n w s t).dev.mem = t.dev.mem := rfl

/-- A cold start keeps the canonical form that its kill leaves. -/
theorem memWf_coldStart (fail : Nat) (s : State) (hw : memWf (startKill s).dev.mem = true) : memWf (coldStart fail s).dev.mem = true := by
  have h0 := memWf_outside (startKill s) State.reset hw
  have h1 : ∀ (p q : Bool), memWf (if p = true then trainDram (reconstruct q (outside (startKill s) State.reset))
      else reconstruct q (outside (startKill s) State.reset)).dev.mem = true := fun p _ => by cases p <;> exact h0
  unfold coldStart
  dsimp only
  split
  · exact h1 ..
  · rw [failedStart_mem]; split
    · exact h1 ..
    · exact hw

theorem memWf_reset : memWf State.reset.dev.mem = true := rfl

theorem memGet_foldl_other (cells : List Host.Cell) (m : List Host.Cell) (hw : memWf m = true) (a : Nat) (h : a ∉ cells.map (·.1)) :
    memGet (cells.foldl (fun m c => memSet m c.1 c.2) m) a = memGet m a := by
  induction cells generalizing m with
  | nil => rfl
  | cons c r ih =>
    simp only [List.map_cons, List.mem_cons, not_or] at h
    rw [List.foldl_cons, ih _ (memWf_memSet _ _ _ hw) h.2, memGet_memSet _ _ _ hw, if_neg h.1]

theorem memGet_foldl_mem (cells : List Host.Cell) (m : List Host.Cell) (hw : memWf m = true) (hn : (cells.map (·.1)).Nodup) (c : Host.Cell)
    (h : c ∈ cells) : memGet (cells.foldl (fun m c => memSet m c.1 c.2) m) c.1 = c.2 := by
  induction cells generalizing m with
  | nil => simp at h
  | cons x r ih =>
    rw [List.map_cons, List.nodup_cons] at hn
    rcases List.mem_cons.mp h with rfl | h
    · rw [List.foldl_cons, memGet_foldl_other r _ (memWf_memSet _ _ _ hw) _ hn.1, memGet_memSet _ _ _ hw, if_pos rfl]
    · exact ih _ (memWf_memSet _ _ _ hw) hn.2 h

/-- A write of bytes at their homes leaves each written byte at its address, when no address is written twice. -/
theorem memGet_homeWrite (cells : List Host.Cell) (s : State) (hw : memWf s.dev.mem = true) (hn : (cells.map (·.1)).Nodup) :
    (∀ c ∈ cells, memGet (homeWrite cells s).dev.mem c.1 = c.2) ∧
      ∀ a, a ∉ cells.map (·.1) → memGet (homeWrite cells s).dev.mem a = memGet s.dev.mem a :=
  ⟨fun c h => memGet_foldl_mem cells _ hw hn c h, fun a h => memGet_foldl_other cells _ hw a h⟩

end Sys2Proof.Machine
end

