-- ==== Sys2Proof/Laws/Vector.lean ====
section
/-! SUPPORT. Laws of the words of the vector stream: what a word that is ready reads, and the one thing a computing word does then. -/

namespace Sys2Proof.Machine

theorem vword_ready (f : VWord) (body : State → State) (s : State) (h : VecReady f s) : vword f body s = body s := by
  obtain ⟨h1, hx, h2, h3⟩ := h
  have hs : mapVec (fun v => { v with ckWait := false }) s = s := by
    simp only [mapVec]; rw [← h3]
  have hc : checkpoint f s = .go s := by
    unfold checkpoint
    rw [h3]; simp only; rw [hs]
  unfold vword
  rw [if_neg (by rintro ⟨a, b, c⟩; have := h1 a b; omega), hx, hc]
  rcases h2 with h2 | h2 <;> simp [h2]

theorem readSrc_fixed (f : VWord) (o : Operand) (odd : Nat) (s : State) (h : ReadsFixed f s) :
    readSrc f.x o odd s = (⟨lanesNow true o odd s, marksNow true o odd s⟩, s) := by
  have hx (n : Nat) : xNow f.x n s = vget s.vec.x n 0 := by
    rcases h with h | h <;> simp [xNow, xFlying, h]
  cases o <;> simp [readSrc, lanesNow, marksNow, readTile, Src.none, readKeys, hx]
  rcases h with h | h <;> simp [h]

theorem readIf_fixed (f : VWord) (b : Bool) (o : Operand) (s : State) (h : ReadsFixed f s) :
    readIf b f.x o s = (⟨lanesNow b o 0 s, marksNow b o 0 s⟩, s) := by
  cases b
  · simp [readIf, lanesNow, marksNow, Src.none]
  · simp [readIf, readSrc_fixed f o 0 s h]

theorem readTile_fixed (f : VWord) (ks : List Nat) (s : State) (h : ReadsFixed f s) :
    readTile f.x ks s = (⟨ks.map (fun k => sget 0 s.vec.tile k), keyMarks s ks⟩, s) := by
  simp only [readTile, readKeys]
  rcases h with h | h <;> simp [h]

theorem checkFails_fixed (f : VWord) (r) (s : State) (h : ReadsFixed f s) : checkFails f r s = none := by
  unfold checkFails
  rcases h with h | h <;> simp [h]

theorem allAns_ok (l : List PortAns) (h : ∀ a ∈ l, a = PortAns.ok) : allAns l = .ok := by
  have h1 : ∀ p : PortAns → Bool, p .ok = false → l.find? p = none := by
    intro p hp; rw [List.find?_eq_none]; intro a ha; rw [h a ha, hp]; simp
  have h2 : ∀ p : PortAns → Bool, p .ok = false → l.any p = false := by
    intro p hp; rw [List.any_eq_false]; intro a ha; rw [h a ha, hp]; simp
  unfold allAns
  rw [h1 _ rfl, h2 _ rfl]; rfl

/-- A computing word that is ready captures its operands, pops its read ports, and puts its result on its way (R57, R114, R196). -/
theorem lane_ready (op : Nat) (f : VWord) (s : State) (h : LaneReady op f s) :
    laneWord op f s = vAdvance f (popPorts (readPorts f) (flyOn (laneFlight op f s) s)) := by
  obtain ⟨h0, h1, h2, h3, h4, h5, h6⟩ := h
  unfold laneWord
  rw [vword_ready _ _ _ h0]
  simp only
  have e1 : (!(portOf f.d).isEmpty && rollBad f s) = false := by
    cases hp : portOf f.d
    · simp
    · simp [h6 (by simp [hp])]
  have e2 : (!(portOf f.d).isEmpty && heldFull f s) = false := by
    cases hp : portOf f.d
    · simp
    · simp [h6 (by simp [hp])]
  rw [e1]; simp only [Bool.false_eq_true, if_false]
  rw [if_neg h1, e2]; simp only [Bool.false_eq_true, if_false]
  unfold laneIssue
  simp only []
  rw [if_neg (by rw [h3]; simp)]
  rw [allAns_ok _ (by simp only [List.mem_append, List.mem_map]; rintro a (⟨n, hn, rfl⟩ | ⟨n, hn, rfl⟩); exact h4 n hn; exact h5 n hn)]
  simp only [readIf_fixed _ _ _ _ h2]
  have hb : (if a40Source op f = true then readTile f.x (srcKeys (a40Source op f) f.a 1 s) s else ((⟨lanesNow (usesB op) f.b 0 s, marksNow (usesB op) f.b 0 s⟩ : Src), s)) =
     ((⟨(laneFlight op f s).b, if a40Source op f then keyMarks s (operandKeys f.a s.vec.repj (rotBase s) 1) else marksNow (usesB op) f.b 0 s⟩ : Src), s) := by
    cases ha : a40Source op f <;> simp [laneFlight, ha, readTile_fixed _ _ _ h2, srcKeys]
  rw [hb]
  simp only [readIf_fixed _ _ _ _ h2, checkFails_fixed _ _ _ h2]
  unfold laneCaptured
  simp only []
  rw [if_neg]
  · rfl
  · intro hc
    simp only [Bool.and_eq_true, Bool.not_eq_true', decide_eq_true_eq] at hc
    have hp : portOf f.d ≠ [] := by intro he; simp [he] at hc
    exact absurd ((h6 hp).2.2) hc.2

end Sys2Proof.Machine
end

