-- ==== Sys2Proof/Tests/Slice0.lean ====
section
/-! SUPPORT. The model's own tests: each check of well-formedness refuses an ill-formed word, worked values of the spec, rows of the
statements' tables for every instruction, and states that meet the hypotheses of each statement. -/

open Sys2Proof Sys2Proof.Machine

namespace Sys2Proof.Tests

set_option maxRecDepth 20000
set_option exponentiation.threshold 1100

/-! ### States -/

/-- A bound cell: c0 runs in a mode, regions 0 and 1 of the scratchpad are the task's, s2 and s4 hold its first address as an effective
address, every other register holds 0, and every rendezvous has fired. -/
def cellIn (sup : Bool) : State :=
  mapClus 0 (fun k =>
    { k with active := true, sup, wake := true, rdvArmed := true, s := (k.s.set 1 (0x8000000000000000#64)).set 3 (0x8000000000000000#64) })
    (mapCell (fun k => { k with spa := [(0, boundEntry 0 true), (1, boundEntry 0 true)], rv := Vector.replicate 8 { Rdv.zero with fired := true } })
      (openCell State.reset))

/-- A vector stream that runs in the cell. -/
def vecIn : State := mapVec (fun v => { v with running := true }) (cellIn false)

/-- A vector stream within a loop, a call, a mask and a segment that the next word closes. -/
def vecMid : State :=
  mapVec (fun v => { v with
    mask := [1], ret := [0], seg := ⟨true, false, 0, 0xFFFFFFFF, 1, 0⟩, x := v.x.set 1 (0x8000000000000040#64),
    loops := [{ start := 12, lc := 2, iter := 0, st := 0, r := false, drain := false, retry := false, sp := 1, rb := 0, ec := 0, len := 4,
                carry := 0, n := 2, rj := 0, roll := none, owner := 0 }] }) vecIn

/-- A vector stream whose x1 names a byte of device 5. -/
def vecGlob : State := mapVec (fun v => { v with x := v.x.set 1 (0x4005000000010000#64) }) vecIn

/-- Sync words of generation 9 at addresses 0x400, which x1 names, and 0x10000 of the own scratchpad; custom opcode 3 is bound to version 1, whose
image of one micro-op stands in bank 0. -/
def syncIn : State :=
  homePut (locSpad ownPos 0x10008) [9] <| homePut (locSpad ownPos 0x408) [9]
    (mapCell (fun k => { k with csTag := k.csTag.set 0 (some (0, 1, 1)), cst := k.cst.set 3 (BitVec.ofNat 64 (2 ^ 63 + 1)) })
      (mapVec (fun v => { v with x := v.x.set 1 (0x400#64) }) vecIn))

/-- A matrix stream that runs in the cell. -/
def matIn : State := mapMat (fun m => { m with running := true, seg := ⟨true, false, 0, 0xFFFFFFFF, 1, 0⟩ }) syncIn

/-- A custom unit that runs, within a micro-loop and under a micro-mask. -/
def unitIn : State :=
  mapVec (fun v => { v with cu := { Custom.zero with
    running := true, len := 8, enable := BitVec.allOnes 64, masks := [0xF], loops := [(1, 3)],
    f := { VWord.zero with d := .tile 0 0 0 0 false 0 } } }) vecIn

/-! ### Rows of the tables, for every word -/

/-- Whether a scalar word has a row in a table of the statements. -/
def hasRow (s : State) (i : Instr) : Bool :=
  (aluRow i).isSome || (actRow i s).isSome || (blockRow i s).isSome || (loadRow i).isSome || (storeRow i).isSome ||
    (rmwRow i).isSome || (branchRow i s).isSome || (csloadRow i s).isSome

/-- Whether a vector word has a row. -/
def hasVec (s : State) (i : Instr) : Bool :=
  (laneOp i).isSome || (xRow i).isSome || (vecRow i s).isSome || (pickRow i s).isSome || (memoryRow i s).isSome

/-- Whether a matrix word has a row. -/
def hasMat (s : State) (i : Instr) : Bool := (workRow i).isSome || (matRow i s).isSome

/-- Whether a micro-op has a row. -/
def hasUop (s : State) (i : Instr) : Bool :=
  (uopRow i).isSome || (uopControl i s).isSome || (match i with | .umpush _ => true | _ => false)

/-- Scalar words, part 1. -/
def scalarWords1 : List Instr :=
  [.nop false 0, .wfe false 0, .ppt false 0 1, .csload false 0 1 2 3, .add false 0 1 2 3, .sub false 0 1 2 3, .and false 0 1 2 3,
   .or false 0 1 2 3, .xor false 0 1 2 3, .andn false 0 1 2 3, .shl false 0 1 2 3, .shrl false 0 1 2 3, .shra false 0 1 2 3, .rotl false 0 1 2 3,
   .min false 0 1 2 3, .max false 0 1 2 3, .minn false 0 1 2 3, .maxn false 0 1 2 3, .cmpeq false 0 1 2 3, .cmpne false 0 1 2 3,
   .cmplt false 0 1 2 3, .cmpltn false 0 1 2 3, .clz false 0 1 2, .popc false 0 1 2, .sel false 0 1 2 3, .mul false 0 1 2 3, .mulh false 0 1 2 3,
   .mulhn false 0 1 2 3, .div false 0 1 2 3, .divn false 0 1 2 3, .rem false 0 1 2 3, .remn false 0 1 2 3]

/-- Scalar words, part 2. -/
def scalarWords2 : List Instr :=
  [.addi false 0 1 2 0, .andi false 0 1 2 0, .ori false 0 1 2 0, .xori false 0 1 2 0, .shli false 0 1 2 0, .shrli false 0 1 2 0,
   .shrai false 0 1 2 0, .cmpeqi false 0 1 2 0, .cmplti false 0 1 2 0, .limm false 0 1 0, .limms false 0 1 0, .mfsr false 0 1 0, .mtsr false 0 2 0,
   .ldb false 0 1 2 0, .ldh false 0 1 2 0, .ldw false 0 1 2 0, .ldd false 0 1 2 0, .ldws false 0 1 2 0, .stb false 0 4 2 0, .sth false 0 4 2 0,
   .stw false 0 4 2 0, .std false 0 4 2 0, .stf false 0 4 2 0, .amoAdd false 0 1 2 3 false, .amoAnd false 0 1 2 3 false,
   .amoOr false 0 1 2 3 false, .amoXor false 0 1 2 3 false, .amoMin false 0 1 2 3 false, .amoMax false 0 1 2 3 false, .amoMinn false 0 1 2 3 false,
   .amoMaxn false 0 1 2 3 false, .amoSwap false 0 1 2 3 false]

/-- Scalar words, part 3. -/
def scalarWords3 : List Instr :=
  [.cas false 0 1 2 3 false, .qalign false 0, .fenceCell false 0, .fenceQuad false 0, .fenceDie false 0, .fenceDev false 0, .fenceSys false 0,
   .fenceMs false 0, .br false 0 0, .beqz false 0 2 0, .bnez false 0 2 0, .bltz false 0 2 0, .bgez false 0 2 0, .call false 0 0, .jr false 0 5,
   .jtab false 0 1 2 0, .mark false 0 1 0, .rdvArm false 0 0 0 0, .rdvWait false 0 0, .rdvAw false 0 0 0 0, .fork false 0 1 2 3,
   .forkV false 0 1 2, .forkM false 0 1 3, .forkE false 0 1, .forkEV false 0 1, .forkEM false 0 1, .evsetLoad false 0 1 2, .evsetZero false 0 1,
   .evsetClear false 0 1, .evsetCount false 0 1 2, .job false 0 1 2, .swinit false 0 1 5 3]

/-- Scalar words, part 4. -/
def scalarWords4 : List Instr :=
  [.swinitZ false 0 1 5 3, .swait false 0 1 5 3, .swaddCell false 0 1 5 3, .swaddQuad false 0 1 5 3, .tlook false 0 1 2, .tset false 0 1 2 3,
   .tinvSlot false 0 1 2, .tinvKey false 0 1 2, .tinvAll false 0 1, .ringset false 0 1 2 3 0, .ringadvP false 0 1 2 0, .ringadvC false 0 1 2 0,
   .csbind false 0 1 2 3 0, .csbindU false 0 1 0, .csbindR false 0 1 0, .cgrp false 0 1 2 0, .cgrpD false 0 1 0, .cgrpQ false 0 1 0,
   .cgrpL false 0 1 0, .cldred false 0 1 2, .crot false 0 1 2, .cpair false 0 1 2, .logapp false 0 1 2, .logappA false 0 1 2, .logpull false 0 1 2,
   .msupd false 0 1 2, .captS false 0 1, .captW false 0 1 5, .digest false 0 1 2 0, .digestN false 0 1 0]

/-- Words of every vector instruction as Decode writes them out, part 1. -/
def vectorWords1 : List Nat :=
  [0xe000000000000000000000, 0x10000000000000000000000, 0x20000000000000000bffffd, 0x30000000000000000a00005, 0x40000000000000000a00009,
   0x50000000000000000000000, 0x600008a0000840000a000ca, 0x700000000008e0000a00000, 0x70000000000c20000a00001, 0x80000000000820000a00001,
   0x90000000000000000a00002, 0xa0000000000000000a00007, 0xb0000000000860000a00000, 0xb0000000000c30000a00001, 0xc1000000000000000a0001f,
   0xd0000000000000000000000, 0xe0000000000000000000000, 0xf0000000000000000a00005, 0x1000008000008200009e0000, 0x110000820000840000a00003,
   0x1200008400008600009e0000, 0x130000860000880000a00005, 0x1400008800008a00009e0000, 0x1500008a00008c0000a00007, 0x1600008c00008e00009e0000,
   0x170000820000c30000bffffc, 0x170000880000880000a10000, 0x180000860000400000a0003f, 0x190000020040840000920000]

/-- Words of every vector instruction as Decode writes them out, part 2. -/
def vectorWords2 : List Nat :=
  [0x1a0000820000000000a00010, 0x1b0000a00100840000000000, 0x1c0018820000840000a00001, 0x204801020040142020a7f800, 0x210688700000400000142020,
   0x220688700000400000142020, 0x230010020040400000a00003, 0x240010020040400000a00003, 0x250010020040400000a00003, 0x260688700000400000142020,
   0x270688700000400000142020, 0x280000020040142020000000, 0x290050020040142020000000, 0x2a0688700000400000142020, 0x2b0688700000400000142020,
   0x2c0688700000400000142020, 0x2d0688700000400000142020, 0x2e0688700000400000142020, 0x2f0688700000400000142020, 0x300688700000400000142020,
   0x310000020040142020a00003, 0x320008020040040000a00004, 0x330040020040142020142020, 0x340000020040142020bfffff, 0x350000020040142020000000,
   0x360010020040400000a00003, 0x370000020040142020020040, 0x380000020040142020000000, 0x400038020040142020c00000]

/-- Words of every vector instruction as Decode writes them out, part 3. -/
def vectorWords3 : List Nat :=
  [0x410038020040142020c00000, 0x420038020040142020c00000, 0x430038020040142020c00000, 0x440038020040142020c00000, 0x450038020040142020c00000,
   0x460038020040142020c00000, 0x470038020040142020c00000, 0x480038020040142020c00000, 0x490038020040142020c00000, 0x4a0028020040142020000000,
   0x4b0028020040142020000000, 0x4c0028020040142020000000, 0x4d0038020040142020c00000, 0x4e0038020040142020c00000, 0x4f0038020040142020c00000,
   0x500000020040400000000000, 0x510000020040400000000000, 0x520000020040400000000000, 0x530000020040400000000000, 0x540000020040400000000000,
   0x550000020040400000000000, 0x560000020040400000000000, 0x570000020040400000000000, 0x580000020040400000000000, 0x590000020040400000000000,
   0x5a0000020040400000000000, 0x5b0000020040400000000000, 0x5c0000020040400000000000, 0x5d0000020040400000000000]

/-- Words of every vector instruction as Decode writes them out, part 4. -/
def vectorWords4 : List Nat :=
  [0x5e0000020040400000000000, 0x5f0000020040400000000000, 0x60004f020040100049000000, 0x610048020040142020a0003f, 0x620048020040142020020040,
   0x630048020040142020bfffc1, 0x640000060000142800000000, 0x650018020040142020000000, 0x660008a00003142020000000, 0x670000020040a0001b000000,
   0x680020020040142020000000, 0x690048020040142020c30000, 0x6a0020020040a00002820000, 0x6b0018020040a00002820000, 0x700000000000020040000000,
   0x710000000000000000000000, 0x720000000000000000000000, 0x730000000000020040000000, 0x740000820000a00001000000, 0x750000000000820000a00001,
   0x780048020040820000bffffc, 0x790048020040820000bffffc, 0x7a0048020040820000bffffc, 0x7b0048020040820000bffffc, 0x7c0050020040820000142020,
   0x7d0000020040820000142020, 0x7e0000400000860000a00000, 0x7f0000780000000000a00001, 0xf30000040000020000c30000]

/-- Words of every matrix instruction, part 1. -/
def matrixWords1 : List Nat :=
  [0x0, 0x10000000000000000000000000000000000000000000000, 0x200000000000000000000000000000000000000fffffffe,
   0x300000000007000000000000000000000000000ffffffff, 0x40000000000000000000000090000000000000000000400,
   0x500000000000000000000000000000000000000000000ff, 0x60000000000000000000000000000000000000000000007,
   0x70000000000000000000000050000000600000000000000, 0x70000000000000000000000000000000000000000000001,
   0x100000010000000001000000020000000100000000000400, 0x11003020000bf00000000000000000000000000000000000,
   0x110714000000003000000000000000000000000000000000, 0x110118120000000000000000000000000000000000000000,
   0x11000c00000000002000000001000000020000033f800000, 0x12001211ffc0500000000000000000000000000000000000,
   0x13084f3000000ff000000000000000000000000080000000, 0x140000000000309000000000000000000000000000000008,
   0x150000000140900000000000000000000000000000000000, 0x1b0000000000000000000000000000000000000000000000,
   0x160000000000000f00000000000000000000000000000001, 0x170010100000100200000000000000000000000000000000,
   0x180000110000000000000004400000000300000000000400, 0x190000000000000000000000000000000000000000000000,
   0x1a100200000070000000000000000000000000003f800000, 0x1c0000000000000000000000000000000000000000000002]

/-- Words of every micro-op, part 1. -/
def microWords1 : List Nat :=
  [0x0, 0x410950200000000, 0x810950200000000, 0xc10950200000000, 0x104ff63800000000, 0x144ff63800000000, 0x184ff63800000000, 0x1c10950200000000,
   0x2010950200000000, 0x2410900200000000, 0x2810900200000000, 0x2c10950200000000, 0x3002218000000004, 0x3410950200000000, 0x3802200000000003,
   0x3c42200000000050, 0x408ff63800000000, 0x4410950200000000, 0x4810900200000000, 0x4c4ff63800000000, 0x520ff60000000000, 0x560ff60000000000,
   0x5a0ff60000000000, 0x5dcff63800000000, 0x620ff60000000000, 0x660ff60000000000, 0x6a0ff60000000000, 0x6e0ff60000000000, 0x720ff60000000000,
   0x760ff60000000000, 0x78c2d00000000000, 0x7cc2d00000000000]

/-- Words of every micro-op, part 2. -/
def microWords2 : List Nat :=
  [0x80c2d00000000000, 0x860ff60000000000, 0x8a0ff60000000000, 0x8dcff63800000000, 0x924220000000003f, 0x964220000000003f, 0x9a42250000000000,
   0x9d02200000000000, 0xa102200000000000, 0xa400b01400000009, 0xa800000000000000, 0xac00000000000103, 0xb000300000000000, 0xb400000000000000,
   0xb800000000000000, 0xc010900200000000, 0xc410900200000000, 0xc810900200000000, 0xcc10900200000000, 0xd010900200000000, 0xd410900200000000,
   0xd810900200000000, 0xdc10900200000000, 0xe010900200000000, 0xe410900200000000, 0xe810900200000000, 0xec10900200000000, 0xf010900200000000,
   0xf410900200000000, 0xf810900200000000, 0xfc10900200000000]

theorem test_scalar_rows_1 : scalarWords1.all (hasRow (cellIn true)) = true := by decide

theorem test_scalar_rows_2 : scalarWords2.all (hasRow (cellIn true)) = true := by decide

theorem test_scalar_rows_3 : scalarWords3.all (hasRow (cellIn true)) = true := by decide

theorem test_scalar_rows_4 : scalarWords4.all (hasRow (cellIn true)) = true := by decide

theorem test_vector_rows_1 :
    vectorWords1.all (fun w => (decodeWord 96 w).any (fun i => [vecIn, vecMid, vecGlob, syncIn].any (fun s => hasVec s i))) = true := by
  decide

theorem test_vector_rows_2 :
    vectorWords2.all (fun w => (decodeWord 96 w).any (fun i => [vecIn, vecMid, vecGlob, syncIn].any (fun s => hasVec s i))) = true := by
  decide

theorem test_vector_rows_3 :
    vectorWords3.all (fun w => (decodeWord 96 w).any (fun i => [vecIn, vecMid, vecGlob, syncIn].any (fun s => hasVec s i))) = true := by
  decide

theorem test_vector_rows_4 :
    vectorWords4.all (fun w => (decodeWord 96 w).any (fun i => [vecIn, vecMid, vecGlob, syncIn].any (fun s => hasVec s i))) = true := by
  decide

theorem test_matrix_rows : matrixWords1.all (fun w => (decodeWord 192 w).any (fun i => [matIn, vecIn].any (fun s => hasMat s i))) = true := by
  decide

theorem test_micro_rows_1 : microWords1.all (fun w => (decodeWord 64 w).any (hasUop unitIn)) = true := by decide

theorem test_micro_rows_2 : microWords2.all (fun w => (decodeWord 64 w).any (hasUop unitIn)) = true := by decide

/-! ### Ill-formed words (R69) -/

theorem test_wf_refuses_mark_of_no_engine : (Instr.mark false 0 0 5).wf = false := by decide

/-- A vector word whose type its opcode does not accept. -/
theorem test_wf_refuses_vector_type : (Instr.viadd { VWord.zero with t := 0 }).wf = false := by decide

/-- A vector word with a predicate stage and no predicate. -/
theorem test_wf_refuses_vector_stage : (Instr.vnop { VWord.zero with stg := 1 }).wf = false := by decide

/-- A vector word with an operand of a kind that its opcode does not take: VPOPC to an immediate. -/
theorem test_wf_refuses_vector_operand : (Instr.vpopc { VWord.zero with t := 3, d := .imm 0 }).wf = false := by decide

/-- A matrix word with a field that its opcode does not name. -/
theorem test_wf_refuses_matrix_field : (Instr.mswap { MWord.zero with cnt := 1 }).wf = false := by decide

/-- A micro-op with a field that its code does not name. -/
theorem test_wf_refuses_micro_field : (Instr.unop { UWord.zero with imm := 1 }).wf = false := by decide

theorem test_wf_accepts : (Instr.add false 0 1 2 3).wf = true ∧ (Instr.vnop VWord.zero).wf = true ∧ (Instr.mswap MWord.zero).wf = true ∧
    (Instr.unop UWord.zero).wf = true := by decide

/-! ### Worked values of the spec -/

/-- R130: in i8x4, VADDS of 0x70 and 0x20 gives 0x7F. -/
theorem test_vadds_i8 :
    (laneAt (vcompute { op := 0x4D, t := 7, src := 0, rep := 0, fa := .xreg 0, fb := .xreg 1, a := List.replicate 64 0x70707070, b := List.replicate 64 0x20202020, d := [], mtop := 0, en := 1, key := 0 }).lo 0).toNat % 256 = 0x7F := by decide

/-- R98: HALT of c0 with nothing left retires the task. -/
theorem test_halt_retires : (match exec (.halt false 0) (cellIn false) with | .next t => t.cell.bound | _ => true) = false := by decide

/-- R100: TRAP 5 in user mode: cause 0x08, INFO 5, TPC at the next word. -/
theorem test_trap : (match exec (.trap false 0 5) (cellIn false) with
    | .next t => ((clus t 0).tcause.toNat % 256, (clus t 0).tcause.toNat / 2 ^ 16, (clus t 0).tpc.toNat, (clus t 0).sup)
    | _ => (0, 0, 0, false)) = (8, 5, 4, true) := by decide

/-- R97: the word 0x0000_0000 is NOP, and a step runs it: the program counter moves on by 4. -/
theorem test_step_runs_nop : (match step (State.reset.withFetchWord 32 0) with | .next t => (clus t 0).pc.toNat | _ => 0) = 4 := by decide

/-- A micro-op placed in the control store runs as the next step. -/
theorem test_step_runs_micro_op : (match step (State.reset.withFetchWord 64 0) with | .next t => t.vec.cu.upc | _ => 0) = 1 := by decide

/-- A vector and a matrix word placed in memory run as the next step: VNOP moves the PC on by 12, MNOP by 24. -/
theorem test_step_runs_vector_word : (match step (State.reset.withFetchWord 96 0) with | .next t => t.vec.pc.toNat | _ => 0) = 12 := by decide

theorem test_step_runs_matrix_word : (match step (State.reset.withFetchWord 192 0) with | .next t => t.mat.pc.toNat | _ => 0) = 24 := by decide

/-! ### States that meet the hypotheses: scalar words -/

theorem wit_AluCompletes : (aluRow (.add false 0 1 2 3)).isSome = true ∧ Ready [2, 3] [1] (cellIn false) := by
  unfold Ready; decide

theorem wit_ResultLatency : (1 : BitVec 5) ≠ 0 ∧ 1 < 3 ∧ (cellIn false).gSnap = none ∧
    fixedPending (clus (cellIn false) (cellIn false).cur) [1] = false := by decide

theorem wit_SharedWordsComplete : (actRow (.wfe false 0) (cellIn false)).isSome = true ∧ Ready [] [0] (cellIn false) := by
  unfold Ready; decide

theorem wit_BlockWordsComplete : (blockRow (.msupd false 0 1 2) (cellIn false)).isSome = true ∧ Ready [2] [1] (cellIn false) := by
  unfold Ready; decide

theorem wit_LocalAccessesComplete_loads : ∃ x, loadRow (.ldd false 0 1 2 0) = some x ∧ Ready [x.a] [x.r] (cellIn false) ∧
    (x.addr (cellIn false)).toNat % x.size = 0 ∧
    xl 0 (clus (cellIn false) 0).sup .read (x.addr (cellIn false)) (cellIn false) = .ok (locSpad ownPos 0) { mt := 0, fmt := false, desc := 0 } :=
  ⟨_, rfl, by unfold Ready; decide, by decide, by rfl⟩

/-- A load of 4 bytes to s5 is under way. -/
def loading : State :=
  mapClus 0 (fun k => { k with loads := [{ dest := 5, size := 4, sext := true, loc := locSpad ownPos 0, dev := false, seq := 0 }] }) (cellIn false)

theorem wit_LoadReturns : ∃ e r, (clus loading 0).loads = e :: r ∧ e.dev = false ∧ e.size = 4 := ⟨_, _, rfl, rfl, rfl⟩

theorem wit_LocalAccessesComplete_stores : ∃ x, storeRow (.std false 0 1 2 0) = some x ∧ Ready [x.r, x.a] [] (cellIn false) ∧
    (x.addr (cellIn false)).toNat % x.size = 0 ∧
    xl 0 (clus (cellIn false) 0).sup .write (x.addr (cellIn false)) (cellIn false) = .ok (locSpad ownPos 0) { mt := 0, fmt := false, desc := 0 } :=
  ⟨_, rfl, by unfold Ready; decide, by decide, by rfl⟩

/-- A store that is visible at cell scope. -/
def storeE : StoreEnt :=
  { q := 0, grp := 0, wc := false, dev := false, seq := 0, stf := false, seen := [], bar := 0, vis := 0, cells := [(locSpad ownPos 0, 7), (locSpad ownPos 0 + 1, 0)] }

/-- The turn that performs it. -/
def storing : State :=
  { mapCell (fun k => { k with cellStores := [storeE] }) (cellIn false) with agenda := [{ turn := .storeHome 0, cycles := 0 }] }

theorem wit_StoreReachesHome : ∃ e rest, storing.agenda = { turn := .storeHome 0, cycles := 0 } :: rest ∧
    storing.cell.cellStores[0]? = some e ∧ (∀ x ∈ storing.cell.cellStores.take 0, x.overlaps e = false ∧ (x.q = e.q → mayPass x e = true)) ∧
    (∀ c ∈ e.cells, captureHolds storing c.1 = false) ∧ memWf storing.dev.mem = true ∧ (e.cells.map (·.1)).Nodup :=
  ⟨storeE, [], rfl, rfl, by decide, by decide, by decide, by decide⟩

theorem wit_AtomicsComplete : ∃ x, rmwRow (.amoAdd false 0 1 2 3 true) = some x ∧
    Ready (if x.cas then [x.a, x.b, x.d] else [x.a, x.b]) [x.d] (cellIn false) ∧ (readReg (cellIn false) 0 x.a).toNat % 8 = 0 ∧
    xl 0 (clus (cellIn false) 0).sup .atomic (readReg (cellIn false) 0 x.a) (cellIn false) = .ok (locSpad ownPos 0) { mt := 0, fmt := false, desc := 0 } ∧
    queuesEmpty (clus (cellIn false) 0) = true ∧ overlapsPending (cellIn false) (locSpad ownPos 0) 8 = false ∧
    captureHolds (cellIn false) (locSpad ownPos 0) = false ∧ poisoned (cellIn false) (locSpad ownPos 0) 8 = false ∧
    memWf (cellIn false).dev.mem = true :=
  ⟨_, rfl, by unfold Ready; decide, by decide, by rfl, by decide, by decide, by decide, by decide, by decide⟩

theorem wit_BranchesComplete : (branchRow (.beqz false 0 3 5) (cellIn false)).isSome = true ∧
    (branchRow (.jtab false 0 2 3 0) (cellIn false)).isSome = false ∧ (branchRow (.jr false 0 3) (cellIn false)).isSome = true ∧
    Ready [3] [0] (cellIn false) := by unfold Ready; decide

theorem wit_TrapWordTraps : Ready [] [] (cellIn false) ∧ (clus (cellIn false) 0).sup = false ∧ Ready [] [] (cellIn true) ∧
    (clus (cellIn true) 0).sup = true ∧ (cellIn true).cell.frozen = none := by unfold Ready; decide

/-- The first and the last supervisor register of the map, and the numbers beside them. -/
theorem wit_TrapsByMode_privilege : (clus (cellIn false) 0).sup = false ∧ srExists 0x200 = true ∧ srExists 0x37F = true ∧ srExists 0x1FFF = false := by
  decide

theorem wit_MisalignedTraps : ∃ x y z, loadRow (.ldw false 0 1 2 1) = some x ∧ Ready [x.a] [x.r] (cellIn false) ∧ (x.addr (cellIn false)).toNat % x.size ≠ 0 ∧
    storeRow (.sth false 0 1 2 1) = some y ∧ Ready [y.r, y.a] [] (cellIn false) ∧ (y.addr (cellIn false)).toNat % y.size ≠ 0 ∧
    rmwRow (.amoAdd false 0 1 5 3 true) = some z ∧ Ready [z.a, z.b] [z.d] (mapClus 0 (fun k => { k with s := k.s.set 4 4 }) (cellIn false)) ∧
    (readReg (mapClus 0 (fun k => { k with s := k.s.set 4 4 }) (cellIn false)) 0 z.a).toNat % 8 ≠ 0 :=
  ⟨_, _, _, rfl, by unfold Ready; decide, by decide, rfl, by unfold Ready; decide, by decide, rfl, by unfold Ready; decide, by decide⟩

theorem wit_TrapsByMode_double : (clus (cellIn true) 0).sup = true ∧ (cellIn true).cell.frozen = none ∧ srExists 0x1FFF = false ∧
    ∃ x y, loadRow (.ldw false 0 1 2 1) = some x ∧ Ready [x.a] [x.r] (cellIn true) ∧ (x.addr (cellIn true)).toNat % x.size ≠ 0 ∧
      storeRow (.sth false 0 1 2 1) = some y ∧ Ready [y.r, y.a] [] (cellIn true) ∧ (y.addr (cellIn true)).toNat % y.size ≠ 0 :=
  ⟨by decide, by decide, by decide, _, _, rfl, by unfold Ready; decide, by decide, rfl, by unfold Ready; decide, by decide⟩

/-- c0 in supervisor mode after a trap of its own, and after a trap of the vector stream. -/
def trapped (eng : Nat) : State :=
  mapVec (fun v => { v with delivered := decide (eng = 4) }) (mapClus 0 (fun k => { k with tcause := BitVec.ofNat 64 (4096 * eng), tpc := 0x100 }) (cellIn true))

theorem wit_EretReturns : Ready [] [] (trapped 3) ∧ (clus (trapped 3) 0).sup = true ∧ (clus (trapped 3) 0).tcause.toNat / 2 ^ 12 % 16 = 3 ∧
    Ready [] [] (trapped 4) ∧ (clus (trapped 4) 0).sup = true ∧ (clus (trapped 4) 0).tcause.toNat / 2 ^ 12 % 16 = 4 ∧ (trapped 4).vec.delivered = true := by
  unfold Ready; decide

/-- Cluster 1 runs a word of its own. -/
def second : State := { mapClus 1 (fun k => { k with active := true }) (cellIn false) with cur := 1 }

theorem wit_HaltCompletes : (Ready [] [] second ∧ second.cur ≠ 0 ∧ queuesEmpty (clus second second.cur) = true) ∧
    (Ready [] [] (cellIn false) ∧ (clus (cellIn false) 0).sup = false ∧ retireReady (cellIn false) = true) ∧
    (Ready [] [] (cellIn true) ∧ (clus (cellIn true) 0).sup = true) := by unfold Ready; decide

/-- A segment of one more word, whose signature agrees. -/
def segment : State := mapClus 0 (fun k => { k with seg := ⟨true, false, 0, 0xFFFFFFFF, 1, 0⟩ }) (cellIn false)

theorem wit_SegmentsComplete : (Ready [2] [] (cellIn false) ∧ (clus (cellIn false) 0).seg.opened = false) ∧
    (Ready [] [] segment ∧ (clus segment 0).seg.opened = true ∧ (clus segment 0).seg.voided = false ∧
      (clus segment 0).seg.count + 1 = (clus segment 0).seg.expCount ∧ ~~~ (clus segment 0).seg.crc = (clus segment 0).seg.expCrc) := by
  unfold Ready; decide

/-- A segment of a redundant pair, whose last word agrees with its own values and with the other member's. -/
def segmentPair : State :=
  mapCell (fun k => { k with task := { k.task with pair := true } }) (mapClus 0 (fun k => { k with seg :=
    ⟨true, false, (Config.freeWord 0).extractLsb' 32 32 - 1, ~~~ (Config.freeWord 0).extractLsb' 0 32,
      (Config.freeWord 0).extractLsb' 32 32, (Config.freeWord 0).extractLsb' 0 32⟩ }) (cellIn false))

theorem wit_SegmentsComplete_pair : Ready [] [] segmentPair ∧ (clus segmentPair 0).seg.opened = true ∧ (clus segmentPair 0).seg.voided = false ∧
    (clus segmentPair 0).seg.count + 1 = (clus segmentPair 0).seg.expCount ∧ ~~~ (clus segmentPair 0).seg.crc = (clus segmentPair 0).seg.expCrc ∧
    segmentPair.cell.task.pair = true ∧
    Config.freeWord segmentPair.freeCtr =
      (clus segmentPair 0).seg.expCrc.setWidth 64 ||| (clus segmentPair 0).seg.expCount.setWidth 64 <<< 32 := by
  have h : ∀ x : BitVec 64, x = (x.extractLsb' 0 32).setWidth 64 ||| (x.extractLsb' 32 32).setWidth 64 <<< 32 := by
    intro x; apply BitVec.eq_of_getLsbD_eq; intro i hi
    by_cases h : i < 32
    · simp [h, hi]
    · simp [h, hi, show 32 + (i - 32) = i by omega, show i - 32 < 32 by omega]
  refine ⟨by unfold Ready; decide, by decide, by decide, ?_, ?_, by decide, h _⟩
  · show (Config.freeWord 0).extractLsb' 32 32 - 1 + 1 = (Config.freeWord 0).extractLsb' 32 32
    exact BitVec.sub_add_cancel _ _
  · show ~~~ ~~~ (Config.freeWord 0).extractLsb' 0 32 = (Config.freeWord 0).extractLsb' 0 32
    exact BitVec.not_not

theorem wit_ReplayCompletes : Ready [3] [] (cellIn true) ∧ (clus (cellIn true) 0).sup = true ∧ byteAt (frameBytes 0x200 1 (cellIn true)) 0 ≤ 0 := by
  unfold Ready; decide

/-- Cluster 0 has started cluster 3 in this cycle. -/
def startedIn : State := { mapClus 3 (fun k => { k with active := true }) (cellIn false) with startedNow := [(3, 0)] }

/-- Cluster 3 halted; started by cluster 0 and written again by cluster 1; started by no cluster below cluster 0. -/
theorem wit_ClusterGoStarts : (clus (cellIn false) 3).active = false ∧ (8#4).getLsbD 3 = true ∧
    ((clus startedIn 3).active = true ∧ (3, 0) ∈ startedIn.startedNow ∧ 0 < (1 : Fin 4).val) ∧
    (clus (clusterGo 1 8 startedIn) 3).sPoison = Vector.replicate 23 false ∧ clus (clusterGo 0 8 startedIn) 3 = clus startedIn 3 := by
  decide

/-! ### States that meet the hypotheses: vector words -/

/-- VADD.f32 of rows of tiles 0 and 1 to tile 2. -/
def vaddF : VWord :=
  { VWord.zero with d := .tile 0 2 0 0 false 0, a := .tile 0 0 0 0 false 0, b := .tile 0 1 0 0 false 0 }

/-- A delivered trap whose frame holds one entry, a VADD to tile 2 of one lane. -/
def replayIn : State :=
  framePut 0x200 [1] (framePut 0x240 (leBytes 12 (encodeVec 0x20 vaddF) ++ [1, 0, 1, 0, 1]) (mapVec (fun v => { v with delivered := true }) (cellIn true)))

/-- Whether an entry would land in a tile. -/
def replays (o : Option Flight) : Bool :=
  match o with
  | some fl => fl.valid && !fl.store && decide (fl.f.d = .tile 0 2 0 0 false 0)
  | none => false

theorem wit_ReplayCompletes_entry : Ready [3] [] replayIn ∧ (clus replayIn 0).sup = true ∧ replayIn.vec.delivered = true ∧
    (readReg replayIn 0 3).toNat % 32 = 0 ∧ 0 < byteAt (frameBytes 0x200 1 replayIn) 0 ∧
    replays (flightFrom (lset (frameBytes 0x240 832 replayIn) 12 1) (captOf replayIn 0)) = true := by
  unfold Ready; set_option maxRecDepth 20000 in decide

/-- A word that pops port 0, and one that pushes to port 6. -/
def popF : VWord := { vaddF with a := .port 0 }

def pushF : VWord := { vaddF with d := .port 6 }

/-- A port of one element. -/
def portOne : Port := { Port.zero with cfg := true, block := List.replicate 32 0 }

/-- One entry of a port, with the number of its push and of its group. -/
def entryOf (fill : BitVec 64) : PortEnt := { lanes := List.replicate 64 1, pois := 0, fill, pending := none, seq := 0, grp := 0 }

/-- Port 0 holds its entry; port 6 has room. -/
def portIn : State :=
  mapVec (fun v => { v with ports := (v.ports.set 6 portOne).set 0 { portOne with
    pos := 1, entries := [entryOf 1] } }) vecIn

theorem wit_LaneWordsComplete : laneOp (.vadd vaddF) = some (0x20, vaddF) ∧ LaneReady 0x20 vaddF vecIn ∧ vecIn.vec.loops = [] := by
  unfold LaneReady VecReady ReadsFixed; decide

theorem wit_LaneWordsComplete_ports : LaneReady 0x20 popF portIn ∧ LaneReady 0x20 pushF portIn ∧ popF.d ≠ .port 6 := by
  unfold LaneReady VecReady ReadsFixed; decide

/-- A result of VIADD to tile 2 is due. -/
def addFlight : Flight := { laneFlight 0x40 { vaddF with t := 3 } vecIn with left := 1 }

theorem wit_LandingWrites : addFlight.valid = true ∧ (0x20 ≤ addFlight.op ∧ addFlight.op ≤ 0x6B ∧ addFlight.op ≠ 0x66) ∧
    addFlight.f.d = .tile 0 2 0 0 false 0 ∧ (vcompute (flightIn addFlight)).hi = none ∧ swf 0 0 vecIn.vec.tile = true := by decide

/-- x3 + 5 to x2. -/
def xF : VWord := { VWord.zero with d := .xreg 2, a := .xreg 3, b := .imm 5 }

theorem wit_XWordsComplete : (xRow (.xadd xF)).isSome = true ∧ VecReady xF vecIn ∧ predOn xF vecIn = true ∧
    predOn { xF with s := true, stg := 1 } vecMid = false ∧ VecReady { xF with s := true, stg := 1 } vecMid := by unfold VecReady; decide

theorem wit_VectorControlCompletes : (vecRow (.vnop VWord.zero) vecIn).isSome = true ∧ VecReady VWord.zero vecIn ∧
    predOn VWord.zero vecIn = true := by unfold VecReady; decide

/-- XGET of lane 0 of a tile to x2. -/
def pickF : VWord := { VWord.zero with d := .xreg 2, a := .tile 0 0 0 0 false 0, b := .imm 0 }

theorem wit_PickWordsComplete : (pickRow (.xget pickF) vecIn).isSome = true ∧ PickReady pickF vecIn := by
  unfold PickReady VecReady ReadsFixed; decide

/-- VLD.x4 from x1 of the scratchpad to tile 2. -/
def vldF : VWord := { VWord.zero with d := .tile 0 2 0 0 false 0, a := .xreg 1, b := .imm 0 }

theorem wit_VectorMemoryCompletes : (memoryRow (.vld vldF) vecMid).isSome = true ∧ MemoryReady false vldF vecMid ∧
    (memoryRow (.vldg vldF) vecGlob).isSome = true ∧ MemoryReady false vldF vecGlob := by
  unfold MemoryReady VecReady ReadsFixed; decide

theorem wit_LaneWordsComplete_ends : vecIn.vec.loops = [] ∧ vecIn.vec.repj = 0 ∧ (mapVec (fun v => { v with repj := 1 }) vecIn).vec.loops = [] := by decide

/-- A full mask stack and a full return stack; x5 of an open segment. -/
def fullIn : State :=
  mapVec (fun v => { v with mask := List.replicate 16 1, ret := List.replicate 8 0, seg := ⟨true, false, 0, 0xFFFFFFFF, 9, 0⟩ }) vecIn

theorem wit_VectorIllegalTraps : VecReady { xF with b := .imm 1 } fullIn ∧ predOn { xF with b := .imm 1 } fullIn = true ∧
    (immNat (Operand.imm 1) = 1 ∧ 16 ≤ fullIn.vec.mask.length) ∧ 8 ≤ fullIn.vec.ret.length ∧ fullIn.vec.seg.opened = true ∧
    VecReady xF fullIn ∧ predOn xF fullIn = true ∧ VecReady xF vecIn ∧ predOn xF vecIn = true ∧ vecIn.vec.mask = [] ∧ vecIn.vec.ret = [] ∧ vecIn.vec.loops = [] := by
  unfold VecReady; decide

/-! ### States that meet the hypotheses: matrix words -/

/-- Rings 1 and 2 hold two tiles each of 1536 bytes, BF16 rows. -/
def ringIn : State :=
  mapCell (fun k => { k with rings := (k.rings.set 1 ⟨true, 0, 1536, 4, 0, 2, 2⟩).set 2 ⟨true, 8192, 1536, 4, 0, 2, 2⟩ }) matIn

/-- The word of a test: BF16 rows of ring 1 (and 2), two rows, no scale. -/
def matF : MWord := { MWord.zero with ra := 1, rb := 0, fda := 1, fdb := 1, cnt := 1 }

/-- The matrix sequencer within a piece of work. -/
def working (w : MWork) : State := mapMat (fun m => { m with work := some w }) ringIn

theorem wit_MatrixControlCompletes : (matRow (.mnop MWord.zero) matIn).isSome = true ∧ matIn.mat.work = none := by decide

theorem wit_MatrixWorkStarts : workRow (.mstepRow matF) = some (0x11, matF) ∧ MatFree ringIn ∧ WorkPasses 0x11 matF ringIn := by
  unfold MatFree WorkPasses; decide

theorem wit_MatrixWorkStarts_drain : workRow (.mdrain matF) = some (0x13, matF) ∧ MatFree ringIn ∧ WorkPasses 0x13 matF ringIn := by
  unfold MatFree WorkPasses; decide

theorem wit_MatrixFaultFreezes : MatFree ringIn ∧ 191 < ({ matF with cnt := 192 } : MWord).cnt.toNat ∧
    (vget ringIn.cell.rings 3 Ring.zero).cfg = false ∧ nb (0x00020000#32).toNat 17 14 ≠ 0 ∧ (0x00020000#32).getLsbD 31 = false := by
  unfold MatFree; decide

theorem wit_MatrixTableWordsComplete : MatFree matIn ∧ swf 0 0 matIn.mat.acc = true ∧ matIn.mat.accP.Pairwise (· < ·) ∧ auxAt MWord.zero.aux = .addr 0 ∧
    MWord.zero.sco.toNat + MWord.zero.cnt.toNat ≤ 255 ∧ regionFault matIn .read 0 384 = none ∧ regionPlain matIn 0 384 = true ∧ swf 0 0 matIn.mat.scale = true ∧
    regionFault matIn .read 0 128 = none ∧ nestBad (BitVec.ofNat 1024 (leNat (cellBytes 5 matIn (locSpad ownPos 0) 128))) = false := by
  unfold MatFree; decide

/-- MLOADW of two BF16 rows. -/
def loadF : MWord := { MWord.zero with fdb := 5, cnt := 1, sco := 3 }

theorem wit_MatrixLoadCompletes : MatFree matIn ∧ auxAt loadF.aux = .addr 0 ∧ WorkPasses 0x10 loadF matIn ∧
    loadFmt matIn (workOf 0x10 loadF matIn) 0 = .ok (.wide 1) := by unfold MatFree WorkPasses; exact ⟨by decide, by decide, by decide, by rfl⟩

theorem wit_MatrixStepCompletes : MatFree ringIn ∧ WorkPasses 0x11 matF ringIn ∧ matF.rb.toNat / 4 ≤ 1 ∧ matF.flg.getLsbD 2 = false ∧
    swf 0 0 ringIn.mat.acc = true ∧ ringFmt ringIn 1 1 (workOf 0x11 matF ringIn).fdA = .ok (.wide 1) ∧ 0 < (ringOf ringIn 1).count ∧
    matF.cnt.toNat ≤ 191 ∧ vget ringIn.mat.rd 1 0 + (matF.cnt.toNat + 1) * (RowFmt.wide 1).pitch true < (ringOf ringIn 1).size := by
  unfold MatFree WorkPasses
  exact ⟨by decide, by decide, by decide, by decide, by decide, by rfl, by decide, by decide, by decide⟩

/-- An outer product of rings 1 and 2, at a row. -/
def outerW (row : Nat) (aRows : List (List Byte × List Bool)) : MWork :=
  { workOf 0x12 { matF with rb := 2 } ringIn with begun := true, row, aRows }

theorem wit_MatrixOuterRuns : (secondRing (outerW 0 []) ≠ 1 ∧ (outerW 0 []).begun = true ∧ (outerW 0 []).popping = false ∧ (outerW 0 []).drain = false ∧ (outerW 0 []).op = 0x12) ∧
    ringFmt (working (outerW 0 [])) 1 1 (outerW 0 []).fdA = .ok (.wide 1) ∧ ringFmt (working (outerW 0 [])) 2 1 (outerW 0 []).fdB = .ok (.wide 1) ∧
    ((outerW 0 []).row ≤ 1 ∧ (outerW 0 []).aRows.length ≤ 0 ∧ 0 < (ringOf (working (outerW 0 [])) 1).count) ∧
    (0 < (outerW 0 [([], [])]).aRows.length ∧ 0 < (ringOf (working (outerW 0 [([], [])])) 2).count) ∧
    (1 < (outerW 2 []).row ∧ (outerW 2 []).f.flg.getLsbD 2 = false ∧ swf 0 0 (working (outerW 2 [])).mat.acc = true) :=
  ⟨by decide, by rfl, by rfl, by decide, by decide, by decide⟩

/-- A drain of two f32 rows to address 0, at a row. -/
def drainW (row : Nat) : MWork := { workOf 0x13 MWord.zero ringIn with begun := true, row, f := { MWord.zero with cnt := 1 } }

theorem wit_MatrixDrainWrites : (working (drainW 0)).mat.work = some (drainW 0) ∧ auxAt (drainW 0).f.aux = .addr 0 ∧
    rowFmt (working (drainW 0)) 0 0 (drainW 0).fdA drainWides = .ok (.wide 0) ∧ memWf (working (drainW 0)).dev.mem = true ∧
    ((drainW 0).row ≤ 1 ∧ matBlocked (working (drainW 0)) 0 ((RowFmt.wide 0).bytes false) = false) ∧ 1 < (drainW 2).row :=
  ⟨by rfl, by decide, by rfl, by decide, by decide, by decide⟩

/-- MNORM of one BF16 row of each operand. -/
def normF : MWord := { MWord.zero with fda := 1, fdb := 1, toc := 1 }

/-- A norm state of one entry of norm 1. -/
def normIn : State :=
  mapMat (fun m => { m with sam := { m.sam with k := 1, nv := true, tv := true, total := 0x3F800000, n := [(0, 0x3F800000)] } }) ringIn

theorem wit_SamplerWordsComplete : MatFree normIn ∧ normF.aux.toNat / 2 ^ 17 % 2 ^ 15 = 0 ∧ normF.tor.toNat / 2 ^ 17 % 2 ^ 15 = 0 ∧ normK normIn normF = .ok 1 ∧
    normFmt normIn 0 1 1 (vget normIn.cell.fd 1 0) = .ok (.wide 1) ∧ normIn.mat.sam.nv = true ∧ auxAt MWord.zero.aux = .addr 0 ∧
    regionFault normIn .write 0 64 = none ∧ matBlocked normIn 0 64 = false ∧ memWf normIn.dev.mem = true := by
  unfold MatFree
  exact ⟨by decide, by decide, by decide, by rfl, by rfl, by decide, by decide, by decide, by decide, by decide⟩

/-- Two norms, 1.0 and 3.0, with their total. -/
def aliasIn : State :=
  mapMat (fun m => { m with sam := { m.sam with k := 2, nv := true, total := 0x40800000, n := [(0, 0x3F800000), (1, 0x40400000)] } }) normIn

theorem wit_SamplerWordsComplete_alias : normCode aliasIn.mat.sam = 2 ∧ swf 0 0 aliasIn.mat.sam.al = true ∧ swf 0 0 aliasIn.mat.sam.sc = true ∧
    aliasIn.mat.sam.k ≤ 4096 ∧ codeNeg fmt32 aliasIn.mat.sam.total.toNat = false ∧
    (∀ k, k < aliasIn.mat.sam.k → codeNeg fmt32 (sget 0 aliasIn.mat.sam.n k).toNat = false) ∧
    normCode (mapMat (fun m => { m with sam := { m.sam with total := 0 } }) normIn).mat.sam ≠ 2 := by
  refine ⟨by decide, by decide, by decide, by decide, by decide, ?_, by decide⟩
  intro k hk
  have h : k < 2 := hk
  match k, h with
  | 0, _ => decide
  | 1, _ => decide


/-- A sampling word at its first sample. -/
def sampW : MWork := { workOf 0x1A MWord.zero normIn with begun := true }

def sampling : State := mapMat (fun m => { m with work := some sampW }) normIn

theorem wit_SamplesDraw : normCode sampling.mat.sam = 2 ∧ sampW.row ≤ sampW.f.cnt.toNat ∧ (drawPair sampW (stepArgs sampling sampW) sampling).isSome = true ∧
    normCode matIn.mat.sam ≠ 2 ∧ sampW.f.flg.getLsbD 2 = false := by decide

/-- A nest of two steps, of which the first pops two tiles. -/
def nestW (pops : Nat) : MWork := { workOf 0x17 matF ringIn with begun := true, popping := true, pops }

def nesting (pops bound : Nat) : State :=
  mapMat (fun m => { m with work := some (nestW pops), nestA := m.nestA.set 0 (BitVec.ofNat 1024 bound) }) ringIn

theorem wit_NestAdvances : (nestW 2).pops ≠ 0 ∧ (ringOf (nesting 2 1) 1).count ≠ 0 ∧ (nestNext (nestOf (nesting 0 1) (nestW 0)) (nestW 0).idx).isSome = true ∧
    (∀ k, k < 6 → ¬((nestW 0).idx[k]?.getD 0 < nestField (nestOf (nesting 0 0) (nestW 0)) k 0 16)) := by decide

/-! ### States that meet the hypotheses: micro-ops -/

/-- UADD of h8 = a and h9 = b to h1, and UMPUSH of h2. -/
def uaddF : UWord := { UWord.zero with ut := 0, dst := 1, s1 := 9, s2 := 10 }

def umpushF : UWord := { UWord.zero with s1 := 2 }

theorem wit_MicroOpsComplete_compute : (uopRow (.uadd uaddF)).isSome = true ∧ UopReady unitIn ∧ unitIn.vec.cu.top ≠ 0 ∧ SourcesReady [9, 10] unitIn ∧
    (mapVec (fun v => { v with cu := { v.cu with masks := [0] } }) unitIn).vec.cu.top = 0 := by
  unfold UopReady SourcesReady; decide

theorem wit_MicroOpsComplete_control : UopReady unitIn ∧ (uopControl (.unop UWord.zero) unitIn).isSome = true ∧ unitIn.vec.cu.masks.length < 4 ∧
    SourcesReady [2] unitIn := by unfold UopReady SourcesReady; decide

/-- A result that is due: for temporary h7, the last one, and for D. -/
def landing (dst : BitVec 5) : State :=
  mapVec (fun v => { v with cu := { v.cu with adv := true, flights :=
    [{ code := 1, f := { uaddF with dst }, left := 1, en := 1, pois := 0, res := List.replicate 64 5 }] } }) unitIn

theorem wit_MicroResultsLand : (landing 7).vec.cu.running = true ∧ (landing 7).vec.cu.adv = true ∧ (landing 7).vec.cu.stopped = false ∧
    (landing 7).vec.cu.ending = false ∧ (landing 7).vec.cu.flights.length = 1 ∧ (7 : BitVec 5).toNat < 8 ∧
    (landing 8).vec.cu.flights.length = 1 ∧ portOf (landing 8).vec.cu.f.d = [] ∧ swf 0 0 (landing 8).vec.tile = true := by decide

theorem wit_MicroTraps : (unitIn.vec.cu.running = true ∧ unitIn.vec.cu.stopped = false ∧ unitIn.vec.cu.ending = false ∧ unitIn.cell.frozen = none ∧
      unitIn.vec.trap = none ∧ unitIn.vec.flights = [] ∧ unitIn.vec.cu.flights = [] ∧ unitIn.vec.cu.count < 65536) ∧
    4 ≤ (mapVec (fun v => { v with cu := { v.cu with masks := [1, 1, 1, 1] } }) unitIn).vec.cu.masks.length ∧
    (mapVec (fun v => { v with cu := { v.cu with masks := [] } }) unitIn).vec.cu.masks = [] ∧
    65536 ≤ (mapVec (fun v => { v with cu := { v.cu with count := 65536 } }) unitIn).vec.cu.count ∧
    Instr.uminv UWord.zero ∈ ([.unop UWord.zero, .uloop UWord.zero, .ulend UWord.zero, .uskip UWord.zero, .umpush UWord.zero, .umpop UWord.zero,
      .uminv UWord.zero] : List Instr) := by decide

/-! ### States in which the events come about -/

/-- Every event of a list comes about in its state. -/
def fires (f : Instr → State → Option (State → Prop)) (l : List (Instr × State)) : Bool := l.all (fun p => (f p.1 p.2).isSome)

/-- Outputs of the event board that no destination has taken, and a pulse. -/
def boardIn (outs : List (BitVec 32)) : State :=
  mapCell (fun k => { k with sluice := { k.sluice with outs, pulses := [(1, 0)] } }) (cellIn false)

/-- A terminal whose counter has reached its threshold. -/
def termIn : State :=
  mapCell (fun k => { k with sluice := { k.sluice with
    cnt := k.sluice.cnt.set 2 (0x01000080#32), counts := k.sluice.counts.set 2 (0xFFFF#32),
    terms := k.sluice.terms.set 0 { masks := (Vector.replicate 4 0).set 0 (4#16), out := 1 } } }) (cellIn false)

/-- A trap of the vector stream that waits for its delivery with its frame. -/
def trapIn : State :=
  mapVec (fun v => { v with trap := some { eng := 4, code := 1, info := 0, tpc := 0, tval := 0, keep := true } }) vecIn

/-- The last results of a vector stream and of a cluster are on their way. -/
def dueIn : State :=
  mapClus 0 (fun k => { k with pend := [{ reg := 5, val := 7, mark := false, left := 1 }] }) (mapVec (fun v => { v with adv := true }) vecIn)

theorem wit_EngineEventsComplete : fires engineEvent
    [(.clustergoWrite 0 2, cellIn false), (.preemptYield, cellIn false),
     (.preemptHoldExpiry, mapCell (fun k => { k with pReq := true, pHold := true }) (cellIn false)), (.trapDelivery, trapIn),
     (.wfeWake 0, cellIn false), (.reeveResultLand 0, dueIn), (.matrixWordComplete, matIn), (.rdvWaitRelease 6, matIn), (.syncWaitRelease 6, matIn),
     (.sluicePulse, boardIn []), (.sluiceTermFire 0, termIn), (.sluiceVectorResume, boardIn [1]), (.sluiceMatrixResume, boardIn [2]),
     (.sluiceJobRelease 7, boardIn [0x703]), (.sluiceCollRelease, boardIn [4]), (.sluiceWake 9, boardIn [0x90005]), (.vectorResultLand, dueIn),
     (.vectorStoreLand, dueIn)] = true := by decide

/-- A result of VADD to tile 2 is due, and one to port 6. -/
def landIn (d : Operand) : State := mapVec (fun v => { v with adv := true, flights := [{ addFlight with f := { addFlight.f with d } }] }) portIn

theorem wit_EngineEventsComplete_results : (engineEvent .vectorResultLand (landIn addFlight.f.d)).isSome = true ∧ addFlight.left = 1 ∧
    (landed addFlight (landIn addFlight.f.d)).isSome = true ∧
    (landed { addFlight with f := { addFlight.f with d := .port 6 } } (landIn (.port 6))).isSome = true := by decide

/-- A VST of one tile row to the scratchpad, due, and parked with the number 9. -/
def stFlight : Flight := { storeFlight 0x79 { vldF with d := .tile 0 2 0 0 false 0 } vecMid with left := 1 }

def stIn : State := mapVec (fun v => { v with adv := true, flights := [stFlight] }) vecMid

def parkIn : State := mapVec (fun v => { v with parked := [(9, stFlight)] }) vecMid

/-- Whether a store resolves off strongly ordered pages. -/
def resolves (fl : Flight) (s : State) : Bool :=
  match resolveStore fl s with
  | .ok (g, _) => decide (g.mt ≠ 3)
  | _ => false

theorem wit_EngineEventsComplete_stores : (engineEvent .vectorStoreLand stIn).isSome = true ∧ (engineEvent .vectorStoreLand parkIn).isSome = true ∧
    (stFlight.valid = true ∧ stFlight.store = true ∧ isStoreOp stFlight.op = true ∧ stFlight.en ≠ 0) ∧ stIn.vec.parked = [] ∧
    resolves { stFlight with left := 0 } { stIn with vec := { stIn.vec with flights := [], seqCtr := stIn.vec.seqCtr + 1 } } = true ∧
    resolves stFlight parkIn = true := by decide

/-! ### Sequencers that wait -/

/-- A matrix and a vector word that waits, with every rendezvous fired. -/
def waitMat (w : Nat) (k : WaitKind) : State :=
  mapMat (fun m => { m with stat := .waiting, wait := k }) (mapCell (fun c => { c with rv := Vector.replicate 8 { Rdv.zero with fired := true }, spa := [(0, boundEntry 0 true)] })
    (State.reset.withFetchWord 192 w))

def waitVec (w : Nat) (k : WaitKind) : State :=
  mapVec (fun m => { m with stat := .waiting, wait := k }) (mapCell (fun c => { c with rv := Vector.replicate 8 { Rdv.zero with fired := true } })
    (State.reset.withFetchWord 96 w))

/-- MRDV and VRDV of rendezvous 7 are released; MWAIT for generation 0 of the sync word at 0x400. -/
theorem wit_EngineEventsComplete_waits : fires engineEvent
    [(.rdvWaitRelease 5, waitMat 0x060000000000000000000000000000000000000000000007 .rendezvous),
     (.rdvWaitRelease 4, waitVec 0x0A0000000000000000A00007 .rendezvous),
     (.syncWaitRelease 5, waitMat 0x040000000000000000000000000000000000000000000010 .sync)] = true := by decide

/-! ### The tables of context 1 -/

/-- Context 1: its record at 0x10100 names tables from 0x20000; page 3 of its addresses is DRAM page 5, whose capture is due. -/
def mapped : State :=
  let put (a n v : Nat) (s : State) : State := homePut a (leBytes n v) s
  mapDev (fun d => { d with ctxtBase := 0x10000, ctxtN := 2 })
    (put 0x10100 8 0x20000 <| put 0x10120 8 0x30000 <| put 0x1013A 1 1 <| put 0x10160 8 0x100000003 <| put 0x20000 8 0x21001 <|
      put 0x21000 8 0x22001 <| put 0x22000 8 0x23001 <| put 0x23018 8 0x5180F (cellIn false))

/-- A page of the context whose table entry is not valid. -/
def walk (va : Nat) : Walk := { ctx := 1, vpn := va / 65536, va, kind := 1, eng := 0, joined := [0], want := [(0, 1, false)], stale := false }

def fault (written : Bool) : PFault := { id := 7, walk := walk 0x40000, level := 3, written }

theorem wit_TranslationEventsComplete : fires translationEvent
    [(.walkComplete 0, mapDev (fun d => { d with walks := [walk 0x30000] }) mapped),
     (.walkComplete 0, mapDev (fun d => { d with walks := [walk 0x40000] }) mapped),
     (.walkComplete 0, mapDev (fun d => { d with walks := [walk 0x40000], faults := [fault true] }) mapped),
     (.faultQueueRoom, mapDev (fun d => { d with faults := [fault false] }) mapped),
     (.pfresRetry 7, mapDev (fun d => { d with faults := [fault true] }) mapped), (.pfresInvalid 7, mapDev (fun d => { d with faults := [fault true] }) mapped),
     (.tlbinvPage 1 3, mapped), (.tlbinvContext ⟨1, 3⟩, mapped), (.tlbinvAll, mapped), (.tlbinvComplete, mapDev (fun d => { d with tlbInv := 1 }) mapped),
     (.contextDeparture 1, mapped)] = true := by decide

/-- An image of one word, UADD with END, at 0x30000 of context 1, for a supervisor whose s2 names it. -/
def imageIn : State :=
  mapClus 0 (fun k => { k with sup := true, s := k.s.set 1 0x30000 })
    (mapCell (fun k => { k with task := { k.task with ctx := 1 }, tlb := [{ ctx := 1, big := false, vpn := 3, leaf := 0x5180F }] })
      (homePut 0x50000 (leBytes 4 0x10001 ++ List.replicate 60 0 ++ leBytes 8 0x410950200000000) mapped))

/-- Its verifier has one cycle left, or the status is due. -/
def verifying (left : Nat) : State :=
  mapClus 0 (fun k => { k with csl := some { bank := 3, ver := 1, words := some [0x410950200000000], status := 0, dest := 1,
                                                count := 1, left := some left } }) imageIn

theorem wit_BlockWordsComplete_csload :
    ((csloadRow (.csload false 0 1 2 5) imageIn).map (fun r => (r.2.2.2.1.status, r.2.2.2.1.left, r.2.2.2.1.words.isSome))) = some (0, some 5, true) ∧
    Ready [2, 5] [1] imageIn ∧ ((csloadRow (.csload false 0 1 2 5) (mapClus 0 (fun k => { k with s := k.s.set 1 0x30040 }) imageIn)).map (fun r => (r.2.2.2.1.status, r.2.2.2.1.left))) = some (2, some 4) := by
  unfold Ready; decide

theorem wit_BlockWordsComplete_turns : ((clus (verifying 5) 0).csl.map (·.left)) = some (some 5) ∧ ((clus (verifying 2) 0).csl.map (·.left)) = some (some 2) ∧
    swf 0 0 (verifying 5).cell.cs = true ∧ (clus (verifying 2) 0).pend.all (fun p => decide (p.reg ≠ 1)) = true := by decide

/-! ### Launches -/

/-- A launch of one task, number 3 of queue 2, context 1. -/
def launch (bound : Bool) (ending : Option Nat) : Launch :=
  { q := 2, num := 3, arrival := 0, bytes := leBytes 128 (2 ^ 144), prio := 0, aged := 0, bound, started := bound, everBound := false, preempts := 0,
    gangs := 1, cells := if bound then [4] else [], retired := if bound then [4] else [], req := bound, ending, tcause := 0 }

/-- Queue 2 is enabled for function 0. -/
def queueIn (l : List Launch) : State :=
  mapDev (fun d => { d with launches := l, queues := d.queues.set 2 { Queue.zero with ctl := 1 } }) mapped

/-- The cell runs the task of the launch. -/
def ownIn : State :=
  mapCell (fun k => { k with task := { k.task with q := 2, num := 3, ctx := 1 } }) (queueIn [{ launch true none with cells := [0], retired := [] }])

theorem wit_DispatchEventsComplete : fires dispatchEvent
    [(.launchArrival 0 2 1 [leBytes 128 (2 ^ 144)], queueIn []), (.launchArrival 0 2 17 [], queueIn []), (.firmwareBind 2 3 1 [4], queueIn [launch false none]),
     (.armedWithdraw 2, queueIn []), (.firmwareArm 2 (List.replicate 36 0) 1 [4], queueIn []), (.taskRetire 4, queueIn [launch true none]),
     (.taskRetire 0, mapCell (fun k => { k with halting := true }) ownIn), (.launchEnd 2 3, queueIn [launch false (some 5)]),
     (.qsheadWrite 0 2 1, queueIn []), (.syncaddWrite 1 0 1, queueIn []), (.lctlKill 0 2 3, queueIn [launch false none]), (.lctlKill 0 2 3, ownIn),
     (.lctlPreempt 0 2 3, ownIn), (.preemptRequest 2 3, ownIn), (.lctlRelease 0 2 3, ownIn), (.preemptSave 2 3, queueIn [launch true none]),
     (.quadGate 5, queueIn []), (.quadWakeComplete 0, mapDev (fun d => { d with wakingQuads := [0] }) (queueIn []))] = true := by decide

/-- The record of the part verifies, so a start fails only in the phase that an outside cause names. -/
theorem test_record_verifies : recordBad State.reset.dev.flash = false := by
  have h : (upTo 4).all (fun d => decide (((upTo 128).filter (fun c => State.reset.dev.flash.spares.contains (128 * d + c))).length = 4)) = true := by
    decide
  have h1 : State.reset.dev.flash.sig = Config.aedkenSign (Config.recordBytes State.reset.dev.flash.key State.reset.dev.flash.spares
    State.reset.dev.flash.volts State.reset.dev.flash.repairs) := rfl
  have h2 : State.reset.dev.flash.key = publicBytes (secretOf State.reset.dev.flash.helper) := rfl
  unfold recordBad
  rw [h, decide_eq_false (not_not_intro h1), decide_eq_false (not_not_intro h2)]
  rfl

theorem test_failPhases : failPhaseOf 0 State.reset = 0 ∧ failPhaseOf 8 State.reset = 8 := by
  simp [failPhaseOf, test_record_verifies]

theorem wit_HostEventsComplete_starts : ∀ i ∈ [Instr.powerOn 0, .powerOn 8, .bootctlCold 0, .bootctlWarm 0 true, .bootctlWarm 1 true],
    (bootEvent i State.reset).isSome = true := by
  intro i hi
  simp only [List.mem_cons, List.not_mem_nil, or_false] at hi
  rcases hi with rfl | rfl | rfl | rfl | rfl <;> (unfold bootEvent; dsimp only; split <;> rfl)

theorem wit_HostEventsComplete : fires bootEvent
    [(.voltageStep 127 true, State.reset), (.clockStretch, State.reset), (.hostBar2Access true 0xBFFFFFFFFF [1], mapped),
     (.hostBar2Access false 0xBFFFFFFFFF [0], mapped), (.registerWrite 0 0x5005C8 1, State.reset), (.registerWrite 0 0x200000 4, State.reset),
     (.registerWrite 0 0x101000 2, State.reset)] = true := by decide

/-! ### Transfers -/

/-- A load of the vector stream is under way; port 0 reads and port 6 writes at the first address of the scratchpad. -/
def loadedVec : State := (localLoadState 0x78 vldF vecMid).getD vecMid

def portAt (n : Fin 8) (entries : List PortEnt) : State :=
  mapVec (fun v => { v with ports := v.ports.set n { portOne with entries } }) vecIn

theorem wit_TransferEventsComplete_ports : fires portEvent
    [(.vectorLoadLaneArrive 0, loadedVec), (.portElementFetch 0, portAt 0 []),
     (.portElementWrite 6, portAt 6 [entryOf 1]),
     (.portElementWrite 7, portAt 7 [entryOf 0])] = true := by decide

/-- The source keeps a packet of a kind. -/
def keeping (kind : Nat) : State :=
  mapDev (fun d => { d with fbudget := 8, kept := [{ id := ⟨0, 5, 0, 0, 0⟩, kind, size := 8, ctx := 1, sup := false, va := 0x30000, data := [1], mask := 0, before := [], spent := 0, cargo := none }] }) mapped

/-- The destination has met packet 3 of a path. -/
def metIn : State := mapDev (fun d => { d with dests := [{ src := 5, q := 0, epoch := 0, path := 0, c := 0, window := [3], kept := [] }] }) mapped

theorem wit_TransferEventsComplete_packets : fires fabricEvent
    [(.globalResponseReturn 0 5 0 0 0 true ⟨[1], []⟩, keeping 0), (.globalResponseReturn 0 5 0 0 0 false ⟨[], []⟩, keeping 7), (.packetAckReceive 0 5 0 0 0 8, keeping 1),
     (.rerouteNotice 0 5 0 0 0, keeping 1), (.unreachableNotice 0 5 0 0 0, keeping 1), (.busyNotice 0 5 0 0 0, keeping 1),
     (.requestPacketArrive 5 0 1 0 7 0 false 0 0x30000 [8] [], mapped), (.requestPacketArrive 5 0 1 0 0 63 false 1 0x3FFFF [8] [], mapped),
     (.requestPacketArrive 5 0 1 0 0 64 false 1 0x30000 [8] [], mapped), (.requestPacketArrive 5 0 1 0 0 3 false 1 0x30000 [8] [], metIn),
     (.packetForward 0 0 0 0 ⟨0, 0, none⟩ 0 0, mapped), (.packetForward 5 0 0 0 ⟨0, 1, none⟩ 0 0, mapped), (.cancelReceive 5 0 0 0 63, mapped), (.closeReceive 5 0 0, mapped)] = true := by
  decide

/-! ### Commands -/

/-- A job of the copy engine. -/
def job (started complete : Bool) (wait : Nat) : Job :=
  { adm := 1, card := leBytes 256 (2 ^ 127 + 2 ^ 191), ext := [], sup := false, seed := 0, ps7 := 0, deps := [], released := true, started,
    done := 0, asks := [], puts := [], acks := [], wait, complete, cluster := 0, upto := 0, obs := 0, snap := Snap.zero, stopping := false }

def jobIn (j : Job) : State := mapCell (fun k => { k with jobs := [j] }) mapped

/-- A Menders command over one element at 0x30000 of context 1, whose page stands in the TLB. -/
def mend (started settled : Bool) : Mend :=
  { adm := 1, card := leBytes 64 (2 ^ 160 + 0x30000 * 2 ^ 192 + 2 ^ 256 + 2 ^ 511), sup := false, released := true, started, pos := 0, skipped := 0, vote := none,
    failed := false, settled, cause := none }

def mendIn (m : Mend) : State :=
  mapCell (fun k => { k with
    mends := [m], task := { k.task with ctx := 1 }, spa := [(0, boundEntry 1 true)], tlb := [{ ctx := 1, big := false, vpn := 3, leaf := 0x5180F }] }) mapped

theorem wit_CommandEventsComplete_jobs : fires jobEvent
    [(.jobStart 1, jobIn (job false false 0)), (.jobChunkComplete 1, jobIn (job true false 1)), (.jobChunkComplete 1, jobIn (job true false 0)),
     (.jobComplete 1, jobIn (job true true 0)), (.mendersCmdStart 1, mendIn (mend false false)), (.mendersChunk 1, mendIn (mend true false)),
     (.mendersCmdComplete 1, mendIn (mend true true))] = true := by decide

/-- A collective command of a kind, whose status goes to the first address of the scratchpad. -/
def coll (kind : Nat) (started settled : Bool) : Coll :=
  { adm := 1, kind, blk := leBytes 64 (2 ^ 511 + 2 ^ 64 + 2 ^ 128), sup := false, cluster := 0, upto := 0, released := true, started, members := [0, 5], rank := 0, call := 1,
    hash := 0, awaiting := [1, 2], absent := [], verdict := false, sums := [], got := [], steps := 0, wrote := 0, inbox := [], asked := [(1, 0)], listed := [],
    ranks := [], gone := false, failed := false, mismatch := false, settled, cause := none }

/-- Context 1 has a group of two members and a log of one slot; the cell's task is of that context. -/
def ctxIn : Ctx :=
  { Ctx.fresh 1 with
    groups := (Ctx.fresh 1).groups.set 0 { defined := true, members := [0, 5], rank := 0, calls := 0, hash := 0 }
    log := { (Ctx.fresh 1).log with base := 0x40001, slots := 1, win := 16, s0 := 1, live := true } }

def collIn (l : List Coll) : State :=
  mapDev (fun d => { d with ctxs := [ctxIn] }) (mapCell (fun k => { k with colls := l, task := { k.task with ctx := 1 }, spa := [(0, boundEntry 1 true)] }) mapped)

/-- The log entry of step 1 and slot 0, with its CRC. -/
def logEntry : List Byte := leBytes 28 1 ++ leBytes 4 (crc32c (leBytes 28 1)).toNat

theorem wit_CommandEventsComplete_colls : fires groupEvent
    [(.collCmdStart 1, collIn [coll 0 false false]), (.collCmdStart 1, collIn [coll 3 false false]), (.collCmdComplete 1, collIn [coll 0 true true]),
     (.presenceRequestReceive ⟨5, 0, 0, 0, 0⟩ ⟨0, 0⟩ 1 1 0 8 false, collIn []), (.presenceRequestReceive ⟨5, 0, 0, 0, 1⟩ ⟨0, 0⟩ 1 1 0 8 false, collIn []),
     (.presenceReportReceive ⟨5, 0, 0, 0, 1⟩ 0 1 1 [1] 0 8 false, collIn [coll 0 true false]), (.presenceReportReceive ⟨5, 0, 0, 0, 1⟩ 0 1 1 [] 1 8 false, collIn [coll 0 true false]),
     (.collVerdictReceive ⟨5, 0, 0, 0, 1⟩ 0 1 [1], collIn [coll 0 true false]), (.collDataChunkReceive ⟨5, 0, 0, 0, 1⟩ 0 1 1 0 [7], collIn [coll 0 true false]),
     (.collFaultNotice ⟨5, 0, 0, 0, 1⟩ 0 1 true, collIn [coll 0 true false]), (.crotBlockReceive ⟨5, 0, 0, 0, 1⟩ ⟨0, 0⟩ 1 ⟨1, 1, [7]⟩, collIn [coll 1 true true]),
     (.crotAbortReceive ⟨5, 0, 0, 0, 1⟩ 0 1 [1], collIn [coll 1 true false]), (.logReceive ⟨5, 0, 0, 0, 0⟩ logEntry false, collIn []), (.logReceive ⟨5, 0, 0, 0, 1⟩ logEntry false, collIn []),
     (.logpullRequestReceive ⟨5, 0, 0, 0, 1⟩ 5 1 0, collIn []), (.logpullRequestReceive ⟨5, 0, 0, 0, 0⟩ 5 1 0, collIn []),
     (.logpullAnswerReceive 1 1 1 0 none true, collIn [coll 3 true false]), (.logbaseWrite 0 0x40001, collIn []),
     (.logbaseWrite 0 0x40001, collIn [coll 3 true false])] = true := by decide

/-! ### Errors and links -/

/-- Context 1 with a capture of its one page. -/
def captureIn (gen : BitVec 22) (busy : List Nat) (sweep : Option (Option Nat)) : State :=
  mapDev (fun d => { d with ctxs := [{ Ctx.fresh 1 with cap := { (Ctx.fresh 1).cap with act := true, valid := true, pages := 1, gen, busy, sweep } }] }) mapped

theorem wit_ErrorEventsComplete : fires errorEvent
    [(.dramReadCorrected 0xBFFFFFFFFF 0 0 0 0 0, State.reset), (.dramReadUncorrectable 0xBFFFFFFFFF 0 0 0 512 0, State.reset),
     (.dramParityError 0 0 0 0 7 512 0, State.reset), (.laneCountDecay 0 0 0, State.reset), (.sramCorrected 0 0, State.reset), (.sramUncorrectable 9 0, State.reset),
     (.scrubRead ⟨0, 0, 0⟩ 0 .corrected true, State.reset), (.scrubRead ⟨0, 0, 0⟩ 0 .clean false, State.reset), (.scrubRead ⟨0xBFFFFFFFE0, 11, 0⟩ 0 .uncorrectable false, State.reset), (.ebClr 15, State.reset), (.ebClrcnt 0, State.reset),
     (.pcieError 0 0, State.reset), (.internalError 0, State.reset), (.pageCapture 1 ⟨0, true⟩, captureIn 0 [] none), (.captureComplete 1 0 true, captureIn 0 [0] none),
     (.captureComplete 1 0 false, captureIn 0 [0] none), (.sweepEnd 1, captureIn 1 [] (some none))] = true := by decide

/-- A data flit of a number, sent and not acknowledged. -/
def sentOnce (seq : Nat) : SentFlit := { seq, slot := false, times := 0, kind := 0, vc := 1, payload := [] }

/-- Port 23 is up, with a key loaded in its other slot. -/
def linkIn (retry : List SentFlit) (sinceAck : Nat) : State :=
  mapDev (fun d => { d with linkUp := 0x800000, ports := d.ports.set 23 { LinkPort.zero with up := true, en := true, keyB := some 0, retry, sinceAck } }) State.reset

/-- A plain flit with its check, and one whose check has a bit turned. -/
def plainFlit (kind seq : Nat) (good : Bool) : FlitBody :=
  let c := flitCheck (flitHeader kind 1 false false seq 0 0)
  { vc := 1, ctl := 0, payload := [], check := if good then c else (c.head?.getD 0 ^^^ 1) :: c.tail }

theorem wit_LinkEventsComplete : fires linkEvent
    [(.flitReceive 23 0 0 0 false (plainFlit 0 0 true) false, linkIn [] 0), (.flitReceive 23 2 1 0 false (plainFlit 2 1 true) false, linkIn [] 0),
     (.flitReceive 23 0 0 0 false (plainFlit 0 0 false) false, linkIn [] 0), (.flitReceive 0 0 0 0 false (plainFlit 0 0 true) false, linkIn [] 0),
     (.nakReceive 23 0, linkIn [sentOnce 0] 0), (.retryBufferResend 23, linkIn ((List.range 256).map sentOnce) 256), (.retryBufferResend 23, linkIn [] 255),
     (.linkDeath 23, linkIn [] 0), (.linkTrained 0, linkIn [] 0), (.keyMarkerReceive 23, linkIn [] 0), (.keyLoad 23 ⟨true, 5⟩, linkIn [] 0), (.keyLoad 23 ⟨false, 5⟩, linkIn [] 0),
     (.lkctlSwitch 23, linkIn [] 0), (.keylimReached 23, linkIn [] 0), (.frtload, State.reset), (.flinkdn 0x800000, linkIn [] 0)] = true := by decide

/-! ### Encodings -/

/-- SUB, ADDI, LDD, STW, BEQZ and MFSR, each as the sum of its fixed bits and its fields at their places (R50). -/
theorem test_decode_scalar_fields :
    decodeWord 32 (0x00800001 + 3 * 2 ^ 29 + 5 * 2 ^ 18 + 6 * 2 ^ 13 + 7 * 2 ^ 8) = some (.sub false 3 5 6 7) ∧
    decodeWord 32 (0x01800000 + 2 ^ 31 + 5 * 2 ^ 18 + 6 * 2 ^ 13 + 0x1FFF) = some (.addi true 0 5 6 0x1FFF) ∧
    decodeWord 32 (0x09800000 + 31 * 2 ^ 18 + 1 * 2 ^ 13 + 8) = some (.ldd false 0 31 1 8) ∧
    decodeWord 32 (0x0B800000 + 1 * 2 ^ 18 + 31 * 2 ^ 13 + 8) = some (.stw false 0 1 31 8) ∧
    decodeWord 32 (0x10800000 + 4 * 2 ^ 18 + 0x20000) = some (.beqz false 0 4 0x20000) ∧
    decodeWord 32 (0x07000000 + 4 * 2 ^ 18 + 0x1FF) = some (.mfsr false 0 4 0x1FF) := by decide

theorem wit_DecodeEncode : [Instr.halt false 3, .add true 3 31 30 29, .vnop VWord.zero, .mzero { MWord.zero with acc := 1023, cnt := 1023 },
    .unop { UWord.zero with fin := true }].all (fun i => i.wf && i.encodable && decide (decodeTableWord (encodedBits i) (encode i) = some i)) = true := by decide

theorem wit_WordsHaveOneMeaning : (decodeTableWord 32 0).isSome = true ∧ (decodeTableWord 64 0).isSome = true ∧ (decodeTableWord 96 0).isSome = true ∧
    (decodeTableWord 192 0).isSome = true ∧ decodeTableWord 32 0xFFFFFFFF = none := by decide

/-! ### The machine -/

/-- The state, its cycles passed, at which a step's turn begins. -/
def begun (s : State) : State := (beginTurn s).2

theorem wit_StepRuns_cluster : (beginTurn (State.reset.withFetchWord 32 0)).1 = .cluster 0 ∧
    fetchReeve 0 (clusterAt 0 (begun (State.reset.withFetchWord 32 0))) = .word 0 ∧ ClusterIssues 0 0 (begun (State.reset.withFetchWord 32 0)) := by
  refine ⟨by decide, by rfl, ?_⟩
  unfold ClusterIssues; decide

theorem wit_StepRuns_vector : (beginTurn (State.reset.withFetchWord 96 0)).1 = .vector ∧
    vecWordAt (vecPass (begun (State.reset.withFetchWord 96 0))) = some 0 ∧ VectorIssues (begun (State.reset.withFetchWord 96 0)) := by
  unfold VectorIssues; decide

theorem wit_StepRuns_matrix : (beginTurn (State.reset.withFetchWord 192 0)).1 = .matrix ∧
    matWordAt (begun (State.reset.withFetchWord 192 0)) = some 0 ∧ MatrixIssues (begun (State.reset.withFetchWord 192 0)) := by
  unfold MatrixIssues; decide

theorem wit_StepRuns_custom : (beginTurn (State.reset.withFetchWord 64 0)).1 = .custom ∧
    sget 0 (customAt (begun (State.reset.withFetchWord 64 0))).cell.cs (2048 * (uImage (customAt (begun (State.reset.withFetchWord 64 0)))).1 +
      (customAt (begun (State.reset.withFetchWord 64 0))).vec.cu.upc) = BitVec.ofNat 64 0 ∧ CustomIssues (begun (State.reset.withFetchWord 64 0)) := by
  unfold CustomIssues; decide

theorem wit_StepRuns_event : isEvent .clockStretch = true ∧ (beginTurn { State.reset with agenda := [{ turn := .event .clockStretch, cycles := 0 }] }).1 =
    .event .clockStretch := by decide

theorem wit_MemoryStaysCanonical : memWf State.reset.dev.mem = true ∧ memWf storing.dev.mem = true ∧
    (match step storing with | .next t => memWf t.dev.mem && decide (t.dev.mem ≠ []) | _ => false) = true := by decide

/-- The last byte of DRAM and the first address above it. -/
theorem wit_NothingRefused : (0xBFFFFFFFFF < 0xC000000000 ∧ 0xBFFFFFFFFF + ([0] : List (BitVec 8)).length ≤ 0xC000000000) ∧
    (match exec (.hostBar2Access false 0xBFFFFFFFFF [0]) State.reset with | .next _ => true | _ => false) = true ∧
    (match exec (.hostBar2Access false 0xC000000000 [0]) State.reset with | .next _ => false | _ => true) = true := by decide

/-- The last address of BAR2 and the first beyond it. -/
theorem wit_NothingRefused_size : ¬(2 ^ State.reset.dev.bar2 ≤ 2 ^ 40 - 1) ∧ 2 ^ State.reset.dev.bar2 ≤ 2 ^ 40 := by decide

theorem wit_IntegerArithmetic : 63 < 64 ∧ 3 < perLane 8 ∧ perLane 3 = 1 ∧ perLane 8 = 4 := by decide

/-- The last element of f16x2 and the one of f32. -/
theorem wit_FloatArithmetic : 63 < 64 ∧ 1 < perLane 2 ∧ floatType 2 = true ∧ perLane 0 = 1 ∧ floatType 0 = true ∧ floatType 10 = true ∧
    codeNan fmt32 0x7FC00000 = true ∧ codeInf fmt32 0xFF800000 = true ∧ codeVal fmt32 0x80000000 = 0 ∧ codeVal fmt32 1 ≠ 0 := by decide +kernel

/-- A conversion of f32 to f16x2 writes part 0 under RZ; 2.5 is finite, and the last mode of VRND is 3. -/
theorem wit_SelectsAndConversions : 3 < perLane 8 ∧ 0 < perLane 9 ∧ (3#21).toNat < 4 ∧ codeNan fmt32 0x40200000 = false ∧ codeInf fmt32 0x40200000 = false ∧
    (vcompute { op := 0x32, t := 2, src := 0, rep := 0, fa := .xreg 0, fb := .imm 1, a := List.replicate 64 0, b := [], d := [], mtop := 0, en := 1,
                key := 0 }).wr.getLsbD 31 = true ∧ (1#21).toNat % 4 ≤ 1 ∧ perLane 2 = 2 ∧ perLane 8 = 4 := by decide

/-- Lane 63 of VCOMP under one enabled lane; an amax register of 1.0, and one that is a NaN. -/
theorem wit_MovesAndReductions : (63#21).toNat < 64 ∧ -63 ≤ (63#21).toInt ∧ (63#21).toInt ≤ 63 ∧ (0x8000000000000000#64).getLsbD 63 = true ∧
    floatType 1 = true ∧ codeNeg fmt32 0x3F800000 = false ∧ codeNan fmt32 0x7FC00000 = true ∧ codeNeg fmt32 0x7FC00000 = false := by decide

/-- 127, −149, 0.25, 2.5 and the smallest number whose reciprocal lies below 2^128. -/
theorem wit_FunctionValues : codeVal fmt32 0x42FE0000 = (127 : Int) ∧ codeVal fmt32 0xC3150000 = (-149 : Int) ∧ codeVal fmt32 0x3E800000 = twoTo (-2) ∧
    2 * codeVal fmt32 0x40200000 = 2 * (2 : Int) + 1 ∧ twoTo 127 ≤ (1 / codeVal fmt32 0x00200001).abs ∧
    (1 / codeVal fmt32 0x00200001).abs < twoTo (127 + 1) ∧ twoTo (2 * 0) ≤ 1 / codeVal fmt32 0x3F800000 ∧
    1 / codeVal fmt32 0x3F800000 < twoTo (2 * 0 + 2) := by decide +kernel

theorem wit_BitWords : 63 < 64 ∧ 0 < perLane 9 := by decide

theorem wit_SpecialRegistersHold : (0x100 ≤ 0x107 ∧ 0x107 ≤ 0x107) ∧ srRead 0 0x202 (srWrite 0 0x202 (BitVec.allOnes 64) State.reset) = 0xFFFFFFFFFFFF ∧
    srRead 0 0x11F (srWrite 0 0x11F (BitVec.allOnes 64) State.reset) = 0x00FFFFFF01FFFFFF := by decide

/-- No sample step and no error stands in the cycle; the last register of the banks. -/
theorem wit_SpecialRegistersHold_cycle : State.reset.now.samp.contains 0x123 = false ∧ State.reset.now.samp.contains 0x124 = false ∧
    (cycleErrs State.reset 15).isEmpty = true ∧ 0x310 + 7 * 15 + 6 = 0x37F := by decide

/-! ### More worked values -/

/-- R130: VIABS of 0x80 in i8x4 gives 0x80, and VSUBS of 0x10 and 0x20 in n8x4 gives 0. -/
theorem test_viabs_vsubs :
    (laneAt (vcompute { op := 0x4C, t := 7, src := 0, rep := 0, fa := .xreg 0, fb := .xreg 1, a := List.replicate 64 0x80808080, b := List.replicate 64 0, d := [], mtop := 0, en := 1, key := 0 }).lo 0).toNat % 256 = 0x80 ∧
    (laneAt (vcompute { op := 0x4E, t := 8, src := 0, rep := 0, fa := .xreg 0, fb := .xreg 1, a := List.replicate 64 0x10101010, b := List.replicate 64 0x20202020, d := [], mtop := 0, en := 1, key := 0 }).lo 0) = 0 := by decide

/-- R120: 1.0 + 2.0 in f32 is 3.0. -/
theorem test_vadd_f32 :
    laneAt (vcompute { op := 0x20, t := 0, src := 0, rep := 0, fa := .xreg 0, fb := .xreg 1, a := List.replicate 64 0x3F800000, b := List.replicate 64 0x40000000, d := [], mtop := 0, en := 1, key := 0 }).lo 63 = 0x40400000 := by decide

end Sys2Proof.Tests
end

section
/-! PROOFS. What a cold start leaves (R312, R390, R391, R393, R418). -/

namespace Sys2Proof.Machine

open Sys2Proof

/-! ### Severity registers -/

/-- A severity register that `esevOf` fills is sixteen copies of the action. -/
theorem esevOf_eq_replicate (a : BitVec 4) : esevOf a = BitVec.replicate 16 a := by
  revert a; decide

/-- A field of a word, taken by number, is the field taken by bits. -/
theorem nb_toNat {w : Nat} (v : BitVec w) (lo n : Nat) : nb v.toNat lo n = (v.extractLsb' lo n).toNat := by
  rw [nb, BitVec.extractLsb'_toNat, Nat.shiftRight_eq_div_pow]

/-- R391: the field of every source in a register that `esevOf` fills holds the action, bit by bit. -/
theorem nb_esevOf (a : BitVec 4) (src : Nat) (h : src < 16) : nb (esevOf a).toNat (4 * src) 4 = a.toNat := by
  have hfield : (BitVec.replicate 16 a).extractLsb' (4 * src) 4 = a := by
    apply BitVec.eq_of_getLsbD_eq
    intro i hi
    have hin : 4 * src + i < 4 * 16 := by omega
    have hbit : (4 * src + i) % 4 = i := by omega
    rw [BitVec.getLsbD_extractLsb', BitVec.getLsbD_replicate, hbit, decide_eq_true hi, decide_eq_true hin,
      Bool.true_and, Bool.true_and]
  rw [nb_toNat, esevOf_eq_replicate, hfield]

/-- The cold-start action of a class (the table of R390). -/
def coldAction (c : Nat) : Nat := ([2, 2, 1, 3, 2, 2, 4, 5, 5, 2, 3, 3, 3, 3, 3, 3][c]?).getD 0

/-- R390: the model's severity registers are the sixteen rows of the table, each a four-bit action. -/
theorem esevReset_rows : ∀ c, c < 16 → coldAction c < 16 ∧ vget esevReset c 0 = esevOf (BitVec.ofNat 4 (coldAction c)) := by
  decide

/-- R390: the field of every source in the severity register of a class holds the cold-start action of the class's row. -/
theorem nb_vget_esevReset (c : Nat) (hc : c < 16) (src : Nat) (hsrc : src < 16) :
    nb (vget esevReset c 0).toNat (4 * src) 4 = coldAction c := by
  obtain ⟨hlt, hrow⟩ := esevReset_rows c hc
  rw [hrow, nb_esevOf _ src hsrc, BitVec.toNat_ofNat, Nat.mod_eq_of_lt hlt]

/-! ### Uniform vectors and empty memory -/

/-- A vector that holds its default everywhere answers it at every index, in range or not. -/
@[simp] theorem vget_replicate_default {α : Type} (n i : Nat) (x : α) : vget (Vector.replicate n x) i x = x := by
  rw [vget, Vector.getElem?_replicate]
  split
  · rfl
  · rfl

/-- Log 2: an address that nothing has written reads 0. -/
@[simp] theorem memGet_nil (a : Nat) : memGet [] a = 0 := rfl

/-! ### The device after a cold start -/

/-- R393: every error bank is empty. -/
theorem reset_bank_empty (n : Nat) : vget State.reset.dev.banks n Bank.zero = Bank.zero :=
  vget_replicate_default 16 n Bank.zero

/-- R312: every queue of the dispatch block is at zero. -/
theorem reset_queue_zero (q : Nat) : vget State.reset.dev.queues q Queue.zero = Queue.zero :=
  vget_replicate_default 64 q Queue.zero

/-- Settles O59: the severity fields by `nb_vget_esevReset`, banks and queues as uniform vectors, the memory as the empty
list, which is canonical and reads 0 everywhere; the single registers are fields of `DevState.zero`. -/
theorem resetLeaves : Obligations.ResetLeaves := by
  unfold Obligations.ResetLeaves
  have hbank : ∀ n, n < 16 → vget State.reset.dev.banks n Bank.zero = Bank.zero := fun n _ => reset_bank_empty n
  have hqueue : ∀ q, q < 64 → vget State.reset.dev.queues q Queue.zero = Queue.zero := fun q _ => reset_queue_zero q
  refine ⟨nb_vget_esevReset, hbank, ?fbudget, ?frtBase, ?fdevid, ?linkUp, ?tlbInv, ?pfqBase, ?pfqHead, ?pfqTail, ?lctl, ?ctxtBase,
    ?ctxtN, hqueue, ?bootPhase, ?bootReady, ?bootFails, ?bootSafe, ?launches, ?bound, memWf_reset, memGet_nil⟩
  all_goals rfl

end Sys2Proof.Machine
end
